-- ==== Sys2Proof/Word.lean ====
section
/-! DEFINITION. The bytes and sequence numbers of the Dolfex 4SL, the names of its ports, entries and
buffers, and tables indexed by them. -/

namespace Sys2Proof

/-- A byte of a frame, of a host record or of a buffer. -/
abbrev Byte := BitVec 8

/-- A two-byte value (host tags; sent low byte first, R196). -/
abbrev Half := BitVec 16

/-- A sequence number, 0 to 7, taken modulo 8 (R24). -/
abbrev Seq := BitVec 3

/-- A host port, P0 to P3. -/
abbrev Port := Fin 4

/-- The index of a connection entry, 0 to 31 (R1). -/
abbrev EntryIdx := Fin 32

/-- The handle of a buffer, 0 to 191 (R80). -/
abbrev Handle := Fin 192

/-- A byte from a small number. -/
abbrev byte (n : Nat) : Byte := BitVec.ofNat 8 n

/-- A flag as one byte, 0 or 1. -/
def flagByte (b : Bool) : Byte := if b then 1 else 0

/-- The value a table of fixed length holds at an index. -/
def look {α : Type} {n : Nat} (t : Vector α n) (i : Fin n) : α := t[i.val]

/-- The table with the value at one index replaced. -/
def put {α : Type} {n : Nat} (t : Vector α n) (i : Fin n) (a : α) : Vector α n := t.set i.val a

end Sys2Proof
end

