-- ==== Sys2Proof/Config.lean ====
section
/-! DEFINITION. The fixed sizes of the part, the grain of its time base, and the one point on which two rules of the manual
disagree, a constant without a body. -/

namespace Sys2Proof.Config

/-- A queue holding fewer records than this has room for a held notice or a droppable event (R97). -/
def queueRoom : Nat := 47

/-- Records the stray reply list holds at most (R147). -/
def strayMax : Nat := 8

/-- Listen entries the listen table holds at most (R54). -/
def listenMax : Nat := 16

/-- Station records the turn list holds at most (R118). -/
def turnMax : Nat := 32

/-- Messages one entry holds at most (R4). -/
def messageMax : Nat := 16

/-- RECEIVED notices in a notice list that make the entry busy (R51). -/
def noticeFull : Nat := 4

/-- Buffers of the pool (R80). -/
def buffers : Nat := 192

/-- Payload bytes of one buffer (R80). -/
def bufferBytes : Nat := 240

/-- Bytes of one received frame at most (R157). -/
def frameMax : Nat := 256

/-- The line counters and the rotation counter stop at these values (R167, R116). -/
def counterMax : Nat := 65535

/-- The rotation counter saturates here (R116). -/
def rotationMax : Nat := 255

/-- An OVERFLOW record's dropped count stays here (R104). -/
def droppedMax : Nat := 255

/-- DESIGN CHOICE, log entry 3: the step on an empty queue is one 10 µs tick of the line timing. -/
def tickMicros : Nat := 10

/-- Ticks of 10 µs in a millisecond (the answer timers count in milliseconds). -/
def ticksPerMs : Nat := 100

/-- FREE, log entry 21: whether, at the choice that an entry would have had for its DATA but for a CONN.CLOSE ABORT, the CLOSE
of the entry waits and another entry's DATA is taken (row 4 of R156), or the CLOSE is taken (R145). -/
opaque abortedCloseWaits : Bool

end Sys2Proof.Config
end

