-- ==== Sys2Proof/Syntax.lean ====
section
/-! DEFINITION. The commands of the part, one constructor for each row of spec/opcode_table.json: the host
requests as the rise of select takes them, the other host transactions, the input pins, the reports of the
line interface, the expiries of the timers and the two arbiters' choices. -/

namespace Sys2Proof

/-- What every request record has besides its fixed arguments (R173): the port it came over, its sequence tag,
and the bytes that followed the fixed arguments. Those are BUF.WRITE's data bytes. For any other known request
they are surplus and make it BAD_ARG. -/
structure Req where
  port : Port
  tag : Byte
  rest : List Byte
  deriving DecidableEq, Repr

/-- Bits that a host clocks on SDI of a port while select is low, counted from the fall (R171). -/
structure Clocked where
  port : Port
  sdi : List Bool
  deriving DecidableEq, Repr

/-- The header fields of a received frame that its row does not fix: source, DCI, SCI and the sequence byte
(R197). The destination is the part's own station address and the kind is the row's. -/
structure RxHead where
  src : Byte
  dci : Byte
  sci : Byte
  seq : Byte
  deriving DecidableEq, Repr

/-- How a frame end was reported (R157). A frame ended by the interface at its 256th byte is reported
truncated, and it alone leaves the interface ignoring the line: it has a name of its own here. -/
inductive FrameStatus where
  | good
  | codingViolation
  | truncated
  | cutOff
  deriving DecidableEq, Repr

/-- The commands, in the table's order. `sdi` is what the host has clocked on SDI, bit by bit in the order of the clocks
(R171): for an ignored transaction and for a fall of select the bits since the fall, and for a truncated request and a
collect the bits after the type byte, which the row fixes. -/
inductive Instr where
  | bufGet (r : Req)
  | bufPut (r : Req) (handle : Byte)
  | bufWrite (r : Req) (handle offset count : Byte)
  | bufRead (r : Req) (handle offset count : Byte)
  | connOpen (r : Req) (service station window priority retryLimit : Byte) (answerTime : Half)
  | connSend (r : Req) (entry handle length : Byte) (hostTag : Half) (notify : Byte)
  | connHold (r : Req) (entry : Byte)
  | connResume (r : Req) (entry : Byte)
  | connClose (r : Req) (entry form : Byte)
  | connRelease (r : Req) (entry : Byte)
  | connQuery (r : Req) (entry : Byte)
  | listenAdd (r : Req) (service stationMatch stationMask windowMax priority retryLimit : Byte)
      (answerTime : Half) (accepts : Byte)
  | listenDrop (r : Req) (service stationMatch stationMask : Byte)
  | listenList (r : Req)
  | evtFetch (r : Req) (n : Byte)
  | evtFilter (r : Req) (kind filter : Byte)
  | portInfo (r : Req)
  | portResetRequest (r : Req)
  | cfgTake (r : Req)
  | cfgPass (r : Req) (heir : Byte)
  | cfgStation (r : Req) (station : Byte)
  | cfgLine (r : Req) (bitRate turnResponse lostBase claimSlot turnBudget holdLimit probeInterval : Byte)
  | cfgRead (r : Req)
  | cfgQuota (r : Req) (port reserve limit : Byte)
  | turnAdd (r : Req) (station : Byte)
  | turnRemove (r : Req) (station : Byte)
  | turnList (r : Req)
  | lineStart (r : Req)
  | lineStop (r : Req)
  | lineStatus (r : Req) (clear : Byte)
  | unknownRequest (r : Req) (code : Byte)
  | truncatedRequest (port : Port) (sdi : List Bool)
  | collect (port : Port) (sdi : List Bool)
  | ignoredTransaction (port : Port) (sdi : List Bool)
  | prstnAsserted (port : Port)
  | prstnReleased (port : Port)
  | resetAsserted
  | resetReleased
  | frameStart
  | frameEnd (status : FrameStatus) (bytes : List Byte)
  | dataReceived (h : RxHead) (payload : List Byte)
  | readyReceived (h : RxHead)
  | waitReceived (h : RxHead)
  | repeatReceived (h : RxHead)
  | openReceived (h : RxHead) (service window : Byte)
  | acceptReceived (h : RxHead) (window : Byte)
  | refuseReceived (h : RxHead) (reason : Byte)
  | closeReceived (h : RxHead)
  | closedReceived (h : RxHead) (reason : Byte)
  | turnReceived (h : RxHead)
  | endOfTransmission
  | transmitFault
  | answerTimerExpiry (entry : EntryIdx)
  | lostTimerExpiry
  | holdTimerExpiry
  | turnResponseTimerExpiry
  | schedulerChoice
  | noticeAdmission (port : Port)
  | lineReturnsToIdle
  | selectFalls (fall : Clocked)
  deriving DecidableEq, Repr

end Sys2Proof
end

