-- ==== Sys2Proof/Machine/State.lean ====
section
/-! DEFINITION. The state of the Dolfex 4SL as plain data, block by block as the manual's block overview names
them, and its value after device reset. -/

namespace Sys2Proof.Machine

/-! ### The connection table (R1 to R5) -/

/-- The six states of an entry (R1). `opened` is the manual's OPEN. -/
inductive EntryState where
  | free | opening | opened | draining | closing | ended
  deriving DecidableEq, Repr

/-- Why a connection ended (R15). -/
inductive EndReason where
  | noAnswer | badAck | peerClosed | peerReset | refusedNoService | refusedFull | refusedStale | protocol
  deriving DecidableEq, Repr

/-- The one-shot control frame an entry must send (R2, R71). -/
inductive ControlDue where
  | none | sendOpen | sendClose | sendAccept
  deriving DecidableEq, Repr

/-- A message record of a send queue (R3). -/
structure Msg where
  handle : Handle
  length : Nat
  tag : Half
  notify : Bool
  deriving DecidableEq, Repr

/-- A message record of an unacknowledged list: its SN and its needs-transmit mark (R3). -/
structure SentMsg where
  msg : Msg
  sn : Seq
  needsTx : Bool
  deriving DecidableEq, Repr

/-- A held notice (R105), with the fields its event record will carry besides the alerts mark. -/
inductive Notice where
  | arrived (station service : Byte)
  | received (handle : Handle) (length : Nat)
  | unsent (tag : Half) (handle : Handle) (length : Nat)
  | ended (reason : EndReason)
  deriving DecidableEq, Repr

/-- The flags of an entry that R13 and R15 clear together, peer waiting to query outstanding (R2). -/
structure Flags where
  peerWaiting : Bool := false
  hostHold : Bool := false
  starved : Bool := false
  busyAnnounced : Bool := false
  statusDue : Bool := false
  repeatDue : Bool := false
  repeatSent : Bool := false
  answerOwed : Bool := false
  ackDue : Bool := false
  queryDue : Bool := false
  queryOutstanding : Bool := false
  deriving DecidableEq, Repr

/-- A connection entry (R2). An absent field is `none`. `answerPhase` is the model's own: the 10 µs ticks since
the answer timer last showed a new millisecond (log entry 3). So is `aborted`: a CONN.CLOSE ABORT took the entry out of the
DATA class, the only one it was a member of, and since then its CLOSE has not started, nor has a choice passed it over (log entry 21). -/
structure ConnEntry where
  state : EntryState := .free
  owner : Option Port := none
  orphan : Bool := false
  remoteStation : Option Byte := none
  remoteIndex : Option Byte := none
  service : Option Byte := none
  window : Option Nat := none
  priority : Option (Fin 4) := none
  retryLimit : Option Nat := none
  answerTime : Option Nat := none
  vs : Seq := 0
  va : Seq := 0
  vr : Seq := 0
  sendQueue : List Msg := []
  unacked : List SentMsg := []
  notices : List Notice := []
  flags : Flags := {}
  controlDue : ControlDue := .none
  retryCount : Nat := 0
  answerTimer : Option Nat := none
  answerPhase : Nat := 0
  endReason : Option EndReason := none
  closeTimedOut : Bool := false
  closeFinished : Bool := false
  aborted : Bool := false
  deriving DecidableEq, Repr

/-- A listen entry (R54). -/
structure ListenEntry where
  owner : Port
  service : Byte
  stationMatch : Byte
  stationMask : Byte
  windowMax : Nat
  priority : Fin 4
  retryLimit : Nat
  answerTime : Nat
  accepts : Nat
  deriving DecidableEq, Repr

/-! ### The buffer pool (R80 to R84) -/

/-- A port's buffer account and its held set (R82, R84). The held set is unordered in the manual and is kept
here in ascending order without repeats, so that equal sets are equal data. -/
structure Account where
  charge : Nat := 0
  reserve : Nat := 16
  limit : Nat := 96
  held : List Handle := []
  deriving DecidableEq, Repr

/-- The bytes of the buffers: address 240 × handle + offset, listed in rising order, no listed byte 0. -/
abbrev Memory := List Host.Cell

/-- The buffer pool. -/
structure Pool where
  mem : Memory
  freeList : List Handle
  accounts : Vector Account 4
  deriving DecidableEq, Repr

/-! ### The host ports and their event queues (R97 to R101, R109, R170) -/

/-- The eight line codes, with the station that three of them carry (R100). -/
inductive LineCode where
  | started | stopped | claimed | sole | txFault
  | duplicateTurn (station : Byte) | stationPresent (station : Byte) | stationSilent (station : Byte)
  deriving DecidableEq, Repr

/-- The fields of an event record besides its alerts mark (R98). The four held kinds are a notice in a queue. -/
inductive EventBody where
  | held (entry : EntryIdx) (notice : Notice)
  | sent (entry : EntryIdx) (tag : Half)
  | opened (entry : EntryIdx)
  | closed (entry : EntryIdx) (timedOut : Bool)
  | peerWait (entry : EntryIdx)
  | peerReady (entry : EntryIdx)
  | starved (entry : EntryIdx)
  | listenDone (entry : EntryIdx) (service : Byte)
  | line (code : LineCode)
  | overflow (dropped : Nat)
  deriving DecidableEq, Repr

/-- An event record (R98). -/
structure EventRecord where
  body : EventBody
  alerts : Bool
  deriving DecidableEq, Repr

/-- The values of a filter (R101). -/
inductive Filter where
  | drop | queue | alert
  deriving DecidableEq, Repr

/-- The twelve kinds a filter table has a filter for, ARRIVED to LINE (R101). -/
inductive FilterKind where
  | arrived | received | unsent | ended | sent | opened | closed | peerWait | peerReady | starved | listenDone
  | line
  deriving DecidableEq, Repr

/-- A port's filter table (R101), by the twelve kinds in the manual's order. -/
abbrev Filters := Vector Filter 12

/-- The statuses of a reply (R177). -/
inductive Status where
  | ok | unknown | badArg | noRight | notOwner | badHandle | badState | offline | tableFull | queueFull
  | noBuffer | duplicate | truncated | none
  deriving DecidableEq, Repr

/-- A reply record (R174). -/
structure Reply where
  status : Status
  tag : Byte
  lost : Bool
  results : List Byte
  deriving DecidableEq, Repr

/-- What a port is doing between a fall and a rise of its select (R170). `begun` is the time before the type
byte is complete, when a transaction is in progress and its type not yet known (R171, log entry 2). -/
inductive Transaction where
  | idle | begun | request | collect | ignored
  deriving DecidableEq, Repr

/-- A host port. `selectLow` is the level of Pn_SELn (low is selected), and `inReset` is port in reset, which follows
Pn_PRSTn. Three fields are the model's own (log entry 14): `sdi` holds the bits that the host has clocked since select
fell into the transaction in progress, `sdo` is the record of the bits Pn_SDO has carried since select fell into the last
transaction, and `cutShort` says that a port reset ended that transaction and select has not risen since, so that SDO
carries zeros (R179). ATTN is no field: it is `PortState.attn`, computed from the queue
(R112). -/
structure PortState where
  transaction : Transaction
  requestBytes : List Byte
  slot : Option Reply
  collectPos : Nat
  inReset : Bool
  selectLow : Bool
  cutShort : Bool
  sdi : List Bool
  sdo : List Bool
  queue : List EventRecord
  filters : Filters
  admission : EntryIdx
  deriving DecidableEq, Repr

/-! ### The turn controller (R116, R118) -/

/-- The five states of the line engine. -/
inductive LineState where
  | offline | waiting | holding | handing | stopping
  deriving DecidableEq, Repr

/-- A record of the turn list (R118): `present` is the status PRESENT, its absence SILENT. -/
structure Station where
  address : Byte
  present : Bool
  deriving DecidableEq, Repr

/-- Whether a handover is to the successor or a probe (R116). -/
inductive HandoverKind where
  | normal | probe
  deriving DecidableEq, Repr

/-- The turn controller (R116). Timers are in µs, `none` when stopped. -/
structure TurnController where
  engine : LineState := .offline
  list : List Station := []
  frameCount : Nat := 0
  rotation : Nat := 0
  probeCursor : Byte := 0
  target : Option Byte := none
  kind : Option HandoverKind := none
  attempt : Option Nat := none
  lostTimer : Option Nat := none
  holdTimer : Option Nat := none
  responseTimer : Option Nat := none
  deriving DecidableEq, Repr

/-! ### The transmit scheduler (R143, R147, R152) -/

/-- The ten frame kinds (R198). `rept` is REPEAT and `opening` is OPEN. -/
inductive FrameKind where
  | data | ready | wait | rept | opening | accept | refuse | close | closed | turn
  deriving DecidableEq, Repr

/-- A line frame without its length byte and check bytes, which follow from it (R197). -/
structure Frame where
  dest : Byte
  src : Byte
  kind : FrameKind
  dci : Byte
  sci : Byte
  seq : Byte
  payload : List Byte
  deriving DecidableEq, Repr

/-- The reasons of a stray reply, which fix its frame kind (R147): the first two are CLOSED, the rest REFUSE. -/
inductive StrayReason where
  | normal | noConnection | noService | full | stale
  deriving DecidableEq, Repr

/-- A record of the stray reply list (R147). -/
structure StrayReply where
  reason : StrayReason
  dest : Byte
  dci : Byte
  sci : Byte
  deriving DecidableEq, Repr

/-- Who gave the frame in transmission (R152). -/
inductive Origin where
  | entry (e : EntryIdx)
  | stray
  | turn (target : Byte)
  deriving DecidableEq, Repr

/-- The fields a transfer frame discharged at its start (R30). -/
structure Discharged where
  ackDue : Bool := false
  answerOwed : Bool := false
  statusDue : Bool := false
  queryDue : Bool := false
  repeatDue : Bool := false
  deriving DecidableEq, Repr

/-- The frame-in-transmission record (R152). `frame` is what the line interface was given to send; its kind is
the record's kind. -/
structure TxRecord where
  origin : Origin
  frame : Frame
  sn : Option Seq
  discharged : Discharged
  detached : Bool
  deriving DecidableEq, Repr

/-- The transmit scheduler (R143). -/
structure Scheduler where
  strays : List StrayReply
  responsePtr : EntryIdx
  initiativePtr : EntryIdx
  dataPtrs : Vector EntryIdx 4
  tx : Option TxRecord
  deriving DecidableEq, Repr

/-! ### The line interface, the receive dispatcher and the configuration unit -/

/-- The line interface on the receiving side (R157): a frame is being received; the line is ignored until idle. -/
structure LineInterface where
  receiving : Bool := false
  ignoring : Bool := false
  deriving DecidableEq, Repr

/-- The six counters of the receive dispatcher (R167). -/
structure Counters where
  framesForUs : Nat := 0
  checkErrors : Nat := 0
  formatErrors : Nat := 0
  strays : Nat := 0
  straysNotMade : Nat := 0
  handoverFailures : Nat := 0
  deriving DecidableEq, Repr

/-- The line bit rates (R187). -/
inductive BitRate where
  | kbit250 | kbit500 | mbit1 | mbit2 | mbit4
  deriving DecidableEq, Repr

/-- The seven line parameters, each time in its steps as CFG.LINE carries it (R187, R192): turn response time and
claim slot in 10 µs, lost base and hold limit in 100 µs. -/
structure LineParams where
  bitRate : BitRate := .mbit1
  turnResponse : Nat := 20
  lostBase : Nat := 20
  claimSlot : Nat := 10
  turnBudget : Nat := 8
  holdLimit : Nat := 50
  probeInterval : Nat := 16
  deriving DecidableEq, Repr

/-- The configuration unit (R187). -/
structure ConfigUnit where
  rightHolder : Option Port := some 0
  station : Byte := 0
  params : LineParams := {}
  deriving DecidableEq, Repr

/-! ### The whole part -/

/-- The state of the part, and the queue of the commands that wait, first in, first out. `resetLow` is the level
of RESET (asserted). -/
structure State where
  pending : List Instr
  resetLow : Bool
  entries : Vector ConnEntry 32
  listen : List ListenEntry
  pool : Pool
  ports : Vector PortState 4
  turn : TurnController
  sched : Scheduler
  line : LineInterface
  stats : Counters
  config : ConfigUnit
  deriving DecidableEq, Repr

/-- Reasons for the machine to stop with a fault. There are none, which is safe: every rule of the manual gives
its command an effect or says that it has none, and no meaning stops. -/
inductive Fault where
  deriving DecidableEq, Repr

/-- Reasons for a command to have no meaning. -/
inductive Refusal where
  /-- An arm of exec whose command has no meaning yet, by its mnemonic in the table. No arm answers with it in
  this model. Safe: the machine stops. -/
  | notModelled (mnemonic : String)
  deriving DecidableEq, Repr

/-! ### Values after device reset -/

/-- The filters after device reset and after a port reset (R101). -/
def Filters.reset : Filters :=
  #v[.alert, .alert, .alert, .alert, .queue, .alert, .alert, .drop, .drop, .queue, .queue, .alert]

/-- A host port after device reset (R113, R170), with PRSTn and select as its host holds them. -/
def PortState.afterReset (inReset selectLow : Bool) : PortState where
  transaction := .idle
  requestBytes := []
  slot := none
  collectPos := 0
  inReset := inReset
  selectLow := selectLow
  cutShort := false
  sdi := []
  sdo := []
  queue := []
  filters := Filters.reset
  admission := 31

/-- The buffer pool after device reset (R94). -/
def Pool.reset : Pool where
  mem := []
  freeList := List.finRange 192
  accounts := Vector.replicate 4 {}

/-- The transmit scheduler after device reset (R143). -/
def Scheduler.reset : Scheduler where
  strays := []
  responsePtr := 31
  initiativePtr := 31
  dataPtrs := Vector.replicate 4 31
  tx := none

/-- The part right after the release of RESET (R184, R185), with no PRSTn asserted and no select low (log
entry 4). -/
def State.reset : State where
  pending := []
  resetLow := false
  entries := Vector.replicate 32 {}
  listen := []
  pool := Pool.reset
  ports := Vector.replicate 4 (PortState.afterReset false false)
  turn := {}
  sched := Scheduler.reset
  line := {}
  stats := {}
  config := {}

end Sys2Proof.Machine
end

