-- ==== Sys2Proof/Machine/Flags.lean ====
section
/-! DEFINITION. What an entry's fields make of one another: busy and its announcement, eligible DATA, the answer
timer's conditions, the entry's message lists, and its passage into OPENING, OPEN, CLOSING and ENDED. Pure functions
of one entry. -/

namespace Sys2Proof.Machine

/-- The entry is OPEN or DRAINING: the transfer runs (Chapter 2). -/
def ConnEntry.live (c : ConnEntry) : Bool := c.state = .opened || c.state = .draining

def Notice.isReceived : Notice → Bool
  | .received _ _ => true
  | _ => false

/-- The buffer a notice holds, if any. -/
def Notice.buffer : Notice → Option Handle
  | .received h _ => some h
  | .unsent _ h _ => some h
  | _ => none

/-- Notice-full (R51): four RECEIVED notices wait in the notice list. -/
def ConnEntry.noticeFull (c : ConnEntry) : Bool :=
  Config.noticeFull ≤ (c.notices.filter Notice.isReceived).length

/-- The entry is busy (Section 2.6): host hold, starved or notice-full. -/
def ConnEntry.busy (c : ConnEntry) : Bool := c.flags.hostHold || c.flags.starved || c.noticeFull

/-- A WAIT is owed: busy announced and status due are set (R41, R46, R48). -/
def ConnEntry.oweWait (c : ConnEntry) : ConnEntry :=
  { c with flags := { c.flags with busyAnnounced := true, statusDue := true } }

/-- R46: a busy OPEN or DRAINING entry that has not announced it owes a WAIT. -/
def ConnEntry.announceBusy (c : ConnEntry) : ConnEntry :=
  if c.live && c.busy && !c.flags.busyAnnounced then c.oweWait else c

/-- R47, the end-of-busy check: with every cause clear and busy announced set, a READY is owed. -/
def ConnEntry.endOfBusy (c : ConnEntry) : ConnEntry :=
  if !c.busy && c.flags.busyAnnounced then
    { c with flags := { c.flags with busyAnnounced := false, statusDue := true } }
  else c

/-- A message of the unacknowledged list carries the needs-transmit mark. -/
def ConnEntry.marked (c : ConnEntry) : Bool := c.unacked.any (·.needsTx)

/-- The agreed or proposed window. -/
def ConnEntry.windowSize (c : ConnEntry) : Nat := c.window.getD 0

/-- The unacknowledged list holds window messages. -/
def ConnEntry.windowFilled (c : ConnEntry) : Bool := c.windowSize ≤ c.unacked.length

/-- R26: the entry has eligible DATA. -/
def ConnEntry.eligible (c : ConnEntry) : Bool :=
  c.live && c.controlDue = .none && !c.flags.peerWaiting &&
    (c.marked || (!c.sendQueue.isEmpty && !c.windowFilled))

/-- The answer timer set running with the full answer time. -/
def ConnEntry.startTimer (c : ConnEntry) : ConnEntry :=
  { c with answerTimer := c.answerTime, answerPhase := 0 }

/-- The answer timer stopped. -/
def ConnEntry.stopTimer (c : ConnEntry) : ConnEntry := { c with answerTimer := none, answerPhase := 0 }

/-- R44: after an event of an OPEN or DRAINING entry its timer stops if nothing waits for the peer. -/
def ConnEntry.settleTimer (c : ConnEntry) : ConnEntry :=
  if c.live && c.unacked.isEmpty && !c.flags.peerWaiting && !c.flags.queryOutstanding then c.stopTimer else c

/-- The four flags that put an OPEN or DRAINING entry in the response class besides an ACCEPT due (R145). -/
def ConnEntry.owesResponse (c : ConnEntry) : Bool :=
  c.flags.repeatDue || c.flags.statusDue || c.flags.answerOwed || c.flags.ackDue

/-- R145, class 2: the entry is a member of the response class. -/
def ConnEntry.inResponse (c : ConnEntry) : Bool :=
  c.live && (c.controlDue = .sendAccept || c.owesResponse)

/-- R145, class 3: the entry is a member of the initiative class. -/
def ConnEntry.inInitiative (c : ConnEntry) : Bool :=
  (c.state = .opening && c.controlDue = .sendOpen) || (c.state = .closing && c.controlDue = .sendClose) ||
    (c.live && c.flags.queryDue && c.controlDue ≠ .sendAccept)

/-- R145, class 4: the entry is a member of the DATA class at a priority. -/
def ConnEntry.inData (p : Fin 4) (c : ConnEntry) : Bool := c.eligible && c.priority = some p

/-- The entry is a member of the DATA class and of no class before it, so that only a choice from the DATA class can choose
it (R145). -/
def ConnEntry.dataAlone (c : ConnEntry) : Bool := c.eligible && !c.inResponse && !c.inInitiative

/-- The fields R13 writes on entry to CLOSING. The orphan mark and the lists are the caller's. -/
def ConnEntry.toClosing (c : ConnEntry) : ConnEntry :=
  { c.stopTimer with
    state := .closing, controlDue := .sendClose, retryCount := 0, flags := {}, endReason := none,
    closeTimedOut := false, closeFinished := false }

/-- The fields R15 writes on entry to ENDED. The lists are the caller's. -/
def ConnEntry.toEnded (c : ConnEntry) (r : EndReason) : ConnEntry :=
  { c.stopTimer with state := .ended, controlDue := .none, flags := {}, endReason := some r }

/-- R12: a DRAINING entry whose lists are both empty enters CLOSING. -/
def ConnEntry.drained (c : ConnEntry) : ConnEntry :=
  if c.state = .draining && c.sendQueue.isEmpty && c.unacked.isEmpty then c.toClosing else c

/-- R48: host hold is set, and a WAIT is owed. -/
def ConnEntry.holdOn (c : ConnEntry) : ConnEntry :=
  { c with flags := { c.flags with hostHold := true, busyAnnounced := true, statusDue := true } }

/-- R49: host hold is cleared. -/
def ConnEntry.holdOff (c : ConnEntry) : ConnEntry := { c with flags := { c.flags with hostHold := false } }

/-- R25: a message record joins the tail of the send queue. -/
def ConnEntry.enqueue (c : ConnEntry) (m : Msg) : ConnEntry := { c with sendQueue := c.sendQueue ++ [m] }

/-- R11: CONN.CLOSE in the DRAIN form. -/
def ConnEntry.toDraining (c : ConnEntry) : ConnEntry := { c with state := .draining }

/-- R8: the entry that a CONN.OPEN takes. -/
def ConnEntry.opening (p : Port) (service station : Byte) (window : Nat) (priority : Fin 4)
    (retryLimit answerTime : Nat) : ConnEntry :=
  { state := .opening, owner := some p, remoteStation := some station, service := some service,
    window := some window, priority := some priority, retryLimit := some retryLimit,
    answerTime := some answerTime, controlDue := .sendOpen }

/-- R9: the entry that a listen entry's acceptance of an OPEN takes. -/
def ConnEntry.accepted (l : ListenEntry) (station index service : Byte) (window : Nat) : ConnEntry :=
  { state := .opened, owner := some l.owner, remoteStation := some station, remoteIndex := some index,
    service := some service, window := some (min window l.windowMax), priority := some l.priority,
    retryLimit := some l.retryLimit, answerTime := some l.answerTime, controlDue := .sendAccept }

/-- The remote of an entry is this station and index (R5). -/
def ConnEntry.hasRemote (c : ConnEntry) (station index : Byte) : Bool :=
  c.remoteStation = some station && c.remoteIndex = some index

/-- R36, R37: every message of the unacknowledged list is marked needs-transmit. -/
def ConnEntry.markAll (c : ConnEntry) : ConnEntry :=
  { c with unacked := c.unacked.map fun m => { m with needsTx := true } }

/-- R6: a request of this port that names the entry passes the ownership check. -/
def ConnEntry.ownedBy (c : ConnEntry) (p : Port) : Bool :=
  c.owner = some p && c.state ≠ .free && !c.orphan

end Sys2Proof.Machine
end

