-- ==== Sys2Proof/Machine/Memory.lean ====
section
/-! DEFINITION. The bytes of the buffers (R80): a sparse memory in one canonical form. A byte that is not listed
is 0, as after device reset (R94), so writing 0 removes the entry. -/

namespace Sys2Proof.Machine

/-- What an address that is not listed reads as: 0, the value every byte has after device reset (R94). -/
def Memory.unlisted : Byte := 0

/-- The byte at an address. -/
def Memory.read : Memory → Nat → Byte
  | [], _ => Memory.unlisted
  | (k, v) :: rest, a => if a = k then v else Memory.read rest a

/-- The list with one address's entry put in its place, or taken out for the value an unlisted address has. -/
def Memory.write : Memory → Nat → Byte → Memory
  | [], a, b => if b = Memory.unlisted then [] else [(a, b)]
  | (k, v) :: rest, a, b =>
    if a < k then (if b = Memory.unlisted then (k, v) :: rest else (a, b) :: (k, v) :: rest)
    else if a = k then (if b = Memory.unlisted then rest else (a, b) :: rest)
    else (k, v) :: Memory.write rest a b

/-- Bytes written at consecutive addresses, first byte lowest. -/
def Memory.writeAll (m : Memory) (a : Nat) : List Byte → Memory
  | [] => m
  | b :: bs => Memory.writeAll (m.write a b) (a + 1) bs

/-- `n` bytes from consecutive addresses, lowest first. -/
def Memory.readAll (m : Memory) (a : Nat) : Nat → List Byte
  | 0 => []
  | n + 1 => m.read a :: Memory.readAll m (a + 1) n

/-- Every listed address is above `low` and below those behind it, and no listed byte is the unlisted one. -/
def Memory.wfFrom (low : Nat) : Memory → Bool
  | [] => true
  | (k, v) :: rest => decide (low ≤ k) && decide (v ≠ Memory.unlisted) && Memory.wfFrom (k + 1) rest

/-- The canonical form: addresses strictly rising, no entry equal to what an unlisted address reads as. -/
def Memory.wf (m : Memory) : Bool := Memory.wfFrom 0 m

/-- The address of a byte of a buffer: 240 bytes to a buffer, buffer 0 lowest (log entry 8). -/
def bufferAddress (h : Handle) (offset : Nat) : Nat := Config.bufferBytes * h.val + offset

/-- One byte of a buffer. -/
def Pool.byteAt (p : Pool) (h : Handle) (offset : Nat) : Byte := p.mem.read (bufferAddress h offset)

/-- `n` bytes of a buffer from an offset on. -/
def Pool.bytesAt (p : Pool) (h : Handle) (offset n : Nat) : List Byte :=
  p.mem.readAll (bufferAddress h offset) n

/-- Bytes stored into a buffer from an offset on; the other bytes of the buffer keep their contents. -/
def Pool.store (p : Pool) (h : Handle) (offset : Nat) (bytes : List Byte) : Pool :=
  { p with mem := p.mem.writeAll (bufferAddress h offset) bytes }

end Sys2Proof.Machine
end

