-- ==== Sys2Proof/Machine/Frames.lean ====
section
/-! DEFINITION. The line frame (R197, R198): its layout, its check sequence (R161), the sequence byte, and the six
checks the receive dispatcher applies to a received frame (R160, R162). -/

namespace Sys2Proof.Machine

/-- R198: the code of a frame kind. -/
def FrameKind.code : FrameKind → Nat
  | .data => 1
  | .ready => 2
  | .wait => 3
  | .rept => 4
  | .opening => 8
  | .accept => 9
  | .refuse => 10
  | .close => 11
  | .closed => 12
  | .turn => 15

/-- R198: the frame kind of a code, if the code is in the table. -/
def FrameKind.ofCode (n : Nat) : Option FrameKind :=
  [FrameKind.data, .ready, .wait, .rept, .opening, .accept, .refuse, .close, .closed, .turn].find?
    (fun k => k.code = n)

/-- R197: the kind byte, the code in bits 7 to 4 and zeros below. -/
def FrameKind.byte (k : FrameKind) : Byte := Sys2Proof.byte (16 * k.code)

/-- R160, check 5: the kind a received kind byte names, with the rest of the byte zero. -/
def FrameKind.ofByte (b : Byte) : Option FrameKind :=
  if b.toNat % 16 = 0 then FrameKind.ofCode (b.toNat / 16) else none

/-- R197: the sequence byte, SN in bits 7 to 5, EN in bits 4 to 2, Q in bit 1 and A in bit 0. -/
def seqByte (sn en : Seq) (q a : Bool) : Byte :=
  sn ++ en ++ BitVec.ofBool q ++ BitVec.ofBool a

/-- SN of a sequence byte. -/
def seqSN (b : Byte) : Seq := b.extractLsb' 5 3

/-- EN of a sequence byte. -/
def seqEN (b : Byte) : Seq := b.extractLsb' 2 3

/-- The Q mark of a sequence byte. -/
def seqQ (b : Byte) : Bool := b.getLsbD 1

/-- The A mark of a sequence byte. -/
def seqA (b : Byte) : Bool := b.getLsbD 0

/-- R161: one bit taken into the check register. -/
def crcBit (r : Half) (bit : Bool) : Half :=
  if bit != r.getLsbD 15 then (r <<< 1) ^^^ 0x8005 else r <<< 1

/-- R161: one byte taken into the check register, most significant bit first. -/
def crcByte (r : Half) (b : Byte) : Half :=
  [7, 6, 5, 4, 3, 2, 1, 0].foldl (fun r i => crcBit r (b.getLsbD i)) r

/-- R161: the check sequence over a frame's header and payload. -/
def checkSequence (bytes : List Byte) : Half := bytes.foldl crcByte 0xFFFF

/-- The low byte of a two-byte value, which is sent first (R196). -/
def lowByte (w : Half) : Byte := w.extractLsb' 0 8

/-- The high byte of a two-byte value. -/
def highByte (w : Half) : Byte := w.extractLsb' 8 8

/-- The two bytes of a value as they are sent, low byte first (R196). -/
def halfBytes (w : Half) : List Byte := [lowByte w, highByte w]

/-- R171, R196: the bits of bytes as a wire carries them, bit 7 of each byte first. -/
def bitsOf (bytes : List Byte) : List Bool :=
  bytes.flatMap fun b =>
    [b.getLsbD 7, b.getLsbD 6, b.getLsbD 5, b.getLsbD 4, b.getLsbD 3, b.getLsbD 2, b.getLsbD 1, b.getLsbD 0]

/-- The byte of eight bits in the order in which a wire carries them, bit 7 first (R196). -/
def byteOf (b7 b6 b5 b4 b3 b2 b1 b0 : Bool) : Byte :=
  BitVec.ofBool b7 ++ BitVec.ofBool b6 ++ BitVec.ofBool b5 ++ BitVec.ofBool b4 ++ BitVec.ofBool b3 ++
    BitVec.ofBool b2 ++ BitVec.ofBool b1 ++ BitVec.ofBool b0

/-- R171, R196: the complete bytes among the bits that a wire has carried. A part of a byte at their end is dropped. -/
def bytesOf : List Bool → List Byte
  | b7 :: b6 :: b5 :: b4 :: b3 :: b2 :: b1 :: b0 :: rest => byteOf b7 b6 b5 b4 b3 b2 b1 b0 :: bytesOf rest
  | _ => []

/-- Bits of value 0. -/
def zeroBits (n : Nat) : List Bool := List.replicate n false

/-- R197: the header and payload of a frame. -/
def Frame.body (f : Frame) : List Byte :=
  [f.dest, f.src, f.kind.byte, f.dci, f.sci, f.seq, byte f.payload.length] ++ f.payload

/-- R158, R197: the bytes of a frame on the line, with the check bytes the line interface appends. -/
def Frame.encode (f : Frame) : List Byte := f.body ++ halfBytes (checkSequence f.body)

/-- A station address, 1 to 62. -/
def isStation (b : Byte) : Bool := decide (1 ≤ b.toNat) && decide (b.toNat ≤ 62)

/-- R162: the payload lengths a kind allows. -/
def FrameKind.allows : FrameKind → Nat → Bool
  | .data, n => decide (1 ≤ n) && decide (n ≤ 240)
  | .opening, n => n = 2
  | .accept, n => n = 1
  | .refuse, n => n = 1
  | .closed, n => n = 1
  | .ready, n => n = 0
  | .wait, n => n = 0
  | .rept, n => n = 0
  | .close, n => n = 0
  | .turn, n => n = 0

/-- R162, check 6: payload length, destination and source. `own` is the part's own station address. -/
def Frame.inRange (own : Byte) (f : Frame) : Bool :=
  f.kind.allows f.payload.length && isStation f.dest && isStation f.src && f.src ≠ own

/-- What the checks make of a frame end (R160). -/
inductive Verdict where
  | checkError
  | formatError
  | good (f : Frame)
  deriving DecidableEq, Repr

/-- Check 6 on a frame whose other checks passed. -/
def Frame.verdict (own : Byte) (f : Frame) : Verdict := if f.inRange own then .good f else .formatError

/-- R160, checks 4 to 6, over the header and payload of a frame that passed the first three. -/
def checkFormat (own : Byte) : List Byte → Verdict
  | dest :: src :: kind :: dci :: sci :: seq :: len :: payload =>
    if len.toNat = payload.length ∧ len.toNat ≤ 240 then
      match FrameKind.ofByte kind with
      | some k => Frame.verdict own { dest, src, kind := k, dci, sci, seq, payload }
      | none => .formatError
    else .formatError
  | _ => .formatError

/-- R160: the six checks, in order, on a frame end's status and bytes. -/
def checkFrame (own : Byte) (status : FrameStatus) (bytes : List Byte) : Verdict :=
  let body := bytes.take (bytes.length - 2)
  if status ≠ .good then .checkError
  else if bytes.length < 9 then .checkError
  else if bytes.drop (bytes.length - 2) ≠ halfBytes (checkSequence body) then .checkError
  else checkFormat own body

end Sys2Proof.Machine
end

