-- ==== Sys2Proof/Machine/Operands.lean ====
section
/-! DEFINITION. The arguments and results of the host requests: ranges (R176, step 2, and each request's rule), the
codes of R199 and R201, and the layouts of reply, report and event records (R199 to R202). -/

namespace Sys2Proof.Machine

/-! ### Arguments -/

/-- A byte that names something numbered from 0 below `n`: an entry, a handle, a port, a priority. -/
def indexArg (n : Nat) (b : Byte) : Option (Fin n) :=
  if h : b.toNat < n then some ⟨b.toNat, h⟩ else none

/-- An entry index, 0 to 31. -/
def entryArg (b : Byte) : Option EntryIdx := indexArg 32 b

/-- A buffer handle, 0 to 191. -/
def handleArg (b : Byte) : Option Handle := indexArg 192 b

/-- A port, 0 to 3 (R200). -/
def portArg (b : Byte) : Option Port := indexArg 4 b

/-- A priority, 0 to 3. -/
def priorityArg (b : Byte) : Option (Fin 4) := indexArg 4 b

/-- A value with its bounds. -/
def within (low high : Nat) (n : Nat) : Bool := decide (low ≤ n) && decide (n ≤ high)

/-- The parameters CONN.OPEN and LISTEN.ADD share: window 1 to 4, retry limit 1 to 15, answer time 5 to 4095 ms. -/
def linkArgs (window retryLimit : Byte) (answerTime : Half) : Bool :=
  within 1 4 window.toNat && within 1 15 retryLimit.toNat && within 5 4095 answerTime.toNat

/-- A choice coded 0 or 1 (a notify flag, a form, an option). -/
def choiceArg (b : Byte) : Option Bool :=
  if b = 0 then some false else if b = 1 then some true else none

/-- R91, R92: an offset and a count that stay inside a buffer. -/
def spanArg (offset count : Byte) : Bool :=
  decide (offset.toNat ≤ 239) && within 1 64 count.toNat && decide (offset.toNat + count.toNat ≤ 240)

/-- R200: a filter value. -/
def filterArg (b : Byte) : Option Filter :=
  if b = 0 then some .drop else if b = 1 then some .queue else if b = 2 then some .alert else none

/-- R201: the code of a filterable kind. -/
def FilterKind.code : FilterKind → Nat
  | .arrived => 1
  | .received => 2
  | .unsent => 3
  | .ended => 4
  | .sent => 5
  | .opened => 6
  | .closed => 7
  | .peerWait => 8
  | .peerReady => 9
  | .starved => 10
  | .listenDone => 11
  | .line => 12

/-- The place of a kind in a filter table. -/
def FilterKind.slot : FilterKind → Fin 12
  | .arrived => 0
  | .received => 1
  | .unsent => 2
  | .ended => 3
  | .sent => 4
  | .opened => 5
  | .closed => 6
  | .peerWait => 7
  | .peerReady => 8
  | .starved => 9
  | .listenDone => 10
  | .line => 11

/-- R102, R201: the kind of a code 1 to 12. -/
def kindArg (b : Byte) : Option FilterKind :=
  [FilterKind.arrived, .received, .unsent, .ended, .sent, .opened, .closed, .peerWait, .peerReady, .starved,
    .listenDone, .line].find? (fun k => k.code = b.toNat)

/-- R99: the four held kinds. -/
def FilterKind.isHeld : FilterKind → Bool
  | .arrived | .received | .unsent | .ended => true
  | _ => false

/-- R192: a bit rate code. -/
def bitRateArg (b : Byte) : Option BitRate :=
  if b = 0 then some .kbit250 else if b = 1 then some .kbit500 else if b = 2 then some .mbit1
  else if b = 3 then some .mbit2 else if b = 4 then some .mbit4 else none

/-- R192: the seven parameters, if each has one of its allowed values. -/
def lineParamsArg (bitRate turnResponse lostBase claimSlot turnBudget holdLimit probeInterval : Byte) :
    Option LineParams :=
  match bitRateArg bitRate with
  | none => none
  | some rate =>
    if within 2 255 turnResponse.toNat && within 1 255 lostBase.toNat && within 1 255 claimSlot.toNat &&
        within 1 32 turnBudget.toNat && within 1 255 holdLimit.toNat && within 1 255 probeInterval.toNat then
      some
        { bitRate := rate, turnResponse := turnResponse.toNat, lostBase := lostBase.toNat,
          claimSlot := claimSlot.toNat, turnBudget := turnBudget.toNat, holdLimit := holdLimit.toNat,
          probeInterval := probeInterval.toNat }
    else none

/-- R54: the range of a listen key, its station match and its station mask. -/
def listenKeyArg (stationMatch stationMask : Byte) : Bool :=
  isStation stationMatch && decide (stationMask.toNat ≤ 63)

/-! ### Codes -/

/-- R199: the code of a status. -/
def Status.code : Status → Nat
  | .ok => 0
  | .unknown => 1
  | .badArg => 2
  | .noRight => 3
  | .notOwner => 4
  | .badHandle => 5
  | .badState => 6
  | .offline => 7
  | .tableFull => 8
  | .queueFull => 9
  | .noBuffer => 10
  | .duplicate => 11
  | .truncated => 12
  | .none => 13

/-- R201: the code of an entry state. -/
def EntryState.code : EntryState → Nat
  | .free => 0
  | .opening => 1
  | .opened => 2
  | .draining => 3
  | .closing => 4
  | .ended => 5

/-- R201: the code of a control due. -/
def ControlDue.code : ControlDue → Nat
  | .none => 0
  | .sendOpen => 1
  | .sendClose => 2
  | .sendAccept => 3

/-- R201: the code of an end reason. -/
def EndReason.code : EndReason → Nat
  | .noAnswer => 1
  | .badAck => 2
  | .peerClosed => 3
  | .peerReset => 4
  | .refusedNoService => 5
  | .refusedFull => 6
  | .refusedStale => 7
  | .protocol => 8

/-- R201: the code of a line engine state. -/
def LineState.code : LineState → Nat
  | .offline => 0
  | .waiting => 1
  | .holding => 2
  | .handing => 3
  | .stopping => 4

/-- R201: the code of a line code. -/
def LineCode.code : LineCode → Nat
  | .started => 1
  | .stopped => 2
  | .claimed => 3
  | .sole => 4
  | .txFault => 5
  | .duplicateTurn _ => 6
  | .stationPresent _ => 7
  | .stationSilent _ => 8

/-- R100: the station of a line code, 0 where absent (R196). -/
def LineCode.station : LineCode → Byte
  | .duplicateTurn s => s
  | .stationPresent s => s
  | .stationSilent s => s
  | _ => 0

/-- R192: the code of a bit rate. -/
def BitRate.code : BitRate → Nat
  | .kbit250 => 0
  | .kbit500 => 1
  | .mbit1 => 2
  | .mbit2 => 3
  | .mbit4 => 4

/-- R200: the code of a filter value. -/
def Filter.code : Filter → Nat
  | .drop => 0
  | .queue => 1
  | .alert => 2

/-- R198: the code of a stray reply's reason within its frame kind. -/
def StrayReason.code : StrayReason → Nat
  | .normal => 0
  | .noConnection => 1
  | .noService => 1
  | .full => 2
  | .stale => 3

/-- R147: the frame kind a stray reply's reason belongs to. -/
def StrayReason.kind : StrayReason → FrameKind
  | .normal | .noConnection => .closed
  | .noService | .full | .stale => .refuse

/-- R199: the first byte of a REQUEST transaction. -/
def requestType : Byte := 0xA5

/-- R199: the first byte of a COLLECT transaction. -/
def collectType : Byte := 0x5A

/-! ### Records -/

/-- The two bytes of a number, low byte first (R196). -/
def twoBytes (n : Nat) : List Byte := halfBytes (BitVec.ofNat 16 n)

/-- R199: the bytes of a reply record. -/
def Reply.encode (r : Reply) : List Byte :=
  [byte r.status.code, r.tag, flagByte r.lost, byte r.results.length] ++ r.results

/-- R175: the reply a COLLECT sends from an empty slot. -/
def Reply.absent : Reply where
  status := .none
  tag := 0
  lost := false
  results := []

/-- The kind of an event record that has a filter. -/
def EventBody.filterKind : EventBody → Option FilterKind
  | .held _ (.arrived _ _) => some .arrived
  | .held _ (.received _ _) => some .received
  | .held _ (.unsent _ _ _) => some .unsent
  | .held _ (.ended _) => some .ended
  | .sent _ _ => some .sent
  | .opened _ => some .opened
  | .closed _ _ => some .closed
  | .peerWait _ => some .peerWait
  | .peerReady _ => some .peerReady
  | .starved _ => some .starved
  | .listenDone _ _ => some .listenDone
  | .line _ => some .line
  | .overflow _ => none

/-- R201: the event kind's code; OVERFLOW has 13. -/
def EventBody.kindCode (b : EventBody) : Nat :=
  match b.filterKind with
  | some k => k.code
  | none => 13

/-- The buffer an event record holds, if any (R98). -/
def EventRecord.buffer (r : EventRecord) : Option Handle :=
  match r.body with
  | .held _ n => n.buffer
  | _ => none

/-- R202: the twelve bytes from the fields a kind has; a field it has not is 0. -/
def recordBytes (r : EventRecord) (timedOut : Bool) (entry handle length : Byte) (tag : Half)
    (reason station service dropped : Byte) : List Byte :=
  [byte r.body.kindCode, flagByte r.alerts ||| (flagByte timedOut <<< 1), entry, handle, length] ++
    halfBytes tag ++ [reason, station, service, dropped, 0]

/-- R202: the twelve bytes of an event record. -/
def EventRecord.encode (r : EventRecord) : List Byte :=
  match r.body with
  | .held e (.arrived st sv) => recordBytes r false (byte e.val) 0 0 0 0 st sv 0
  | .held e (.received h n) => recordBytes r false (byte e.val) (byte h.val) (byte n) 0 0 0 0 0
  | .held e (.unsent t h n) => recordBytes r false (byte e.val) (byte h.val) (byte n) t 0 0 0 0
  | .held e (.ended why) => recordBytes r false (byte e.val) 0 0 0 (byte why.code) 0 0 0
  | .sent e t => recordBytes r false (byte e.val) 0 0 t 0 0 0 0
  | .opened e => recordBytes r false (byte e.val) 0 0 0 0 0 0 0
  | .closed e timedOut => recordBytes r timedOut (byte e.val) 0 0 0 0 0 0 0
  | .peerWait e => recordBytes r false (byte e.val) 0 0 0 0 0 0 0
  | .peerReady e => recordBytes r false (byte e.val) 0 0 0 0 0 0 0
  | .starved e => recordBytes r false (byte e.val) 0 0 0 0 0 0 0
  | .listenDone e sv => recordBytes r false (byte e.val) 0 0 0 0 0 sv 0
  | .line c => recordBytes r false 0xFF 0 0 0 (byte c.code) c.station 0 0
  | .overflow n => recordBytes r false 0xFF 0 0 0 0 0 0 (byte n)

/-- R201, byte 2 of the entry report. -/
def ConnEntry.reportFlags (c : ConnEntry) : Byte :=
  flagByte c.orphan ||| (flagByte c.flags.peerWaiting <<< 1) ||| (flagByte c.flags.hostHold <<< 2) |||
    (flagByte c.flags.starved <<< 3) ||| (flagByte c.flags.busyAnnounced <<< 4) |||
    (flagByte c.closeTimedOut <<< 5) ||| (flagByte c.closeFinished <<< 6)

/-- R201: the entry report of CONN.QUERY, 23 bytes. -/
def ConnEntry.report (c : ConnEntry) : List Byte :=
  [byte c.state.code, (c.owner.map fun p => byte p.val).getD 0xFF, c.reportFlags, c.remoteStation.getD 0,
    c.remoteIndex.getD 0xFF, c.service.getD 0, byte (c.window.getD 0),
    byte ((c.priority.map Fin.val).getD 0), byte (c.retryLimit.getD 0)] ++
  twoBytes (c.answerTime.getD 0) ++
  [c.vs.setWidth 8, c.va.setWidth 8, c.vr.setWidth 8, byte c.retryCount] ++
  twoBytes (c.answerTimer.getD 0) ++
  [byte c.controlDue.code, byte c.sendQueue.length, byte c.unacked.length,
    byte (c.unacked.filter (·.needsTx)).length, byte c.notices.length,
    byte ((c.endReason.map EndReason.code).getD 0)]

/-- R200: a listen report, with the entry's position. -/
def ListenEntry.report (position : Nat) (l : ListenEntry) : List Byte :=
  [byte position, l.service, l.stationMatch, l.stationMask, byte l.windowMax, byte l.priority.val,
    byte l.retryLimit] ++ twoBytes l.answerTime ++ [byte l.accepts]

/-- R200: a turn list record byte. -/
def Station.report (s : Station) : Byte := s.address ||| (if s.present then 0 else 0x80)

/-- R192, R200: the seven parameters as CFG.LINE carries them. -/
def LineParams.report (l : LineParams) : List Byte :=
  [byte l.bitRate.code, byte l.turnResponse, byte l.lostBase, byte l.claimSlot, byte l.turnBudget,
    byte l.holdLimit, byte l.probeInterval]

/-- The six counters of the line report, in the order of R167's table. -/
def Counters.report (k : Counters) : List Byte :=
  twoBytes k.framesForUs ++ twoBytes k.checkErrors ++ twoBytes k.formatErrors ++ twoBytes k.strays ++
    twoBytes k.straysNotMade ++ twoBytes k.handoverFailures

/-- R201: the line report of LINE.STATUS, 22 bytes. -/
def lineReport (t : TurnController) (g : ConfigUnit) (sole : Bool) (strays : Nat) (k : Counters) : List Byte :=
  [byte t.engine.code, g.station, flagByte sole, byte t.list.length,
    byte (t.list.filter fun r => !r.present).length, byte t.frameCount, byte t.rotation, t.probeCursor,
    t.target.getD 0, byte strays] ++ k.report

end Sys2Proof.Machine
end

