-- ==== Sys2Proof/Decode.lean ====
section
/-! DEFINITION. From bits to commands. The table gives no row bits. What a host clocks into its port is read here as
the port reads it (R171 to R173, R196, R199, R200), with the bits a command is clocked as beside it. -/

namespace Sys2Proof

open Machine

/-- The command a table word spells: none, because no row of spec/opcode_table.json gives bits (log entry 1). -/
def decodeTableWord (_nbits _w : Nat) : Option Instr := none

/-- A two-byte value from its bytes, low byte first (R196). -/
def halfOf (low high : Byte) : Half := high ++ low

/-! ### Request records (R173, R200) -/

/-- R200: the number of fixed argument bytes of a known request code. -/
def fixedArgs (code : Byte) : Option Nat :=
  match code.toNat with
  | 0x10 => some 0
  | 0x11 => some 1
  | 0x12 => some 3
  | 0x13 => some 3
  | 0x20 => some 7
  | 0x21 => some 6
  | 0x22 => some 1
  | 0x23 => some 1
  | 0x24 => some 2
  | 0x25 => some 1
  | 0x26 => some 1
  | 0x30 => some 9
  | 0x31 => some 3
  | 0x32 => some 0
  | 0x40 => some 1
  | 0x41 => some 2
  | 0x50 => some 0
  | 0x51 => some 0
  | 0x60 => some 0
  | 0x61 => some 1
  | 0x62 => some 1
  | 0x63 => some 7
  | 0x64 => some 3
  | 0x65 => some 0
  | 0x70 => some 1
  | 0x71 => some 1
  | 0x72 => some 0
  | 0x80 => some 0
  | 0x81 => some 0
  | 0x82 => some 1
  | _ => none

/-- R200: the command of a known code with its fixed argument bytes, no fewer and no more. -/
def knownRequest (r : Req) (code : Byte) (args : List Byte) : Option Instr :=
  match code.toNat, args with
  | 0x10, [] => some (.bufGet r)
  | 0x11, [handle] => some (.bufPut r handle)
  | 0x12, [handle, offset, count] => some (.bufWrite r handle offset count)
  | 0x13, [handle, offset, count] => some (.bufRead r handle offset count)
  | 0x20, [service, station, window, priority, retryLimit, t0, t1] =>
    some (.connOpen r service station window priority retryLimit (halfOf t0 t1))
  | 0x21, [entry, handle, length, g0, g1, notify] =>
    some (.connSend r entry handle length (halfOf g0 g1) notify)
  | 0x22, [entry] => some (.connHold r entry)
  | 0x23, [entry] => some (.connResume r entry)
  | 0x24, [entry, form] => some (.connClose r entry form)
  | 0x25, [entry] => some (.connRelease r entry)
  | 0x26, [entry] => some (.connQuery r entry)
  | 0x30, [service, stationMatch, stationMask, windowMax, priority, retryLimit, t0, t1, accepts] =>
    some (.listenAdd r service stationMatch stationMask windowMax priority retryLimit (halfOf t0 t1) accepts)
  | 0x31, [service, stationMatch, stationMask] => some (.listenDrop r service stationMatch stationMask)
  | 0x32, [] => some (.listenList r)
  | 0x40, [n] => some (.evtFetch r n)
  | 0x41, [kind, filter] => some (.evtFilter r kind filter)
  | 0x50, [] => some (.portInfo r)
  | 0x51, [] => some (.portResetRequest r)
  | 0x60, [] => some (.cfgTake r)
  | 0x61, [heir] => some (.cfgPass r heir)
  | 0x62, [station] => some (.cfgStation r station)
  | 0x63, [bitRate, turnResponse, lostBase, claimSlot, turnBudget, holdLimit, probeInterval] =>
    some (.cfgLine r bitRate turnResponse lostBase claimSlot turnBudget holdLimit probeInterval)
  | 0x64, [port, reserve, limit] => some (.cfgQuota r port reserve limit)
  | 0x65, [] => some (.cfgRead r)
  | 0x70, [station] => some (.turnAdd r station)
  | 0x71, [station] => some (.turnRemove r station)
  | 0x72, [] => some (.turnList r)
  | 0x80, [] => some (.lineStart r)
  | 0x81, [] => some (.lineStop r)
  | 0x82, [clear] => some (.lineStatus r clear)
  | _, _ => none

/-- R172, R173: the command of a request record, if the record is complete. One without its code and tag, or without the
fixed arguments of its known code, is incomplete. One of an unknown code is complete, whatever follows the tag. -/
def decodeRecord (p : Port) (record : List Byte) : Option Instr :=
  match record with
  | code :: tag :: args =>
    match fixedArgs code with
    | none => some (.unknownRequest { port := p, tag := tag, rest := args } code)
    | some n =>
      if args.length < n then none
      else knownRequest { port := p, tag := tag, rest := args.drop n } code (args.take n)
  | _ => none

/-- R171, R172: the command that a transaction is, from the bits that the host has clocked between the fall and the rise
of select, bit 7 of each byte first (R196). A REQUEST that ends with a part of a byte is incomplete. -/
def decodeTransaction (p : Port) (sdi : List Bool) : Instr :=
  match bytesOf sdi with
  | [] => .ignoredTransaction p sdi
  | first :: record =>
    if first = requestType then
      (if sdi.length % 8 = 0 then decodeRecord p record else none).getD (.truncatedRequest p (sdi.drop 8))
    else if first = collectType then .collect p (sdi.drop 8)
    else .ignoredTransaction p sdi

/-! ### The bits of a transaction -/

/-- R199: the transaction of a complete request record. -/
def requestClocked (r : Req) (code : Byte) (args : List Byte) : Clocked where
  port := r.port
  sdi := bitsOf ([requestType, code, r.tag] ++ args ++ r.rest)

/-- R199, R200: the bits a host clocks for a command that is a transaction. -/
def encodeTransaction : Instr → Option Clocked
  | .bufGet r => some (requestClocked r 0x10 [])
  | .bufPut r handle => some (requestClocked r 0x11 [handle])
  | .bufWrite r handle offset count => some (requestClocked r 0x12 [handle, offset, count])
  | .bufRead r handle offset count => some (requestClocked r 0x13 [handle, offset, count])
  | .connOpen r service station window priority retryLimit answerTime =>
    some (requestClocked r 0x20 ([service, station, window, priority, retryLimit] ++ halfBytes answerTime))
  | .connSend r entry handle length hostTag notify =>
    some (requestClocked r 0x21 ([entry, handle, length] ++ halfBytes hostTag ++ [notify]))
  | .connHold r entry => some (requestClocked r 0x22 [entry])
  | .connResume r entry => some (requestClocked r 0x23 [entry])
  | .connClose r entry form => some (requestClocked r 0x24 [entry, form])
  | .connRelease r entry => some (requestClocked r 0x25 [entry])
  | .connQuery r entry => some (requestClocked r 0x26 [entry])
  | .listenAdd r service stationMatch stationMask windowMax priority retryLimit answerTime accepts =>
    some
      (requestClocked r 0x30
        ([service, stationMatch, stationMask, windowMax, priority, retryLimit] ++ halfBytes answerTime ++
          [accepts]))
  | .listenDrop r service stationMatch stationMask =>
    some (requestClocked r 0x31 [service, stationMatch, stationMask])
  | .listenList r => some (requestClocked r 0x32 [])
  | .evtFetch r n => some (requestClocked r 0x40 [n])
  | .evtFilter r kind filter => some (requestClocked r 0x41 [kind, filter])
  | .portInfo r => some (requestClocked r 0x50 [])
  | .portResetRequest r => some (requestClocked r 0x51 [])
  | .cfgTake r => some (requestClocked r 0x60 [])
  | .cfgPass r heir => some (requestClocked r 0x61 [heir])
  | .cfgStation r station => some (requestClocked r 0x62 [station])
  | .cfgLine r bitRate turnResponse lostBase claimSlot turnBudget holdLimit probeInterval =>
    some
      (requestClocked r 0x63
        [bitRate, turnResponse, lostBase, claimSlot, turnBudget, holdLimit, probeInterval])
  | .cfgRead r => some (requestClocked r 0x65 [])
  | .cfgQuota r port reserve limit => some (requestClocked r 0x64 [port, reserve, limit])
  | .turnAdd r station => some (requestClocked r 0x70 [station])
  | .turnRemove r station => some (requestClocked r 0x71 [station])
  | .turnList r => some (requestClocked r 0x72 [])
  | .lineStart r => some (requestClocked r 0x80 [])
  | .lineStop r => some (requestClocked r 0x81 [])
  | .lineStatus r clear => some (requestClocked r 0x82 [clear])
  | .unknownRequest r code => some (requestClocked r code [])
  | .truncatedRequest p sdi => some { port := p, sdi := bitsOf [requestType] ++ sdi }
  | .collect p sdi => some { port := p, sdi := bitsOf [collectType] ++ sdi }
  | .ignoredTransaction p sdi => some { port := p, sdi := sdi }
  | .prstnAsserted _ => none
  | .prstnReleased _ => none
  | .resetAsserted => none
  | .resetReleased => none
  | .frameStart => none
  | .frameEnd _ _ => none
  | .dataReceived _ _ => none
  | .readyReceived _ => none
  | .waitReceived _ => none
  | .repeatReceived _ => none
  | .openReceived _ _ _ => none
  | .acceptReceived _ _ => none
  | .refuseReceived _ _ => none
  | .closeReceived _ => none
  | .closedReceived _ _ => none
  | .turnReceived _ => none
  | .endOfTransmission => none
  | .transmitFault => none
  | .answerTimerExpiry _ => none
  | .lostTimerExpiry => none
  | .holdTimerExpiry => none
  | .turnResponseTimerExpiry => none
  | .schedulerChoice => none
  | .noticeAdmission _ => none
  | .lineReturnsToIdle => none
  | .selectFalls _ => none

end Sys2Proof
end

