-- ==== Sys2Proof/Machine/Ops.lean ====
section
/-! DEFINITION. The named operations that the meanings share: the buffer pool, the event queues and notice lists, the
passages of a connection entry, the stray reply list, the line and the turn. -/

namespace Sys2Proof.Machine

/-! ### Access to the tables -/

def State.entry (s : State) (e : EntryIdx) : ConnEntry := look s.entries e

def State.setEntry (s : State) (e : EntryIdx) (c : ConnEntry) : State :=
  { s with entries := put s.entries e c }

def State.modEntry (s : State) (e : EntryIdx) (f : ConnEntry → ConnEntry) : State := s.setEntry e (f (s.entry e))

def State.port (s : State) (p : Port) : PortState := look s.ports p

def State.setPort (s : State) (p : Port) (ps : PortState) : State := { s with ports := put s.ports p ps }

def State.modPort (s : State) (p : Port) (f : PortState → PortState) : State := s.setPort p (f (s.port p))

def Pool.account (pool : Pool) (p : Port) : Account := look pool.accounts p

def Pool.modAccount (pool : Pool) (p : Port) (f : Account → Account) : Pool :=
  { pool with accounts := put pool.accounts p (f (pool.account p)) }

def State.account (s : State) (p : Port) : Account := s.pool.account p

def State.withPool (s : State) (pool : Pool) : State := { s with pool := pool }

def State.withTurn (s : State) (t : TurnController) : State := { s with turn := t }

def State.withSched (s : State) (k : Scheduler) : State := { s with sched := k }

def State.withStats (s : State) (k : Counters) : State := { s with stats := k }

/-- The entries in index order. -/
def allEntries : List EntryIdx := List.finRange 32

/-- The lowest-numbered entry that is FREE (R1). -/
def State.lowestFree (s : State) : Option EntryIdx := allEntries.find? fun e => (s.entry e).state = .free

/-- The first member in index order that starts after a pointer and wraps from 31 to 0 (R107, R146). -/
def roundRobin (pointer : EntryIdx) (isMember : EntryIdx → Bool) : Option EntryIdx :=
  (allEntries.map fun k => pointer + k + 1).find? isMember

/-! ### The buffer pool (Chapter 4) -/

/-- R85: the unused reserve of a port. -/
def Account.unused (a : Account) : Nat := a.reserve - a.charge

/-- The sum of the unused reserves of the four ports. -/
def Pool.unusedTotal (pool : Pool) : Nat := (pool.accounts.toList.map Account.unused).sum

/-- The sum of the unused reserves of the three ports other than `p`. -/
def Pool.unusedOthers (pool : Pool) (p : Port) : Nat :=
  (((List.finRange 4).filter (· ≠ p)).map fun q => (pool.account q).unused).sum

/-- R85: an allocation for the port is allowed. The spare count is at least 1 when the free count exceeds the
unused reserves of the other ports. -/
def Pool.canAllocate (pool : Pool) (p : Port) : Bool :=
  let a := pool.account p
  decide (a.charge < a.reserve) ||
    (decide (a.charge < a.limit) && decide (pool.unusedOthers p + 1 ≤ pool.freeList.length))

/-- R81, R86, R89: the head of the free list, charged to the port, if R85 allows it. -/
def Pool.allocate (pool : Pool) (p : Port) : Option (Handle × Pool) :=
  match pool.freeList with
  | [] => none
  | h :: rest =>
    if pool.canAllocate p then
      some (h, { pool with freeList := rest }.modAccount p fun a => { a with charge := a.charge + 1 })
    else none

/-- R87: one buffer back at the tail of the free list, uncharged from its port. -/
def Pool.release (pool : Pool) (p : Port) (h : Handle) : Pool :=
  { pool with freeList := pool.freeList ++ [h] }.modAccount p fun a => { a with charge := a.charge - 1 }

/-- A handle added to a held set, kept in ascending order without repeats. -/
def insertHandle (h : Handle) : List Handle → List Handle
  | [] => [h]
  | k :: rest => if h < k then h :: k :: rest else if h = k then k :: rest else k :: insertHandle h rest

/-- A handle joins the port's held set. -/
def Pool.hold (pool : Pool) (p : Port) (h : Handle) : Pool :=
  pool.modAccount p fun a => { a with held := insertHandle h a.held }

/-- A handle leaves the port's held set. -/
def Pool.unhold (pool : Pool) (p : Port) (h : Handle) : Pool :=
  pool.modAccount p fun a => { a with held := a.held.filter (· ≠ h) }

/-- The handle is in the port's held set. -/
def Pool.holds (pool : Pool) (p : Port) (h : Handle) : Bool := (pool.account p).held.contains h

/-- R50, R88: a starved entry whose owner could now allocate is no longer starved, and makes the end-of-busy
check. -/
def ConnEntry.reconsider (pool : Pool) (c : ConnEntry) : ConnEntry :=
  match c.owner with
  | some p =>
    if c.flags.starved && pool.canAllocate p then
      ({ c with flags := { c.flags with starved := false } } : ConnEntry).endOfBusy.settleTimer
    else c
  | none => c

/-- R87, R88: a release and the re-evaluation of the starved entries that follows it. -/
def State.release (s : State) (p : Port) (h : Handle) : State :=
  { s with
    pool := s.pool.release p h
    entries := s.entries.map (ConnEntry.reconsider (s.pool.release p h)) }

/-- Several buffers of one port released one after the other, in order. -/
def State.releaseAll (s : State) (p : Port) (hs : List Handle) : State := hs.foldl (fun s h => s.release p h) s

/-! ### Event queues (Chapter 5) -/

/-- R101: the filter in force for a kind. OVERFLOW has none and always alerts. -/
def PortState.filterOf (ps : PortState) (b : EventBody) : Filter :=
  match b.filterKind with
  | some k => look ps.filters k.slot
  | none => .alert

/-- A record joins the queue's tail, with its alerts mark by the filter in force (R101). -/
def PortState.takeIn (ps : PortState) (b : EventBody) : PortState :=
  { ps with queue := ps.queue ++ [{ body := b, alerts := ps.filterOf b = .alert }] }

/-- The queue has room for a held notice or a droppable event (R97). -/
def PortState.hasRoom (ps : PortState) : Bool := decide (ps.queue.length < Config.queueRoom)

/-- R104: a drop counted in the newest record if that is an OVERFLOW record, and in a new one otherwise. -/
def PortState.countDrop (ps : PortState) : PortState :=
  match ps.queue.getLast? with
  | some { body := .overflow n, alerts } =>
    { ps with
      queue := ps.queue.dropLast ++ [{ body := .overflow (min Config.droppedMax (n + 1)), alerts := alerts }] }
  | _ => ps.takeIn (.overflow 1)

/-- R103: the port takes a droppable event. -/
def PortState.offer (ps : PortState) (b : EventBody) : PortState :=
  if ps.filterOf b = .drop then ps else if ps.hasRoom then ps.takeIn b else ps.countDrop

/-- R112: ATTN is asserted while the queue holds a record with the alerts mark. -/
def PortState.attn (ps : PortState) : Bool := ps.queue.any (·.alerts)

/-- R100: a LINE event is offered to each of the four ports. -/
def State.lineEvent (s : State) (c : LineCode) : State := { s with ports := s.ports.map (·.offer (.line c)) }

/-- A droppable event of an entry goes to its owner's port. An orphan entry makes none (R7). -/
def State.entryEvent (s : State) (e : EntryIdx) (b : EventBody) : State :=
  let c := s.entry e
  match c.owner with
  | some p => if c.orphan then s else s.modPort p (·.offer b)
  | none => s

/-- R105: a held notice goes to the owner's queue if the entry's list is empty and the queue has room, and joins
the list otherwise. An orphan entry makes none (R7). -/
def State.makeNotice (s : State) (e : EntryIdx) (n : Notice) : State :=
  let c := s.entry e
  match c.owner with
  | some p =>
    if c.orphan then s
    else if c.notices.isEmpty && (s.port p).hasRoom then s.modPort p (·.takeIn (.held e n))
    else s.setEntry e { c with notices := c.notices ++ [n] }
  | none => s

/-- The number of notices in the notice lists of the port's entries (R111). -/
def State.noticesWaiting (s : State) (p : Port) : Nat :=
  ((s.entries.toList.filter fun c => c.owner = some p).map fun c => c.notices.length).sum

/-! ### Passages of an entry (Chapter 1) -/

/-- R17: the frame-in-transmission record is detached from an entry that returns to FREE. -/
def TxRecord.detachFrom (e : EntryIdx) (t : TxRecord) : TxRecord :=
  if t.origin = .entry e then { t with detached := true } else t

/-- R17: the entry returns to FREE, and a frame of it on the line is detached. -/
def State.freeEntry (s : State) (e : EntryIdx) : State :=
  { s with
    entries := put s.entries e {}
    sched := { s.sched with tx := s.sched.tx.map (TxRecord.detachFrom e) } }

/-- The SN of the entry's message whose DATA frame is on the line, if there is one (R3, R18). -/
def State.messageOnLine (s : State) (e : EntryIdx) : Option Seq :=
  match s.sched.tx with
  | some t => if t.origin = .entry e && !t.detached then t.sn else none
  | none => none

/-- The messages of an entry that an abort, an end or a port reset deals with at once: the unacknowledged list,
oldest SN first, without a message on the line, then the send queue (R13, R15, R22). -/
def ConnEntry.messagesBut (c : ConnEntry) (onLine : Option Seq) : List Msg :=
  (c.unacked.filter fun m => some m.sn ≠ onLine).map (·.msg) ++ c.sendQueue

/-- The entry with only the message on the line left in its lists. -/
def ConnEntry.keepOnly (c : ConnEntry) (onLine : Option Seq) : ConnEntry :=
  { c with unacked := c.unacked.filter (fun m => some m.sn = onLine), sendQueue := [] }

/-- R13, R15: every message left in the entry becomes an UNSENT notice with its buffer, except one on the line. -/
def State.unsendMessages (s : State) (e : EntryIdx) : State :=
  let onLine := s.messageOnLine e
  ((s.entry e).messagesBut onLine).foldl (fun s m => s.makeNotice e (.unsent m.tag m.handle m.length))
    (s.modEntry e (·.keepOnly onLine))

/-- R13: an abort takes the entry into CLOSING. -/
def State.abortEntry (s : State) (e : EntryIdx) : State := (s.modEntry e ConnEntry.toClosing).unsendMessages e

/-- R15: the entry ends. The ENDED notice waits while a message is on the line (R18). -/
def State.endEntry (s : State) (e : EntryIdx) (r : EndReason) : State :=
  let s' := (s.modEntry e (·.toEnded r)).unsendMessages e
  if (s'.entry e).unacked.isEmpty then s'.makeNotice e (.ended r) else s'

/-- The CLOSED event of an entry that has just returned to FREE, for the port that owned it (R14, R76). -/
def State.closedEvent (s : State) (owner : Option Port) (e : EntryIdx) (timedOut : Bool) : State :=
  match owner with
  | some p => s.modPort p (·.offer (.closed e timedOut))
  | none => s

/-- R14: the close exchange of a CLOSING entry ends. -/
def State.endCloseExchange (s : State) (e : EntryIdx) (timedOut : Bool) : State :=
  let c := s.entry e
  if c.orphan then s.freeEntry e
  else if c.notices.isEmpty then (s.freeEntry e).closedEvent c.owner e (c.closeTimedOut || timedOut)
  else
    s.setEntry e
      { c.stopTimer with
        controlDue := .none, closeTimedOut := c.closeTimedOut || timedOut, closeFinished := true }

/-- R18, R52: the deferred message leaves the list. An orphan's buffer is released. Any other becomes an UNSENT
notice, and for an ENDED entry without further messages the ENDED notice follows. -/
def State.finishDeferred (s : State) (e : EntryIdx) (sn : Seq) : State :=
  let c := s.entry e
  match c.unacked.find? (fun m => m.sn = sn) with
  | none => s
  | some m =>
    let s' := s.setEntry e { c with unacked := c.unacked.filter (fun k => k.sn ≠ sn) }
    if c.orphan then
      match c.owner with
      | some p => s'.release p m.msg.handle
      | none => s'
    else
      let s'' := s'.makeNotice e (.unsent m.msg.tag m.msg.handle m.msg.length)
      match c.state, c.endReason with
      | .ended, some r => if (s''.entry e).unacked.isEmpty then s''.makeNotice e (.ended r) else s''
      | _, _ => s''

/-! ### The port reset (R22, R182) -/

/-- The buffers of a notice list, oldest first. -/
def noticeBuffers (ns : List Notice) : List Handle := ns.filterMap Notice.buffer

/-- R22: a port reset's effect on one entry. -/
def State.resetEntry (s : State) (p : Port) (e : EntryIdx) : State :=
  let c := s.entry e
  if c.owner = some p && !c.orphan then
    match c.state with
    | .free => s
    | .opening => s.freeEntry e
    | .opened | .draining =>
      let onLine := s.messageOnLine e
      (s.setEntry e { (c.toClosing.keepOnly onLine) with orphan := true, notices := [] }).releaseAll p
        ((c.messagesBut onLine).map (·.handle) ++ noticeBuffers c.notices)
    | .closing =>
      let s' := (s.setEntry e { c with orphan := true, notices := [] }).releaseAll p (noticeBuffers c.notices)
      if c.closeFinished then s'.freeEntry e else s'
    | .ended =>
      if c.unacked.isEmpty then
        ((s.setEntry e { c with notices := [] }).releaseAll p (noticeBuffers c.notices)).freeEntry e
      else
        (s.setEntry e { c.toClosing with orphan := true, notices := [] }).releaseAll p (noticeBuffers c.notices)
  else s

/-- R114: the event side of a port after its reset. -/
def PortState.resetEvents (ps : PortState) : PortState :=
  { ps with queue := [], filters := Filters.reset, admission := 31 }

/-- R182, step 5: the reply slot and the transaction of a port after its reset. A transaction that was in progress is cut
short (R179): the bits that SDI and SDO have carried stay as they are, and SDO carries zeros from then on. -/
def PortState.resetTransaction (ps : PortState) : PortState :=
  { ps with
    slot := none, transaction := .idle, requestBytes := [], collectPos := 0
    cutShort := ps.cutShort || ps.transaction ≠ .idle }

/-- R182, step 6: the right of a holder that is reset becomes held by no port. -/
def ConfigUnit.dropRight (g : ConfigUnit) (p : Port) : ConfigUnit :=
  if g.rightHolder = some p then { g with rightHolder := none } else g

/-- Step 1 of R182: the port's listen entries are removed (R59). -/
def State.resetListen (s : State) (p : Port) : State :=
  { s with listen := s.listen.filter fun l => l.owner ≠ p }

/-- Step 2 of R182: the port's entries, in index order. -/
def State.resetEntries (s : State) (p : Port) : State := allEntries.foldl (fun s e => s.resetEntry p e) s

/-- Step 3 of R182: the port's event side. -/
def State.resetQueue (s : State) (p : Port) : State :=
  (s.modPort p PortState.resetEvents).releaseAll p ((s.port p).queue.filterMap EventRecord.buffer)

/-- Step 4 of R182: the port's held set, in ascending order of handle. -/
def State.resetHeld (s : State) (p : Port) : State :=
  (s.withPool (s.pool.modAccount p fun a => { a with held := [] })).releaseAll p (s.account p).held

/-- R182: a port reset, its six steps in order. -/
def State.portReset (s : State) (p : Port) : State :=
  let s' := ((((s.resetListen p).resetEntries p).resetQueue p).resetHeld p).modPort p PortState.resetTransaction
  { s' with config := s'.config.dropRight p }

/-! ### Line statistics and stray replies (R147, R167) -/

/-- An increase at 65535 leaves a counter at 65535 (R167). -/
def countUp (n : Nat) : Nat := if n < Config.counterMax then n + 1 else Config.counterMax

def Counters.checkError (k : Counters) : Counters := { k with checkErrors := countUp k.checkErrors }

def Counters.formatError (k : Counters) : Counters := { k with formatErrors := countUp k.formatErrors }

def Counters.frameForUs (k : Counters) : Counters := { k with framesForUs := countUp k.framesForUs }

def Counters.stray (k : Counters) : Counters := { k with strays := countUp k.strays }

def Counters.strayNotMade (k : Counters) : Counters := { k with straysNotMade := countUp k.straysNotMade }

def Counters.handoverFailure (k : Counters) : Counters :=
  { k with handoverFailures := countUp k.handoverFailures }

/-- R147: a reply is offered to the stray reply list. -/
def State.offerStray (s : State) (r : StrayReply) : State :=
  if s.turn.engine = .offline then s
  else if s.sched.strays.length < Config.strayMax then
    s.withSched { s.sched with strays := s.sched.strays ++ [r] }
  else s.withStats s.stats.strayNotMade

/-! ### The line interface (R157, R158) -/

/-- A reception in progress is abandoned: its frame end is reported truncated, which fails check 1 (R157, R160). -/
def State.abandonReception (s : State) : State :=
  if s.line.receiving then
    { s with line := { s.line with receiving := false }, stats := s.stats.checkError }
  else s

/-- A frame's transmission starts: a reception in progress is abandoned, and the frame-in-transmission record is
made (R152, R157). -/
def State.startFrame (s : State) (o : Origin) (f : Frame) (sn : Option Seq) (d : Discharged) : State :=
  let s' := s.abandonReception
  s'.withSched
    { s'.sched with tx := some { origin := o, frame := f, sn := sn, discharged := d, detached := false } }

/-- R158: LDE is asserted for the whole of a transmission. RESET releases it (R184). -/
def State.lde (s : State) : Bool := s.sched.tx.isSome && !s.resetLow

/-- R158: what LTX carries in the transmission in progress, the frame's header and payload and then its two check bytes.
Nothing while LDE is released. -/
def State.ltx (s : State) : Option (List Byte) := if s.lde then s.sched.tx.map (·.frame.encode) else none

/-- R158, R196: the bits on LTX in the order of their transmission, bit 7 of each byte first. -/
def State.ltxBits (s : State) : Option (List Bool) := s.ltx.map bitsOf

/-! ### The turn (Chapter 6) -/

/-- R125: the lost time in µs. -/
def ConfigUnit.lostTime (g : ConfigUnit) : Nat :=
  100 * g.params.lostBase + g.station.toNat * (10 * g.params.claimSlot)

/-- The hold limit in µs. -/
def ConfigUnit.holdTime (g : ConfigUnit) : Nat := 100 * g.params.holdLimit

/-- The turn response time in µs. -/
def ConfigUnit.responseTime (g : ConfigUnit) : Nat := 10 * g.params.turnResponse

/-- R122: sole mode, no PRESENT record in the turn list. -/
def TurnController.sole (t : TurnController) : Bool := !t.list.any (·.present)

/-- R122: the successor, the first PRESENT record above the own address or else the lowest. -/
def TurnController.successor (t : TurnController) (own : Byte) : Option Byte :=
  let present := (t.list.filter (·.present)).map (·.address)
  match present.find? fun a => own.toNat < a.toNat with
  | some a => some a
  | none => present.head?

/-- R123: an address lies strictly between the own station and the successor in ring order. -/
def strictlyBetween (own successor a : Byte) : Bool :=
  if own.toNat < successor.toNat then decide (own.toNat < a.toNat) && decide (a.toNat < successor.toNat)
  else decide (own.toNat < a.toNat) || decide (a.toNat < successor.toNat)

/-- R123: the probe candidates, lowest address first. -/
def TurnController.candidates (t : TurnController) (own : Byte) : List Byte :=
  let silent := (t.list.filter fun r => !r.present).map (·.address)
  match t.successor own with
  | some n => silent.filter (strictlyBetween own n)
  | none => silent

/-- R123: the target of a probe, the lowest candidate above the probe cursor or else the lowest. -/
def TurnController.nextProbe (t : TurnController) (own : Byte) : Option Byte :=
  match (t.candidates own).find? fun a => t.probeCursor.toNat < a.toNat with
  | some a => some a
  | none => (t.candidates own).head?

/-- The rotation counter increases by 1 and saturates at 255 (R126, R136). -/
def TurnController.countRotation (t : TurnController) : TurnController :=
  { t with rotation := if t.rotation < Config.rotationMax then t.rotation + 1 else Config.rotationMax }

/-- The handover target, kind and attempt become absent. -/
def TurnController.noHandover (t : TurnController) : TurnController :=
  { t with target := none, kind := none, attempt := none }

/-- The turn list with one station's record given a status, if the list has a record for it. -/
def TurnController.mark (t : TurnController) (station : Byte) (present : Bool) : TurnController :=
  { t with list := t.list.map fun r => if r.address = station then { r with present := present } else r }

/-- The turn list has a record for the station. -/
def TurnController.knows (t : TurnController) (station : Byte) : Bool := t.list.any fun r => r.address = station

/-- The turn list has a SILENT record for the station. -/
def TurnController.isSilent (t : TurnController) (station : Byte) : Bool :=
  t.list.any fun r => r.address = station && !r.present

/-- The line engine enters WAITING: the lost timer starts and every other line timer stops (R125). -/
def State.enterWaiting (s : State) : State :=
  s.withTurn
    { s.turn with
      engine := .waiting, lostTimer := some s.config.lostTime, holdTimer := none, responseTimer := none }

/-- R126: a turn begins. -/
def State.beginTurn (s : State) : State :=
  s.withTurn
    { s.turn.countRotation with
      engine := .holding, frameCount := 0, holdTimer := some s.config.holdTime, lostTimer := none }

/-- R131, R132: the turn of sole mode that follows a failed handover. The rotation counter does not change. -/
def State.beginSoleTurn (s : State) : State :=
  s.withTurn
    { s.turn.noHandover with
      engine := .holding, frameCount := 0, holdTimer := some s.config.holdTime, responseTimer := none }

/-- R129: the TURN frame to a station. -/
def State.turnFrame (s : State) (target : Byte) : Frame where
  dest := target
  src := s.config.station
  kind := .turn
  dci := 0xFF
  sci := 0xFF
  seq := 0
  payload := []

/-- A TURN frame to the target starts. -/
def State.sendTurn (s : State) (target : Byte) : State :=
  s.startFrame (.turn target) (s.turnFrame target) none {}

/-- R128: a handover begins: its target and kind are recorded, and its first TURN starts. -/
def State.beginHandover (s : State) (k : HandoverKind) (target : Byte) : State :=
  (s.withTurn
    { s.turn with
      engine := .handing, target := some target, kind := some k, attempt := some 1, holdTimer := none,
      responseTimer := none }).sendTurn target

/-- R128: a probe begins: the cursor takes the target and the rotation counter becomes 0. -/
def State.beginProbe (s : State) (target : Byte) : State :=
  (s.withTurn { s.turn with probeCursor := target, rotation := 0 }).beginHandover .probe target

/-- R128: the end of a turn outside sole mode, a probe if one is due and has a candidate, and else a handover to the
successor. -/
def State.endTurn (s : State) : State :=
  let due := s.config.params.probeInterval ≤ s.turn.rotation
  match (if due then s.turn.nextProbe s.config.station else none) with
  | some a => s.beginProbe a
  | none =>
    match s.turn.successor s.config.station with
    | some a => s.beginHandover .normal a
    | none => s

/-- R133: the hold timer has expired in sole mode: a probe if there is a candidate, and else the turn is renewed. -/
def State.renewSoleTurn (s : State) : State :=
  match s.turn.nextProbe s.config.station with
  | some a => s.beginProbe a
  | none => s.withTurn { s.turn with frameCount := 0, holdTimer := some s.config.holdTime }

/-- R140: a CLOSING entry returns to FREE when the line engine becomes OFFLINE. -/
def State.dropClosing (s : State) : State :=
  allEntries.foldl (fun s e => if (s.entry e).state = .closing then s.freeEntry e else s) s

/-- R140, R148: the line engine becomes OFFLINE. -/
def State.goOffline (s : State) : State :=
  let s' := s.dropClosing
  ({ s' with
    turn :=
      { s'.turn.noHandover with
        engine := .offline, frameCount := 0, lostTimer := none, holdTimer := none, responseTimer := none }
    sched := { s'.sched with strays := [] } }).lineEvent .stopped

/-! ### The classes of the transmit scheduler (R144, R145) -/

/-- R144: the scheduler is offered the line. -/
def State.offered (s : State) : Bool :=
  s.turn.engine = .holding && s.sched.tx.isNone &&
    decide (s.turn.frameCount < s.config.params.turnBudget) && s.turn.holdTimer.isSome

/-- A choice of the scheduler: the class, and the record or the entry chosen from it. `passing e p k` is DATA of entry `k`
at priority `p` while the CLOSE of the entry `e` waits (R156, row 4). -/
inductive Choice where
  | stray (r : StrayReply)
  | response (e : EntryIdx)
  | initiative (e : EntryIdx)
  | data (p : Fin 4) (e : EntryIdx)
  | passing (e : EntryIdx) (p : Fin 4) (k : EntryIdx)
  deriving DecidableEq, Repr

/-- R146: the entry chosen from the response class. -/
def State.chooseResponse (s : State) : Option EntryIdx :=
  roundRobin s.sched.responsePtr fun e => (s.entry e).inResponse

/-- R146: the entry chosen from the initiative class. -/
def State.chooseInitiative (s : State) : Option EntryIdx :=
  roundRobin s.sched.initiativePtr fun e => (s.entry e).inInitiative

/-- R146, R151: the entry chosen from the DATA class at one priority. -/
def State.chooseData (s : State) (p : Fin 4) : Option EntryIdx :=
  roundRobin (look s.sched.dataPtrs p) fun e => (s.entry e).inData p

/-- R151: the entry chosen from the DATA class, with its priority, by priority 3 down to 0. -/
def State.chooseDataClass (s : State) : Option (Fin 4 × EntryIdx) :=
  [3, 2, 1, 0].findSome? fun p => (s.chooseData p).map fun e => (p, e)

/-- R156, row 4: the CLOSE that a CONN.CLOSE ABORT made due is all that the initiative class holds, and but for the abort the
DATA class, whose highest priority with a member is `q`, would have given this entry. -/
def State.abortedInPlace (s : State) (e : EntryIdx) (q : Fin 4) : Bool :=
  (s.entry e).aborted && (s.entry e).state = .closing &&
    (allEntries.all fun k => decide (k = e) || !(s.entry k).inInitiative) &&
      match (s.entry e).priority with
      | some p =>
        decide (q ≤ p) &&
          roundRobin (look s.sched.dataPtrs p) (fun k => decide (k = e) || (s.entry k).inData p) = some e
      | none => false

/-- R145: the choice from the initiative class, or from the DATA class if the initiative class has no member. Row 4 of R156
says that after CONN.CLOSE ABORT of the entry that the DATA class would have given, the choice takes another member and the
entry's CLOSE waits in the initiative class, where R145 takes the CLOSE. Which of the two happens is free
(`Config.abortedCloseWaits`, log entry 21). -/
def State.chooseUnprompted (s : State) : Option Choice :=
  match s.chooseInitiative, s.chooseDataClass with
  | some e, some (p, k) =>
    if s.abortedInPlace e p && Config.abortedCloseWaits then some (.passing e p k) else some (.initiative e)
  | some e, none => some (.initiative e)
  | none, some (p, k) => some (.data p k)
  | none, none => none

/-- R145, R151: the scheduler's choice, from the first class that has a member. -/
def State.choose (s : State) : Option Choice :=
  (s.sched.strays.head?.map Choice.stray) <|> (s.chooseResponse.map Choice.response) <|> s.chooseUnprompted

/-- Some class has a member (R145). -/
def State.hasWork (s : State) : Bool := s.choose.isSome

end Sys2Proof.Machine
end

