-- ==== Sys2Proof/Machine/Scheduling.lean ====
section
/-! DEFINITION. The transmit scheduler's choice (R144 to R151) and the frames that entries and stray replies give when they
are chosen (R26 to R30). -/

namespace Sys2Proof.Machine

/-! ### Frames of an entry -/

/-- A frame from an entry to its peer: the remote station and index, and the entry's own index (R29). A remote index
that is absent is sent as 0xFF (R67). -/
def State.entryFrame (s : State) (e : EntryIdx) (k : FrameKind) (seq : Byte) (payload : List Byte) : Frame :=
  let c := s.entry e
  { dest := c.remoteStation.getD 0, src := s.config.station, kind := k, dci := c.remoteIndex.getD 0xFF,
    sci := byte e.val, seq := seq, payload := payload }

/-- An entry's frame starts, with the entry as it then is. -/
def State.giveFrame (s : State) (e : EntryIdx) (c : ConnEntry) (f : Frame) (sn : Option Seq) (d : Discharged) :
    State :=
  (s.setEntry e c).startFrame (.entry e) f sn d

/-- What a READY or WAIT discharges: ack due, status due, answer owed with A and query due with Q (R30). -/
def ConnEntry.statusDischarge (c : ConnEntry) : Discharged where
  ackDue := c.flags.ackDue
  answerOwed := c.flags.answerOwed
  statusDue := c.flags.statusDue
  queryDue := c.flags.queryDue
  repeatDue := false

/-- The entry after the start of a READY or WAIT. -/
def ConnEntry.afterStatus (c : ConnEntry) : ConnEntry :=
  { c with flags := { c.flags with ackDue := false, answerOwed := false, statusDue := false, queryDue := false } }

/-- R27 to R30: a status frame, WAIT if the entry is busy and else READY, with A if an answer is owed and Q if a query
is due. -/
def State.giveStatus (s : State) (e : EntryIdx) : State :=
  let c := s.entry e
  let kind := if c.busy then FrameKind.wait else .ready
  s.giveFrame e c.afterStatus (s.entryFrame e kind (seqByte 0 c.vr c.flags.queryDue c.flags.answerOwed) []) none
    c.statusDischarge

/-- R27, R29, R30: a REPEAT, which discharges repeat due and ack due. -/
def State.giveRepeat (s : State) (e : EntryIdx) : State :=
  let c := s.entry e
  s.giveFrame e { c with flags := { c.flags with repeatDue := false, ackDue := false } }
    (s.entryFrame e .rept (seqByte 0 c.vr false false) []) none
    { ackDue := c.flags.ackDue, repeatDue := c.flags.repeatDue }

/-- The first marked message in SN order, sent again with its mark cleared, and the list after it (R30). -/
def takeMarked : List SentMsg → Option (SentMsg × List SentMsg)
  | [] => none
  | m :: rest =>
    if m.needsTx then some (m, { m with needsTx := false } :: rest)
    else (takeMarked rest).map fun r => (r.1, m :: r.2)

/-- R30: the message a DATA frame carries, and the entry after it was taken: a marked message, or the head of the send
queue with SN equal to VS. -/
def ConnEntry.takeMessage (c : ConnEntry) : Option (Msg × Seq × ConnEntry) :=
  match takeMarked c.unacked with
  | some (m, list) => some (m.msg, m.sn, { c with unacked := list })
  | none =>
    match c.sendQueue with
    | [] => none
    | m :: rest =>
      some
        (m, c.vs,
          { c with
            sendQueue := rest, vs := c.vs + 1
            unacked := c.unacked ++ [{ msg := m, sn := c.vs, needsTx := false }] })

/-- R29: the Q mark of a DATA frame, on the entry with its message counted as transmitted: the window is full, or
nothing more is left to send. -/
def ConnEntry.dataQuery (c : ConnEntry) : Bool :=
  c.windowFilled || (!c.marked && (c.sendQueue.isEmpty || c.windowFilled))

/-- The entry after the start of a DATA frame: ack due and answer owed are discharged (R30). -/
def ConnEntry.afterData (c : ConnEntry) : ConnEntry :=
  { c with flags := { c.flags with ackDue := false, answerOwed := false } }

/-- R30: a DATA frame, the first length bytes of the message's buffer. -/
def State.giveData (s : State) (e : EntryIdx) : State :=
  match (s.entry e).takeMessage with
  | none => s
  | some (m, sn, c) =>
    s.giveFrame e c.afterData
      (s.entryFrame e .data (seqByte sn c.vr c.dataQuery c.flags.answerOwed) (s.pool.bytesAt m.handle 0 m.length))
      (some sn) { ackDue := c.flags.ackDue, answerOwed := c.flags.answerOwed }

/-- R68: an ACCEPT with the agreed window. Control due is not cleared at the start (R71). -/
def State.giveAccept (s : State) (e : EntryIdx) : State :=
  s.giveFrame e (s.entry e) (s.entryFrame e .accept 0 [byte (s.entry e).windowSize]) none {}

/-- R67: an OPEN with the service and the proposed window. -/
def State.giveOpen (s : State) (e : EntryIdx) : State :=
  let f := s.entryFrame e .opening 0 [(s.entry e).service.getD 0, byte (s.entry e).windowSize]
  s.giveFrame e (s.entry e) { f with dci := 0xFF } none {}

/-- The entry's CLOSE starts, or a choice has passed it over, so that it is passed over no more (log entry 21). -/
def ConnEntry.settleAbort (c : ConnEntry) : ConnEntry := { c with aborted := false }

/-- R73: a CLOSE. -/
def State.giveClose (s : State) (e : EntryIdx) : State :=
  s.giveFrame e (s.entry e).settleAbort (s.entryFrame e .close 0 []) none {}

/-- R27: the first frame that applies, for an entry of the response class. -/
def State.giveResponse (s : State) (e : EntryIdx) : State :=
  let c := s.entry e
  if c.controlDue = .sendAccept then s.giveAccept e
  else if c.flags.repeatDue then s.giveRepeat e
  else if c.flags.statusDue then s.giveStatus e
  else if c.eligible && !c.busy then s.giveData e
  else s.giveStatus e

/-- R150: the frame an entry of the initiative class gives. -/
def State.giveInitiative (s : State) (e : EntryIdx) : State :=
  match (s.entry e).state with
  | .opening => s.giveOpen e
  | .closing => s.giveClose e
  | .opened | .draining => s.giveStatus e
  | .free | .ended => s

/-! ### The choice -/

/-- R148: the frame of a stray reply. -/
def State.strayFrame (s : State) (r : StrayReply) : Frame where
  dest := r.dest
  src := s.config.station
  kind := r.reason.kind
  dci := r.dci
  sci := r.sci
  seq := 0
  payload := [byte r.reason.code]

/-- R146: the pointer of the class takes the entry's index when the frame starts. -/
def Scheduler.moveTo (k : Scheduler) : Choice → Scheduler
  | .stray _ => k
  | .response e => { k with responsePtr := e }
  | .initiative e => { k with initiativePtr := e }
  | .data p e => { k with dataPtrs := put k.dataPtrs p e }
  | .passing _ p e => { k with dataPtrs := put k.dataPtrs p e }

/-- R148 to R151: the frame of a choice starts. -/
def State.startChoice (s : State) (c : Choice) : State :=
  let s' := s.withSched (s.sched.moveTo c)
  match c with
  | .stray r => s'.startFrame .stray (s'.strayFrame r) none {}
  | .response e => s'.giveResponse e
  | .initiative e => s'.giveInitiative e
  | .data _ e => s'.giveData e
  | .passing e _ k => (s'.modEntry e ConnEntry.settleAbort).giveData k

/-- R144: the scheduler, if it is offered the line, starts one frame. With nothing to send the turn ends outside sole mode
(R127), and in sole mode it goes on (R133). Every event after which R144 offers the line makes this choice as its last
effect: the beginning and the renewal of a turn, the end of a transmission (R153, step 5), and, in sole mode, an event
that gives an entry something to send. -/
def State.schedule (s : State) : State :=
  if s.offered then
    match s.choose with
    | some c => s.startChoice c
    | none => if s.turn.sole then s else s.endTurn
  else s

end Sys2Proof.Machine
end

