-- ==== Sys2Proof/Machine/Transactions.lean ====
section
/-! DEFINITION. Host transactions (Section 9.1): the fall and the rise of select, the taking of a request, and the
reply slot (Section 9.2). A command that stands for a transaction's rise of select includes the fall if select is
still high (log entry 2). -/

namespace Sys2Proof.Machine

/-- What a request's owning block answers: the status, the results, and the part as the request leaves it. -/
structure Answer where
  status : Status
  results : List Byte
  after : State

/-- A refusal changes no state and carries no results (R174, R176). -/
def Answer.refuse (st : Status) (s : State) : Answer := { status := st, results := [], after := s }

/-- A request taken, with its results. -/
def Answer.ok (results : List Byte) (s : State) : Answer := { status := .ok, results := results, after := s }

/-- A transaction is in progress on the port (R171). -/
def PortState.inTransaction (ps : PortState) : Bool := ps.transaction ≠ .idle

/-- R171, R180, R184: select falls. It begins no transaction while PRSTn or RESET is asserted, and a select that
is low already does not fall. The bits of the transaction begin here. -/
def PortState.fall (resetLow : Bool) (ps : PortState) : PortState :=
  if ps.selectLow then ps
  else if resetLow || ps.inReset then { ps with selectLow := true, transaction := .idle, sdi := [] }
  else { ps with selectLow := true, transaction := .begun, sdi := [], sdo := [] }

/-- R172, R175: select rises. A COLLECT that clocked out the whole reply empties the slot, and in every case the
transaction returns to IDLE. -/
def PortState.rise (ps : PortState) : PortState :=
  { ps with
    selectLow := false
    cutShort := false
    transaction := .idle
    requestBytes := []
    collectPos := 0
    sdi := []
    slot :=
      match ps.slot with
      | some r => if ps.transaction = .collect && decide (r.encode.length ≤ ps.collectPos) then none else some r
      | none => none }

/-- R174: a reply is placed in the slot. -/
def PortState.place (ps : PortState) (st : Status) (tag : Byte) (lost : Bool) (results : List Byte) : PortState :=
  { ps with slot := some { status := st, tag := tag, lost := lost, results := results } }

/-- R175: the bits SDO carries after the type byte of a COLLECT, for `n` clocks: the reply record in the slot, or a NONE
reply, and then zeros. -/
def PortState.collected (ps : PortState) (n : Nat) : List Bool :=
  let record := bitsOf (ps.slot.getD Reply.absent).encode
  record.take n ++ zeroBits (n - record.length)

/-- R171, R172, R175: a transaction in progress in which the host has clocked these bits since the fall. The first complete
byte names the type. SDO carries zeros during that byte, and after it unless the transaction is a COLLECT. -/
def PortState.clock (sdi : List Bool) (ps : PortState) : PortState :=
  let quiet := { ps with sdi := sdi, sdo := zeroBits sdi.length, requestBytes := [], collectPos := 0 }
  match bytesOf sdi with
  | [] => { quiet with transaction := .begun }
  | first :: after =>
    if first = requestType then { quiet with transaction := .request, requestBytes := after }
    else if first = collectType then
      { quiet with
        transaction := .collect, collectPos := after.length, sdo := zeroBits 8 ++ ps.collected (sdi.length - 8) }
    else { quiet with transaction := .ignored }

/-- R179: the same bits with no transaction in progress. When a port reset has cut the transaction short, SDO keeps what it
carried before and carries zeros from the reset on; for a select whose fall began none, and after RESET, the manual says
nothing of SDO and the record stays (log entry 14). -/
def PortState.clockNothing (sdi : List Bool) (ps : PortState) : PortState :=
  if ps.cutShort then { ps with sdo := ps.sdo ++ zeroBits (sdi.length - ps.sdo.length) } else ps

/-- The bits clocked while select was low do not go on as `sdi` does, so that no transaction of the bits `sdi` can end
here (log entry 2). -/
def PortState.contradicts (ps : PortState) (sdi : List Bool) : Bool := ps.selectLow && !ps.sdi.isPrefixOf sdi

/-- A whole transaction of a port: select falls if it is still high, the host clocks the bits `sdi`, counted from the
fall, `taken` is what the port takes at the rise, and select rises. When the fall began no transaction, or a reset ended
it, nothing is taken (R179, R180, R184). -/
def State.transact (s : State) (p : Port) (sdi : List Bool) (taken : State → State) : State :=
  if (s.port p).contradicts sdi then s
  else
    let s' := s.modPort p (·.fall s.resetLow)
    if (s'.port p).inTransaction then (taken (s'.modPort p (·.clock sdi))).modPort p PortState.rise
    else (s'.modPort p (·.clockNothing sdi)).modPort p PortState.rise

/-- R176, R177: a complete record is taken as one request: surplus bytes are BAD_ARG, else the answer of the owning
block, and the reply is placed. The lost mark says that the slot held an uncollected reply (R174, R181). -/
def State.answer (s : State) (r : Req) (surplus : Bool) (handle : State → Answer) : State :=
  let lost := (s.port r.port).slot.isSome
  let a := if surplus then Answer.refuse .badArg s else handle s
  a.after.modPort r.port (·.place a.status r.tag lost a.results)

/-- R172, R173: a REQUEST transaction with a complete record of a known code, `args` its fixed argument bytes. Any
byte after them is surplus. -/
def State.request (s : State) (r : Req) (code : Byte) (args : List Byte) (handle : State → Answer) : State :=
  s.transact r.port (bitsOf ([requestType, code, r.tag] ++ args ++ r.rest))
    (fun s' => s'.answer r (!r.rest.isEmpty) handle)

/-- R173, R91: BUF.WRITE alone takes bytes after its fixed arguments. -/
def State.requestWithData (s : State) (r : Req) (code : Byte) (args : List Byte) (handle : State → Answer) : State :=
  s.transact r.port (bitsOf ([requestType, code, r.tag] ++ args ++ r.rest)) (fun s' => s'.answer r false handle)

/-- The request passes only with the configuration right (R176, step 3). -/
def State.hasRight (s : State) (p : Port) : Bool := s.config.rightHolder = some p

end Sys2Proof.Machine
end

