-- ==== Sys2Proof/Machine/Buffers.lean ====
section
/-! DEFINITION. The buffer requests BUF.GET, BUF.PUT, BUF.WRITE and BUF.READ (Section 4.5). -/

namespace Sys2Proof.Machine

/-- R89: the head of the free list joins the port's held set, or NO_BUFFER. -/
def answerBufGet (p : Port) (s : State) : Answer :=
  match s.pool.allocate p with
  | some (h, pool) => .ok [byte h.val] (s.withPool (pool.hold p h))
  | none => .refuse .noBuffer s

/-- R90: a held buffer is released, which may give a starved entry a READY to send (R88, R144). -/
def answerBufPut (p : Port) (handle : Byte) (s : State) : Answer :=
  match handleArg handle with
  | none => .refuse .badArg s
  | some h =>
    if s.pool.holds p h then .ok [] ((s.withPool (s.pool.unhold p h)).release p h).schedule
    else .refuse .badHandle s

/-- R91: the data bytes replace the bytes at the offset. -/
def answerBufWrite (p : Port) (handle offset count : Byte) (data : List Byte) (s : State) : Answer :=
  match handleArg handle with
  | none => .refuse .badArg s
  | some h =>
    if !(spanArg offset count && decide (data.length = count.toNat)) then .refuse .badArg s
    else if s.pool.holds p h then .ok [] (s.withPool (s.pool.store h offset.toNat data))
    else .refuse .badHandle s

/-- R92: the count bytes at the offset. -/
def answerBufRead (p : Port) (handle offset count : Byte) (s : State) : Answer :=
  match handleArg handle with
  | none => .refuse .badArg s
  | some h =>
    if !spanArg offset count then .refuse .badArg s
    else if s.pool.holds p h then .ok (s.pool.bytesAt h offset.toNat count.toNat) s
    else .refuse .badHandle s

/-- BUF.GET (R89). -/
def execBufGet (r : Req) (s : State) : Host.Outcome State Fault Refusal :=
  .next (s.request r 0x10 [] (answerBufGet r.port))

/-- BUF.PUT (R90). -/
def execBufPut (r : Req) (handle : Byte) (s : State) : Host.Outcome State Fault Refusal :=
  .next (s.request r 0x11 [handle] (answerBufPut r.port handle))

/-- BUF.WRITE (R91): the bytes after the fixed arguments are its data. -/
def execBufWrite (r : Req) (handle offset count : Byte) (s : State) : Host.Outcome State Fault Refusal :=
  .next (s.requestWithData r 0x12 [handle, offset, count] (answerBufWrite r.port handle offset count r.rest))

/-- BUF.READ (R92). -/
def execBufRead (r : Req) (handle offset count : Byte) (s : State) : Host.Outcome State Fault Refusal :=
  .next (s.request r 0x13 [handle, offset, count] (answerBufRead r.port handle offset count))

end Sys2Proof.Machine
end

