-- ==== Sys2Proof/Machine/Configuration.lean ====
section
/-! DEFINITION. The configuration requests CFG.TAKE, CFG.PASS, CFG.STATION, CFG.LINE and CFG.READ (Chapter 10), and
CFG.QUOTA (R93). -/

namespace Sys2Proof.Machine

/-- R188: the right is taken if no other port holds it. -/
def answerCfgTake (p : Port) (s : State) : Answer :=
  match s.config.rightHolder with
  | none => .ok [flagByte false] { s with config := { s.config with rightHolder := some p } }
  | some q => if q = p then .ok [flagByte true] s else .refuse .noRight s

/-- R189: the right passes to the named port. -/
def answerCfgPass (p : Port) (heir : Byte) (s : State) : Answer :=
  match portArg heir with
  | none => .refuse .badArg s
  | some q =>
    if !s.hasRight p then .refuse .noRight s
    else .ok [] { s with config := { s.config with rightHolder := some q } }

/-- R191: the station address is replaced, and the reply carries the previous one. -/
def answerCfgStation (p : Port) (station : Byte) (s : State) : Answer :=
  if !isStation station then .refuse .badArg s
  else if !s.hasRight p then .refuse .noRight s
  else if s.turn.engine ≠ .offline then .refuse .badState s
  else if s.turn.knows station then .refuse .badArg s
  else .ok [s.config.station] { s with config := { s.config with station := station } }

/-- R192: a change of bit rate abandons a frame being received, and the interface then ignores the line until it has
been idle. -/
def State.changeBitRate (s : State) (rate : BitRate) : State :=
  if rate = s.config.params.bitRate then s
  else if s.line.receiving then { s.abandonReception with line := { receiving := false, ignoring := true } }
  else s

/-- R192: all seven line parameters are replaced. -/
def answerCfgLine (p : Port) (params : Option LineParams) (s : State) : Answer :=
  match params with
  | none => .refuse .badArg s
  | some l =>
    if !s.hasRight p then .refuse .noRight s
    else if s.turn.engine ≠ .offline then .refuse .badState s
    else
      .ok [] { s.changeBitRate l.bitRate with config := { s.config with params := l } }

/-- R193, R200: the configuration, 17 bytes. -/
def State.configReport (s : State) : List Byte :=
  [(s.config.rightHolder.map fun p => byte p.val).getD 0xFF, s.config.station] ++ s.config.params.report ++
    (s.pool.accounts.toList.map fun a => [byte a.reserve, byte a.limit]).flatten

/-- R193. -/
def answerCfgRead (s : State) : Answer := .ok s.configReport s

/-- The pool with one port's reserve and limit replaced (R93). -/
def Pool.withQuota (pool : Pool) (q : Port) (reserve limit : Nat) : Pool :=
  pool.modAccount q fun a => { a with reserve := reserve, limit := limit }

/-- The sum of the four reserves. -/
def Pool.reserveTotal (pool : Pool) : Nat := (pool.accounts.toList.map (·.reserve)).sum

/-- R93: the reserve and limit of one port are replaced, if the reserve sum and the reserve law allow it. -/
def answerCfgQuota (p : Port) (port reserve limit : Byte) (s : State) : Answer :=
  match portArg port with
  | none => .refuse .badArg s
  | some q =>
    let pool := s.pool.withQuota q reserve.toNat limit.toNat
    if !(decide (reserve.toNat ≤ limit.toNat) && decide (limit.toNat ≤ 192)) then .refuse .badArg s
    else if !s.hasRight p then .refuse .noRight s
    else if 192 < pool.reserveTotal then .refuse .badArg s
    else if pool.freeList.length < pool.unusedTotal then .refuse .badArg s
    else .ok [] (s.withPool pool)

/-- CFG.TAKE (R188). -/
def execCfgTake (r : Req) (s : State) : Host.Outcome State Fault Refusal :=
  .next (s.request r 0x60 [] (answerCfgTake r.port))

/-- CFG.PASS (R189). -/
def execCfgPass (r : Req) (heir : Byte) (s : State) : Host.Outcome State Fault Refusal :=
  .next (s.request r 0x61 [heir] (answerCfgPass r.port heir))

/-- CFG.STATION (R191). -/
def execCfgStation (r : Req) (station : Byte) (s : State) : Host.Outcome State Fault Refusal :=
  .next (s.request r 0x62 [station] (answerCfgStation r.port station))

/-- CFG.LINE (R192). -/
def execCfgLine (r : Req) (bitRate turnResponse lostBase claimSlot turnBudget holdLimit probeInterval : Byte)
    (s : State) : Host.Outcome State Fault Refusal :=
  .next
    (s.request r 0x63 [bitRate, turnResponse, lostBase, claimSlot, turnBudget, holdLimit, probeInterval]
      (answerCfgLine r.port
        (lineParamsArg bitRate turnResponse lostBase claimSlot turnBudget holdLimit probeInterval)))

/-- CFG.READ (R193). -/
def execCfgRead (r : Req) (s : State) : Host.Outcome State Fault Refusal :=
  .next (s.request r 0x65 [] answerCfgRead)

/-- CFG.QUOTA (R93). -/
def execCfgQuota (r : Req) (port reserve limit : Byte) (s : State) : Host.Outcome State Fault Refusal :=
  .next (s.request r 0x64 [port, reserve, limit] (answerCfgQuota r.port port reserve limit))

end Sys2Proof.Machine
end

