-- ==== Sys2Proof/Machine/Connections.lean ====
section
/-! DEFINITION. The connection requests: CONN.OPEN (R66), CONN.SEND (R25), CONN.HOLD (R48), CONN.RESUME (R49),
CONN.CLOSE (R72), CONN.RELEASE (R19) and CONN.QUERY (R20). -/

namespace Sys2Proof.Machine

/-- A request that names an entry: its index in range, else BAD_ARG, and the ownership check of R6, else
NOT_OWNER. -/
def withOwnEntry (p : Port) (entry : Byte) (s : State) (handle : EntryIdx → ConnEntry → Answer) : Answer :=
  match entryArg entry with
  | none => .refuse .badArg s
  | some e => if (s.entry e).ownedBy p then handle e (s.entry e) else .refuse .notOwner s

/-- The line engine states in which CONN.OPEN is taken (R66). -/
def LineState.takesOpen : LineState → Bool
  | .waiting | .holding | .handing => true
  | .offline | .stopping => false

/-- R66: the lowest FREE entry becomes OPENING, and its OPEN is work for the scheduler (R144). -/
def answerConnOpen (p : Port) (service station window priority retryLimit : Byte) (answerTime : Half)
    (s : State) : Answer :=
  match priorityArg priority with
  | none => .refuse .badArg s
  | some pr =>
    if !(isStation station && station ≠ s.config.station && linkArgs window retryLimit answerTime) then
      .refuse .badArg s
    else if !s.turn.engine.takesOpen then .refuse .offline s
    else
      match s.lowestFree with
      | none => .refuse .tableFull s
      | some e =>
        .ok [byte e.val]
          (s.setEntry e
            (ConnEntry.opening p service station window.toNat pr retryLimit.toNat answerTime.toNat)).schedule

/-- R25: the held buffer becomes the last message of the entry's send queue. -/
def answerConnSend (p : Port) (entry handle length : Byte) (hostTag : Half) (notify : Byte) (s : State) : Answer :=
  match handleArg handle, choiceArg notify with
  | some h, some n =>
    if !within 1 240 length.toNat then .refuse .badArg s
    else
      withOwnEntry p entry s fun e c =>
        if c.state ≠ .opened then .refuse .badState s
        else if Config.messageMax ≤ c.sendQueue.length + c.unacked.length then .refuse .queueFull s
        else if !s.pool.holds p h then .refuse .badHandle s
        else
          .ok []
            ((s.withPool (s.pool.unhold p h)).setEntry e
              (c.enqueue { handle := h, length := length.toNat, tag := hostTag, notify := n }).settleTimer).schedule
  | _, _ => .refuse .badArg s

/-- R48: host hold is set, and a WAIT is owed. -/
def answerConnHold (p : Port) (entry : Byte) (s : State) : Answer :=
  withOwnEntry p entry s fun e c =>
    if !c.live then .refuse .badState s
    else if c.flags.hostHold then .ok [] s
    else .ok [] (s.setEntry e c.holdOn.settleTimer).schedule

/-- R49: host hold is cleared, and the end-of-busy check is made. -/
def answerConnResume (p : Port) (entry : Byte) (s : State) : Answer :=
  withOwnEntry p entry s fun e c =>
    if !c.live then .refuse .badState s
    else if !c.flags.hostHold then .ok [] s
    else .ok [] (s.setEntry e c.holdOff.endOfBusy.settleTimer).schedule

/-- The reply of CONN.CLOSE: the entry's state after the request (R200). -/
def closeReply (e : EntryIdx) (s : State) : Answer := .ok [byte (s.entry e).state.code] s

/-- R72: CONN.CLOSE ABORT, which remembers of an entry that only the DATA class could give that it was one (R156, row 4, log
entry 21). -/
def State.abortRequest (s : State) (e : EntryIdx) : State :=
  ((s.modEntry e fun c => { c with aborted := c.dataAlone }).abortEntry e).schedule

/-- R72: the close, by the entry's state and the form, DRAIN (false) or ABORT (true). The CLOSE that an entry then owes is
work for the scheduler (R144). -/
def closeEntry (e : EntryIdx) (c : ConnEntry) (abort : Bool) (s : State) : Answer :=
  match c.state with
  | .opening => closeReply e ((s.freeEntry e).closedEvent c.owner e false)
  | .opened =>
    if abort then closeReply e (s.abortRequest e)
    else closeReply e (s.setEntry e c.toDraining.settleTimer.drained).schedule
  | .draining => if abort then closeReply e (s.abortRequest e) else closeReply e s
  | .closing | .ended | .free => .refuse .badState s

/-- R72. -/
def answerConnClose (p : Port) (entry form : Byte) (s : State) : Answer :=
  match choiceArg form with
  | none => .refuse .badArg s
  | some abort => withOwnEntry p entry s fun e c => closeEntry e c abort s

/-- R19: an ENDED entry with nothing left returns to FREE. -/
def answerConnRelease (p : Port) (entry : Byte) (s : State) : Answer :=
  withOwnEntry p entry s fun e c =>
    if c.state = .ended && c.notices.isEmpty && c.unacked.isEmpty then .ok [] (s.freeEntry e)
    else .refuse .badState s

/-- R20: the entry's report, to any port. -/
def answerConnQuery (entry : Byte) (s : State) : Answer :=
  match entryArg entry with
  | none => .refuse .badArg s
  | some e => .ok (s.entry e).report s

/-- CONN.OPEN (R66). -/
def execConnOpen (r : Req) (service station window priority retryLimit : Byte) (answerTime : Half) (s : State) :
    Host.Outcome State Fault Refusal :=
  .next
    (s.request r 0x20 ([service, station, window, priority, retryLimit] ++ halfBytes answerTime)
      (answerConnOpen r.port service station window priority retryLimit answerTime))

/-- CONN.SEND (R25). -/
def execConnSend (r : Req) (entry handle length : Byte) (hostTag : Half) (notify : Byte) (s : State) :
    Host.Outcome State Fault Refusal :=
  .next
    (s.request r 0x21 ([entry, handle, length] ++ halfBytes hostTag ++ [notify])
      (answerConnSend r.port entry handle length hostTag notify))

/-- CONN.HOLD (R48). -/
def execConnHold (r : Req) (entry : Byte) (s : State) : Host.Outcome State Fault Refusal :=
  .next (s.request r 0x22 [entry] (answerConnHold r.port entry))

/-- CONN.RESUME (R49). -/
def execConnResume (r : Req) (entry : Byte) (s : State) : Host.Outcome State Fault Refusal :=
  .next (s.request r 0x23 [entry] (answerConnResume r.port entry))

/-- CONN.CLOSE (R72). -/
def execConnClose (r : Req) (entry form : Byte) (s : State) : Host.Outcome State Fault Refusal :=
  .next (s.request r 0x24 [entry, form] (answerConnClose r.port entry form))

/-- CONN.RELEASE (R19). -/
def execConnRelease (r : Req) (entry : Byte) (s : State) : Host.Outcome State Fault Refusal :=
  .next (s.request r 0x25 [entry] (answerConnRelease r.port entry))

/-- CONN.QUERY (R20). -/
def execConnQuery (r : Req) (entry : Byte) (s : State) : Host.Outcome State Fault Refusal :=
  .next (s.request r 0x26 [entry] (answerConnQuery entry))

end Sys2Proof.Machine
end

