-- ==== Sys2Proof/Machine/Events.lean ====
section
/-! DEFINITION. The admission arbiter (R107 to R109) and the event requests EVT.FETCH (R110, R111) and EVT.FILTER
(R102). -/

namespace Sys2Proof.Machine

/-- R108: what the admission of a notice from the list of entry `e` brings about. `c` is the entry before it. -/
def State.afterAdmission (s : State) (e : EntryIdx) (c : ConnEntry) (n : Notice) : State :=
  let s' := if n.isReceived && c.live && c.noticeFull then s.modEntry e ConnEntry.endOfBusy else s
  if c.state = .closing && c.closeFinished && (s'.entry e).notices.isEmpty then
    (s'.freeEntry e).closedEvent c.owner e c.closeTimedOut
  else s'

/-- R107: one admission: the oldest notice of the entry next in the port's rotation joins the queue, the pointer takes
the entry, and R108 follows. Nothing without room or without a waiting notice. -/
def State.admitOne (s : State) (p : Port) : State :=
  let waiting := fun e => (s.entry e).owner = some p && !(s.entry e).notices.isEmpty
  if (s.port p).hasRoom then
    match roundRobin (s.port p).admission waiting with
    | none => s
    | some e =>
      let c := s.entry e
      match c.notices with
      | [] => s
      | n :: rest =>
        let s' := s.setEntry e { c with notices := rest }
        let s'' := s'.modPort p fun ps => { ps.takeIn (.held e n) with admission := e }
        s''.afterAdmission e c n
  else s

/-- R107: the arbiter's run, `fuel` admissions at most. A queue with room takes at most 47. -/
def State.admitRun (s : State) (p : Port) : Nat → State
  | 0 => s
  | k + 1 => (s.admitOne p).admitRun p k

/-- R107: the admission arbiter of a port runs until the queue holds 47 records or no notice waits. -/
def State.runArbiter (s : State) (p : Port) : State := s.admitRun p Config.queueRoom

/-- R110, steps 1 and 2: up to `n` records leave the head of the queue, and their buffers join the held set. -/
def State.takeRecords (s : State) (p : Port) (n : Nat) : State :=
  let taken := (s.port p).queue.take n
  let s' := s.modPort p fun ps => { ps with queue := ps.queue.drop n }
  s'.withPool ((taken.filterMap EventRecord.buffer).foldl (fun pool h => pool.hold p h) s'.pool)

/-- R110: the whole fetch. The arbiter runs if records were removed; it does nothing while the count is not below
47. An admission may give an entry a READY to send (R108, R144). -/
def State.fetch (s : State) (p : Port) (n : Nat) : State :=
  if (s.port p).queue.isEmpty then s else ((s.takeRecords p n).runArbiter p).schedule

/-- R110, R111. -/
def answerEvtFetch (p : Port) (n : Byte) (s : State) : Answer :=
  if !within 1 8 n.toNat then .refuse .badArg s
  else
    let taken := (s.port p).queue.take n.toNat
    let s' := s.fetch p n.toNat
    .ok
      ([byte taken.length] ++ (taken.map EventRecord.encode).flatten ++ [byte (s'.port p).queue.length] ++
        twoBytes (s'.noticesWaiting p))
      s'

/-- R102: the filter for a kind takes a value, and the reply carries the previous one. -/
def answerEvtFilter (p : Port) (kind filter : Byte) (s : State) : Answer :=
  match kindArg kind, filterArg filter with
  | some k, some f =>
    if f = .drop && k.isHeld then .refuse .badArg s
    else
      .ok [byte (look (s.port p).filters k.slot).code]
        (s.modPort p fun ps => { ps with filters := put ps.filters k.slot f })
  | _, _ => .refuse .badArg s

/-- EVT.FETCH (R110). -/
def execEvtFetch (r : Req) (n : Byte) (s : State) : Host.Outcome State Fault Refusal :=
  .next (s.request r 0x40 [n] (answerEvtFetch r.port n))

/-- EVT.FILTER (R102). -/
def execEvtFilter (r : Req) (kind filter : Byte) (s : State) : Host.Outcome State Fault Refusal :=
  .next (s.request r 0x41 [kind, filter] (answerEvtFilter r.port kind filter))

/-- The admission arbiter's own run for a port (R107), as far as there is room and a notice waits. An admission may give an
entry a READY to send (R108, R144). -/
def execNoticeAdmission (p : Port) (s : State) : Host.Outcome State Fault Refusal :=
  .next (s.runArbiter p).schedule

end Sys2Proof.Machine
end

