-- ==== Sys2Proof/Machine/Line.lean ====
section
/-! DEFINITION. The requests on the turn list, TURN.ADD, TURN.REMOVE and TURN.LIST (Section 6.2), and on the line,
LINE.START (R124), LINE.STOP (R139) and LINE.STATUS (R168). -/

namespace Sys2Proof.Machine

/-- A PRESENT record put at its place in address order (R119). -/
def insertStation (a : Byte) : List Station → List Station
  | [] => [{ address := a, present := true }]
  | r :: rest =>
    if a.toNat < r.address.toNat then { address := a, present := true } :: r :: rest
    else r :: insertStation a rest

/-- R133: an event ended sole mode while HOLDING: with no frame on the line the scheduler is offered the line, and with
nothing to send the turn ends at once. -/
def State.soleEnds (s : State) : State :=
  if s.turn.engine = .holding && s.sched.tx.isNone then (if s.hasWork then s.schedule else s.endTurn) else s

/-- R119: the record is inserted, and sole mode may end (R133). -/
def State.addStation (s : State) (station : Byte) : State :=
  let s' := s.withTurn { s.turn with list := insertStation station s.turn.list }
  if s.turn.sole then s'.soleEnds else s'

/-- R119. -/
def answerTurnAdd (p : Port) (station : Byte) (s : State) : Answer :=
  if !isStation station then .refuse .badArg s
  else if !s.hasRight p then .refuse .noRight s
  else if station = s.config.station then .refuse .badArg s
  else if s.turn.knows station then .refuse .duplicate s
  else if Config.turnMax ≤ s.turn.list.length then .refuse .tableFull s
  else .ok [] (s.addStation station)

/-- R120. -/
def answerTurnRemove (p : Port) (station : Byte) (s : State) : Answer :=
  if !isStation station then .refuse .badArg s
  else if !s.hasRight p then .refuse .noRight s
  else if !s.turn.knows station then .refuse .badArg s
  else .ok [] (s.withTurn { s.turn with list := s.turn.list.filter fun r => r.address ≠ station })

/-- R121. -/
def answerTurnList (s : State) : Answer :=
  .ok ([byte s.turn.list.length, s.config.station] ++ s.turn.list.map Station.report) s

/-- R124: the part joins the rotation. -/
def State.startLine (s : State) : State :=
  (s.withTurn { s.turn.noHandover with frameCount := 0, rotation := 0 }).enterWaiting.lineEvent .started

/-- R124. -/
def answerLineStart (p : Port) (s : State) : Answer :=
  if !s.hasRight p then .refuse .noRight s
  else if s.turn.engine ≠ .offline then .refuse .badState s
  else if s.config.station = 0 then .refuse .badState s
  else .ok [] s.startLine

/-- R139: a connection that keeps the line from being stopped. -/
def ConnEntry.inUse (c : ConnEntry) : Bool := c.state ≠ .free && c.state ≠ .ended

/-- The line engine enters STOPPING: the hold timer stops, and of a handover only the target stays (R116, R139). -/
def State.enterStopping (s : State) : State :=
  s.withTurn
    { s.turn with engine := .stopping, kind := none, attempt := none, holdTimer := none, responseTimer := none }

/-- R139: in STOPPING with no frame on the line: one TURN to the successor, or OFFLINE if there is none. -/
def State.stopTurn (s : State) : State :=
  match s.turn.successor s.config.station with
  | some a => (s.withTurn { s.turn with target := some a }).sendTurn a
  | none => s.goOffline

/-- R139: the line engine leaves the rotation according to its state and the frame on the line. -/
def State.stopLine (s : State) : State :=
  match s.turn.engine with
  | .waiting => s.goOffline
  | .handing => if s.sched.tx.isSome then s.enterStopping else s.goOffline
  | .holding =>
    if s.sched.tx.isSome then s.enterStopping
    else if s.turn.sole then s.goOffline
    else s.enterStopping.stopTurn
  | .offline | .stopping => s

/-- R139. -/
def answerLineStop (p : Port) (s : State) : Answer :=
  if !s.hasRight p then .refuse .noRight s
  else if s.turn.engine = .offline || s.turn.engine = .stopping then .refuse .badState s
  else if s.entries.any ConnEntry.inUse then .refuse .badState s
  else .ok [byte s.stopLine.turn.engine.code] s.stopLine

/-- R168: the line report, with the counters before clearing. -/
def State.lineReport (s : State) : List Byte :=
  Machine.lineReport s.turn s.config s.turn.sole s.sched.strays.length s.stats

/-- R168. -/
def answerLineStatus (p : Port) (clear : Byte) (s : State) : Answer :=
  match choiceArg clear with
  | none => .refuse .badArg s
  | some false => .ok s.lineReport s
  | some true => if !s.hasRight p then .refuse .noRight s else .ok s.lineReport (s.withStats {})

/-- TURN.ADD (R119). -/
def execTurnAdd (r : Req) (station : Byte) (s : State) : Host.Outcome State Fault Refusal :=
  .next (s.request r 0x70 [station] (answerTurnAdd r.port station))

/-- TURN.REMOVE (R120). -/
def execTurnRemove (r : Req) (station : Byte) (s : State) : Host.Outcome State Fault Refusal :=
  .next (s.request r 0x71 [station] (answerTurnRemove r.port station))

/-- TURN.LIST (R121). -/
def execTurnList (r : Req) (s : State) : Host.Outcome State Fault Refusal :=
  .next (s.request r 0x72 [] answerTurnList)

/-- LINE.START (R124). -/
def execLineStart (r : Req) (s : State) : Host.Outcome State Fault Refusal :=
  .next (s.request r 0x80 [] (answerLineStart r.port))

/-- LINE.STOP (R139). -/
def execLineStop (r : Req) (s : State) : Host.Outcome State Fault Refusal :=
  .next (s.request r 0x81 [] (answerLineStop r.port))

/-- LINE.STATUS (R168). -/
def execLineStatus (r : Req) (clear : Byte) (s : State) : Host.Outcome State Fault Refusal :=
  .next (s.request r 0x82 [clear] (answerLineStatus r.port clear))

end Sys2Proof.Machine
end

