-- ==== Sys2Proof/Machine/Listening.lean ====
section
/-! DEFINITION. The listen table's requests LISTEN.ADD, LISTEN.DROP and LISTEN.LIST (Section 3.1). -/

namespace Sys2Proof.Machine

/-- The key of a listen entry (R54). -/
def ListenEntry.hasKey (l : ListenEntry) (service stationMatch stationMask : Byte) : Bool :=
  l.service = service && l.stationMatch = stationMatch && l.stationMask = stationMask

/-- R56: a listen entry joins the tail of the table. -/
def answerListenAdd (p : Port) (service stationMatch stationMask windowMax priority retryLimit : Byte)
    (answerTime : Half) (accepts : Byte) (s : State) : Answer :=
  match priorityArg priority with
  | none => .refuse .badArg s
  | some pr =>
    if !(listenKeyArg stationMatch stationMask && linkArgs windowMax retryLimit answerTime) then .refuse .badArg s
    else if Config.listenMax ≤ s.listen.length then .refuse .tableFull s
    else if s.listen.any (·.hasKey service stationMatch stationMask) then .refuse .duplicate s
    else
      .ok [byte s.listen.length]
        { s with
          listen :=
            s.listen ++
              [{ owner := p, service := service, stationMatch := stationMatch, stationMask := stationMask,
                 windowMax := windowMax.toNat, priority := pr, retryLimit := retryLimit.toNat,
                 answerTime := answerTime.toNat, accepts := accepts.toNat }] }

/-- R57: the port's listen entry with the key is removed. -/
def answerListenDrop (p : Port) (service stationMatch stationMask : Byte) (s : State) : Answer :=
  if !listenKeyArg stationMatch stationMask then .refuse .badArg s
  else
    match s.listen.find? (·.hasKey service stationMatch stationMask) with
    | none => .refuse .notOwner s
    | some l =>
      if l.owner = p then
        .ok [byte l.accepts]
          { s with listen := s.listen.eraseP (·.hasKey service stationMatch stationMask) }
      else .refuse .notOwner s

/-- R58: the reports of the port's listen entries, each with its position in the whole table. -/
def listenReports (p : Port) (position : Nat) : List ListenEntry → List (List Byte)
  | [] => []
  | l :: rest =>
    if l.owner = p then l.report position :: listenReports p (position + 1) rest
    else listenReports p (position + 1) rest

/-- R58. -/
def answerListenList (p : Port) (s : State) : Answer :=
  let reports := listenReports p 0 s.listen
  .ok (byte reports.length :: reports.flatten) s

/-- LISTEN.ADD (R56). -/
def execListenAdd (r : Req) (service stationMatch stationMask windowMax priority retryLimit : Byte)
    (answerTime : Half) (accepts : Byte) (s : State) : Host.Outcome State Fault Refusal :=
  .next
    (s.request r 0x30
      ([service, stationMatch, stationMask, windowMax, priority, retryLimit] ++ halfBytes answerTime ++ [accepts])
      (answerListenAdd r.port service stationMatch stationMask windowMax priority retryLimit answerTime accepts))

/-- LISTEN.DROP (R57). -/
def execListenDrop (r : Req) (service stationMatch stationMask : Byte) (s : State) :
    Host.Outcome State Fault Refusal :=
  .next
    (s.request r 0x31 [service, stationMatch, stationMask]
      (answerListenDrop r.port service stationMatch stationMask))

/-- LISTEN.LIST (R58). -/
def execListenList (r : Req) (s : State) : Host.Outcome State Fault Refusal :=
  .next (s.request r 0x32 [] (answerListenList r.port))

end Sys2Proof.Machine
end

