-- ==== Sys2Proof/Machine/Ports.lean ====
section
/-! DEFINITION. The host ports (Chapter 9): PORT.INFO and PORT.RESET, the transactions that are no known request, the
fall of select, and the inputs PRSTn and RESET. -/

namespace Sys2Proof.Machine

/-- R178: the connection entries a port owns that are neither FREE nor orphans. -/
def State.entriesOwned (s : State) (p : Port) : Nat := (s.entries.toList.filter (·.ownedBy p)).length

/-- The listen entries a port owns. -/
def State.listensOwned (s : State) (p : Port) : Nat := (s.listen.filter fun l => l.owner = p).length

/-- R178, R201: the port report, 10 bytes. Row 6 of R186 says that the report of another port shows the higher free count,
for which R178 and R201 give the report no byte. The model's choice is to follow R178 and R201 (DEDUCED, log entry 22):
what a higher free count shows there is the allocation flag in byte 3. -/
def State.portReport (s : State) (p : Port) : List Byte :=
  let a := s.account p
  [byte a.charge, byte a.reserve, byte a.limit,
    flagByte (s.pool.canAllocate p) ||| (flagByte (s.port p).attn <<< 1) ||| (flagByte (s.hasRight p) <<< 2),
    byte a.held.length, byte (s.port p).queue.length] ++
  twoBytes (s.noticesWaiting p) ++ [byte (s.entriesOwned p), byte (s.listensOwned p)]

/-- R178. -/
def answerPortInfo (p : Port) (s : State) : Answer := .ok (s.portReport p) s

/-- Entries that are not FREE. -/
def State.entriesInUse (s : State) : Nat := (s.entries.toList.filter fun c => c.state ≠ .free).length

/-- Entries that carry the orphan mark. -/
def State.orphans (s : State) : Nat := (s.entries.toList.filter (·.orphan)).length

/-- R181: what a port reset did, from the part before and after it: buffers released, entries returned to FREE,
entries made orphans, listen entries removed, whether the right was given up. A reset takes no buffer and no entry
and frees no orphan, so the counts are the differences. -/
def resetResults (p : Port) (before after : State) : List Byte :=
  [byte (after.pool.freeList.length - before.pool.freeList.length),
    byte (before.entriesInUse - after.entriesInUse), byte (after.orphans - before.orphans),
    byte (before.listen.length - after.listen.length), flagByte (before.hasRight p)]

/-- R181. The CLOSE that an entry then owes is work for a scheduler that is offered the line (R144). -/
def answerPortReset (p : Port) (s : State) : Answer :=
  .ok (resetResults p s (s.portReset p)) (s.portReset p).schedule

/-- R184: the values after device reset, with the inputs as they stand and the queue of commands as it is. -/
def State.deviceReset (s : State) : State :=
  { State.reset with
    pending := s.pending
    resetLow := true
    ports := s.ports.map fun ps => PortState.afterReset ps.inReset ps.selectLow }

/-- PORT.INFO (R178). -/
def execPortInfo (r : Req) (s : State) : Host.Outcome State Fault Refusal :=
  .next (s.request r 0x50 [] (answerPortInfo r.port))

/-- PORT.RESET (R181). -/
def execPortResetRequest (r : Req) (s : State) : Host.Outcome State Fault Refusal :=
  .next (s.request r 0x51 [] (answerPortReset r.port))

/-- A complete record whose code is not known is refused UNKNOWN, whatever follows the tag (R173, R176). -/
def execUnknownRequest (r : Req) (code : Byte) (s : State) : Host.Outcome State Fault Refusal :=
  .next (s.requestWithData r code [] (Answer.refuse .unknown))

/-- R172, R173: an incomplete record is answered TRUNCATED with its tag, or 0 if no tag byte was received. -/
def State.truncate (s : State) (p : Port) : State :=
  s.modPort p fun ps => ps.place .truncated (ps.requestBytes[1]?.getD 0) ps.slot.isSome []

/-- A rise of select that ends an incomplete record, `sdi` the bits after the type byte (R172). -/
def execTruncatedRequest (p : Port) (sdi : List Bool) (s : State) : Host.Outcome State Fault Refusal :=
  .next (s.transact p (bitsOf [requestType] ++ sdi) (·.truncate p))

/-- A COLLECT transaction, `sdi` the bits the host sends after the type byte, which are ignored (R175). -/
def execCollect (p : Port) (sdi : List Bool) (s : State) : Host.Outcome State Fault Refusal :=
  .next (s.transact p (bitsOf [collectType] ++ sdi) id)

/-- A transaction of these bits whose first byte names no type, or is not complete (R171). -/
def execIgnoredTransaction (p : Port) (sdi : List Bool) (s : State) : Host.Outcome State Fault Refusal :=
  .next (s.transact p sdi id)

/-- R171: select falls, and the host clocks these bits while it stays low. -/
def PortState.fallAndClock (resetLow : Bool) (sdi : List Bool) (ps : PortState) : PortState :=
  if ps.selectLow then ps
  else if resetLow || ps.inReset then ps.fall resetLow
  else (ps.fall resetLow).clock sdi

/-- A falling edge of Pn_SELn, and the bits that the host has clocked when something else comes before the rise (R171). -/
def execSelectFalls (fall : Clocked) (s : State) : Host.Outcome State Fault Refusal :=
  .next (s.modPort fall.port (·.fallAndClock s.resetLow fall.sdi))

/-- The falling edge of Pn_PRSTn (R179, R180). PRSTn that is low already does not fall, and while RESET is asserted
the part's things already hold their values after reset (R185, log entry 6). -/
def execPrstnAsserted (p : Port) (s : State) : Host.Outcome State Fault Refusal :=
  if (s.port p).inReset then .next s
  else if s.resetLow then .next (s.modPort p fun ps => { ps with inReset := true })
  else .next (((s.portReset p).modPort p fun ps => { ps with inReset := true }).schedule)

/-- The rising edge of Pn_PRSTn clears port in reset and has no other effect (R180). -/
def execPrstnReleased (p : Port) (s : State) : Host.Outcome State Fault Refusal :=
  .next (s.modPort p fun ps => { ps with inReset := false })

/-- The assertion of RESET (R184). RESET that is asserted already is not asserted again. -/
def execResetAsserted (s : State) : Host.Outcome State Fault Refusal :=
  if s.resetLow then .next s else .next s.deviceReset

/-- The release of RESET (R185): the part begins work in the state R184 gave it. -/
def execResetReleased (s : State) : Host.Outcome State Fault Refusal := .next { s with resetLow := false }

end Sys2Proof.Machine
end

