-- ==== Sys2Proof/Machine/Reception.lean ====
section
/-! DEFINITION. Line reception (Chapter 8): the frame start, the frame end with its checks, the report to the turn
controller, listen handling, and what each connection entry makes of a frame routed to it (Chapters 1 to 3). -/

namespace Sys2Proof.Machine

/-! ### The frame start -/

/-- Nothing on the line is reported: RESET is asserted, the part transmits, or the line is ignored until idle
(R157, R184). -/
def State.deaf (s : State) : Bool := s.resetLow || s.sched.tx.isSome || s.line.ignoring

/-- R130: the frame start ends the handover with success, and a probed SILENT target becomes PRESENT. -/
def State.handoverSuccess (s : State) : State :=
  let s' := (s.withTurn s.turn.noHandover).enterWaiting
  match s.turn.kind, s.turn.target with
  | some .probe, some a =>
    if s.turn.isSilent a then (s'.withTurn (s'.turn.mark a true)).lineEvent (.stationPresent a) else s'
  | _, _ => s'

/-- R159: the turn controller takes a frame start. -/
def State.turnFrameStart (s : State) : State :=
  match s.turn.engine with
  | .waiting => s.withTurn { s.turn with lostTimer := some s.config.lostTime }
  | .handing => if s.turn.responseTimer.isSome then s.handoverSuccess else s
  | .offline | .holding | .stopping => s

/-- R157, R159: a frame start is reported. -/
def State.frameStarts (s : State) : State :=
  let s' := s.turnFrameStart
  { s' with line := { s'.line with receiving := true } }

/-! ### The turn controller at a frame end -/

/-- R134: a good frame marks a SILENT source PRESENT, in every line engine state but OFFLINE. -/
def State.hearStation (s : State) (src : Byte) : State :=
  if s.turn.engine ≠ .offline && s.turn.isSilent src then
    (s.withTurn (s.turn.mark src true)).lineEvent (.stationPresent src)
  else s

/-- R136: a TURN to the part renews the turn. -/
def State.renewTurn (s : State) (src : Byte) : State :=
  (s.withTurn { s.turn.countRotation with frameCount := 0, holdTimer := some s.config.holdTime }).lineEvent
    (.duplicateTurn src)

/-- R135: the part yields. -/
def State.yieldTurn (s : State) (src : Byte) : State := s.enterWaiting.lineEvent (.duplicateTurn src)

/-- R135 to R137: the turn controller takes a good frame by the line engine state. A turn that begins or is renewed offers
the line (R144). -/
def State.turnFrameEnd (s : State) (f : Frame) : State :=
  let ours := f.kind = .turn && f.dest = s.config.station
  match s.turn.engine with
  | .holding => if ours then (s.renewTurn f.src).schedule else s.yieldTurn f.src
  | .waiting => if ours then s.beginTurn.schedule else s
  | .offline | .handing | .stopping => s

/-! ### Listen handling (R60 to R65) -/

/-- R65: a REFUSE offered to the stray reply list. -/
def State.refuseOpen (s : State) (f : Frame) (why : StrayReason) : State :=
  s.offerStray { reason := why, dest := f.src, dci := f.sci, sci := 0xFF }

/-- R55, R63: the listen entry matches a station and a service: each of the six bits is masked or equal. -/
def ListenEntry.matches (l : ListenEntry) (station service : Byte) : Bool :=
  l.service = service && ((station ^^^ l.stationMatch) &&& ~~~l.stationMask) &&& 0x3F = 0

/-- R64: the accepts that remain in the matching listen entry, which leaves the table at its last one. -/
def useListen (l : ListenEntry) (table : List ListenEntry) : List ListenEntry :=
  if l.accepts = 1 then table.erase l
  else if l.accepts = 0 then table
  else table.replace l { l with accepts := l.accepts - 1 }

/-- R9, R64: a FREE entry accepts the OPEN for the listen entry. -/
def State.acceptOpen (s : State) (l : ListenEntry) (e : EntryIdx) (f : Frame) (service : Byte) (window : Nat) :
    State :=
  let s' := (s.setEntry e (ConnEntry.accepted l f.src f.sci service window)).makeNotice e (.arrived f.src service)
  let s'' := { s' with listen := useListen l s'.listen }
  if l.accepts = 1 then s''.modPort l.owner (·.offer (.listenDone e service)) else s''

/-- R61 to R64: the decision on an OPEN, against the connection table and then the listen table. -/
def State.decideOpen (s : State) (f : Frame) (service : Byte) (window : Nat) : State :=
  match allEntries.find? fun e => (s.entry e).live && (s.entry e).hasRemote f.src f.sci with
  | some e => s.modEntry e fun c => { c with controlDue := .sendAccept }
  | none =>
    if allEntries.any fun e =>
        ((s.entry e).state = .closing || (s.entry e).state = .ended) && (s.entry e).hasRemote f.src f.sci then
      s.refuseOpen f .stale
    else
      match s.listen.find? (·.matches f.src service) with
      | none => s.refuseOpen f .noService
      | some l =>
        match s.lowestFree with
        | none => s.refuseOpen f .full
        | some e => s.acceptOpen l e f service window

/-- R60: listen handling takes an OPEN. The line engine's state is examined first, so an OPEN with a bad SCI or window that
arrives OFFLINE or STOPPING changes no state and is no format error (DEDUCED from R60 and R164, log entry 23). -/
def State.listenHandling (s : State) (f : Frame) : State :=
  let service := f.payload[0]?.getD 0
  let window := (f.payload[1]?.getD 0).toNat
  if s.turn.engine = .offline || s.turn.engine = .stopping then s
  else if 31 < f.sci.toNat || !within 1 4 window then s.withStats s.stats.formatError
  else s.decideOpen f service window

/-! ### Stray frames (R77, R78) -/

/-- R77: the frame is stray at the entry its DCI names. -/
def ConnEntry.isStray (c : ConnEntry) (f : Frame) : Bool :=
  match c.state with
  | .free | .ended => true
  | .opening =>
    !((f.kind = .accept || f.kind = .refuse || f.kind = .closed) && c.remoteStation = some f.src)
  | .opened | .draining | .closing => !c.hasRemote f.src f.sci

/-- R78, R165: a stray frame is counted, and answered with CLOSED NO_CONNECTION unless it is a CLOSED or a REFUSE. -/
def State.takeStray (s : State) (f : Frame) : State :=
  let s' := s.withStats s.stats.stray
  if f.kind = .closed || f.kind = .refuse then s'
  else s'.offerStray { reason := .noConnection, dest := f.src, dci := f.sci, sci := f.dci }

/-! ### Transfer frames at an OPEN or DRAINING entry (R33 to R43) -/

/-- R34, R35: one acknowledged message: its buffer is released, and a SENT event is made if its notify flag is
set. -/
def State.acknowledgeOne (s : State) (e : EntryIdx) (m : SentMsg) : State :=
  let s' :=
    match (s.entry e).owner with
    | some p => s.release p m.msg.handle
    | none => s
  if m.msg.notify then s'.entryEvent e (.sent e m.msg.tag) else s'

/-- R34: how many messages an EN acknowledges, if it is no more than there are. -/
def ConnEntry.acknowledged (c : ConnEntry) (en : Seq) : Option Nat :=
  if (en - c.va).toNat ≤ c.unacked.length then some (en - c.va).toNat else none

/-- R34: the entry's fields after the acknowledgement of `n` messages. -/
def ConnEntry.takeAck (c : ConnEntry) (en : Seq) (n : Nat) : ConnEntry :=
  { c with unacked := c.unacked.drop n, va := en, retryCount := if n = 0 then c.retryCount else 0 }

/-- R34: `n` messages leave the head of the list and are released in order. -/
def State.acknowledge (s : State) (e : EntryIdx) (en : Seq) (n : Nat) : State :=
  ((s.entry e).unacked.take n).foldl (fun s m => s.acknowledgeOne e m) (s.modEntry e (·.takeAck en n))

/-- R36: what the A mark does. -/
def ConnEntry.takeAnswer (c : ConnEntry) (a : Bool) : ConnEntry :=
  if a then { c.markAll with retryCount := 0, flags := { c.flags with queryOutstanding := false } } else c

/-- R38: a WAIT sets and a READY clears peer waiting, with an event at a change. -/
def State.takeStatus (s : State) (e : EntryIdx) (waiting : Bool) : State :=
  let c := s.entry e
  let s' := s.setEntry e { c with flags := { c.flags with peerWaiting := waiting } }
  if c.flags.peerWaiting = waiting then s'
  else s'.entryEvent e (if waiting then .peerWait e else .peerReady e)

/-- R41: DATA that cannot be accepted owes a WAIT. -/
def ConnEntry.refuseData (c : ConnEntry) : ConnEntry :=
  { c.oweWait with flags := { c.oweWait.flags with repeatSent := false } }

/-- R41: a refusal by the pool sets starved. -/
def ConnEntry.starve (c : ConnEntry) : ConnEntry :=
  { c.refuseData with flags := { c.refuseData.flags with starved := true } }

/-- R40: the entry's fields at an acceptance. -/
def ConnEntry.acceptData (c : ConnEntry) : ConnEntry :=
  { c with vr := c.vr + 1, flags := { c.flags with ackDue := true, repeatSent := false } }

/-- R42: DATA out of order makes a REPEAT due, once. -/
def ConnEntry.outOfOrder (c : ConnEntry) : ConnEntry :=
  if c.flags.repeatSent then c else { c with flags := { c.flags with repeatDue := true, repeatSent := true } }

/-- R40, R86: the payload is stored in the buffer the pool gave, and the RECEIVED notice is made. -/
def State.storeData (s : State) (e : EntryIdx) (payload : List Byte) (h : Handle) (pool : Pool) : State :=
  (((s.withPool (pool.store h 0 payload)).modEntry e ConnEntry.acceptData).makeNotice e
    (.received h payload.length)).modEntry e ConnEntry.announceBusy

/-- R40 to R42: the entry takes a DATA frame. -/
def State.takeData (s : State) (e : EntryIdx) (sn : Seq) (payload : List Byte) : State :=
  let c := s.entry e
  if sn ≠ c.vr then s.modEntry e ConnEntry.outOfOrder
  else if c.busy then s.modEntry e ConnEntry.refuseData
  else
    match c.owner.bind s.pool.allocate with
    | some (h, pool) => s.storeData e payload h pool
    | none => (s.modEntry e ConnEntry.starve).entryEvent e (.starved e)

/-- R33, step 3: what the frame's kind does. -/
def State.takeKind (s : State) (e : EntryIdx) (f : Frame) : State :=
  match f.kind with
  | .data => s.takeData e (seqSN f.seq) f.payload
  | .ready => s.takeStatus e false
  | .wait => s.takeStatus e true
  | .rept => s.modEntry e ConnEntry.markAll
  | _ => s

/-- R39: the Q mark sets answer owed. -/
def ConnEntry.takeQuery (c : ConnEntry) (q : Bool) : ConnEntry :=
  if q then { c with flags := { c.flags with answerOwed := true } } else c

/-- R43: a WAIT starts a stopped timer, and an acknowledgement of a message or an A mark restarts a running one.
Nothing does while query due is set. -/
def ConnEntry.frameTimer (c : ConnEntry) (isWait progress : Bool) : ConnEntry :=
  if c.flags.queryDue then c
  else if (isWait && c.answerTimer.isNone) || (progress && c.answerTimer.isSome) then c.startTimer
  else c

/-- R33: the six steps of a transfer frame at an OPEN or DRAINING entry. -/
def State.takeTransfer (s : State) (e : EntryIdx) (f : Frame) : State :=
  match (s.entry e).acknowledged (seqEN f.seq) with
  | none => s.endEntry e .badAck
  | some n =>
    let s1 := s.acknowledge e (seqEN f.seq) n
    let s2 := s1.modEntry e (·.takeAnswer (seqA f.seq))
    let s3 := s2.takeKind e f
    s3.modEntry e fun c =>
      ((((c.takeQuery (seqQ f.seq)).frameTimer (f.kind = .wait) (0 < n || seqA f.seq)).settleTimer).drained)

/-! ### Control frames at an entry (R10, R11, R14, R69 to R75) -/

/-- R74: the CLOSED NORMAL reply to a CLOSE that an entry takes. -/
def State.replyClosed (s : State) (e : EntryIdx) (f : Frame) : State :=
  s.offerStray { reason := .normal, dest := f.src, dci := f.sci, sci := byte e.val }

/-- R69: an OPENING entry ends on an ACCEPT whose window or remote it cannot take, and the peer is told. -/
def State.badAccept (s : State) (e : EntryIdx) (f : Frame) : State :=
  ((s.modEntry e fun c => { c with remoteIndex := some f.sci }).endEntry e .protocol).offerStray
    { reason := .noConnection, dest := f.src, dci := f.sci, sci := byte e.val }

/-- R5, R69: another entry that is OPEN, DRAINING, CLOSING or ENDED has the remote. -/
def State.remoteInUse (s : State) (e : EntryIdx) (station index : Byte) : Bool :=
  allEntries.any fun k =>
    k ≠ e && (s.entry k).state ≠ .free && (s.entry k).state ≠ .opening && (s.entry k).hasRemote station index

/-- R10, R69: an OPENING entry that becomes OPEN with the agreed window. An OPEN still due is due no more (log entry
5). -/
def ConnEntry.toOpen (c : ConnEntry) (index : Byte) (window : Nat) : ConnEntry :=
  { c.stopTimer with
    state := .opened, remoteIndex := some index, window := some window, retryCount := 0, controlDue := .none }

/-- R69: an OPENING entry takes an ACCEPT from its remote station. -/
def State.takeAccept (s : State) (e : EntryIdx) (f : Frame) : State :=
  let window := (f.payload[0]?.getD 0).toNat
  if 31 < f.sci.toNat then s.endEntry e .protocol
  else if window = 0 || (s.entry e).windowSize < window then s.badAccept e f
  else if s.remoteInUse e f.src f.sci then s.badAccept e f
  else (s.modEntry e (·.toOpen f.sci window)).entryEvent e (.opened e)

/-- R70: the end reason of a REFUSE's reason byte. -/
def refusal (reason : Byte) : EndReason :=
  if reason = 1 then .refusedNoService
  else if reason = 2 then .refusedFull
  else if reason = 3 then .refusedStale
  else .protocol

/-- R10: a frame an OPENING entry takes. -/
def State.takeOpening (s : State) (e : EntryIdx) (f : Frame) : State :=
  match f.kind with
  | .accept => s.takeAccept e f
  | .refuse => s.endEntry e (refusal (f.payload[0]?.getD 0))
  | .closed => s.endEntry e .peerReset
  | _ => s

/-- R11, R12: a frame an OPEN or DRAINING entry takes. -/
def State.takeLive (s : State) (e : EntryIdx) (f : Frame) : State :=
  match f.kind with
  | .data | .ready | .wait | .rept => s.takeTransfer e f
  | .close => (s.endEntry e .peerClosed).replyClosed e f
  | .closed => s.endEntry e .peerReset
  | .refuse => s.endEntry e .protocol
  | .accept | .opening | .turn => s

/-- R14: a frame a CLOSING entry takes. Every CLOSE is answered (R74), and an exchange that has ended does not end
again. -/
def State.takeClosing (s : State) (e : EntryIdx) (f : Frame) : State :=
  let finished := (s.entry e).closeFinished
  match f.kind with
  | .closed => if finished then s else s.endCloseExchange e false
  | .close => if finished then s.replyClosed e f else (s.replyClosed e f).endCloseExchange e false
  | _ => s

/-- R77: a frame that is not stray is taken by its entry's state. -/
def State.takeAtEntry (s : State) (e : EntryIdx) (f : Frame) : State :=
  match (s.entry e).state with
  | .opening => s.takeOpening e f
  | .opened | .draining => s.takeLive e f
  | .closing => s.takeClosing e f
  | .free | .ended => s

/-! ### Dispatch (R163 to R166) -/

/-- R164: a good frame for the part is routed by its kind and, but for OPEN and TURN, by its DCI. -/
def State.routeFrame (s : State) (f : Frame) : State :=
  match f.kind with
  | .turn => s
  | .opening => s.listenHandling f
  | _ =>
    match entryArg f.dci with
    | none => s.takeStray f
    | some e => if (s.entry e).isStray f then s.takeStray f else s.takeAtEntry e f

/-- R163: a good frame is counted if it is for the part, reported to the turn controller, and routed if it is for the
part. -/
def State.dispatch (s : State) (f : Frame) : State :=
  let ours := f.dest = s.config.station
  let s1 := if ours then s.withStats s.stats.frameForUs else s
  let s2 := (s1.hearStation f.src).turnFrameEnd f
  if ours then s2.routeFrame f else s2

/-- R160: a frame end by the verdict of the checks. -/
def State.takeVerdict (s : State) (v : Verdict) : State :=
  match v with
  | .checkError => s.withStats s.stats.checkError
  | .formatError => s.withStats s.stats.formatError
  | .good f => s.dispatch f

/-- The reception of one frame up to its end. A frame end that no FRAME_START came before includes its frame start
(R157, log entry 2). Nothing is reported to a part that receives nothing. `verdict` is what the checks make of the
frame, given the part's station address. -/
def State.receiveFrame (s : State) (verdict : Byte → Verdict) : State :=
  if s.deaf then s
  else
    let s1 := if s.line.receiving then s else s.frameStarts
    let s2 := { s1 with line := { s1.line with receiving := false } }
    s2.takeVerdict (verdict s2.config.station)

/-- A frame that reached the part undamaged, of a kind and addressed to the part's own station: checks 1 to 5 hold of
it, and check 6 is made. -/
def frameFor (k : FrameKind) (h : RxHead) (payload : List Byte) (own : Byte) : Verdict :=
  Frame.verdict own
    { dest := own, src := h.src, kind := k, dci := h.dci, sci := h.sci, seq := h.seq, payload := payload }

/-- R157: a frame cut off at its 256th byte leaves the interface ignoring the line until it is idle. -/
def leavesIgnoring (st : FrameStatus) (bytes : List Byte) : Bool :=
  st = .cutOff || decide (Config.frameMax < bytes.length)

/-- The line ignored until idle, after a reception that was not itself ignored. -/
def State.ignoreIf (s : State) (b : Bool) : State := if b then { s with line := { s.line with ignoring := true } } else s

/-! ### The commands -/

/-- A frame start reported by the line interface (R157, R159). A part that receives nothing is told nothing, and no
second start comes before the end of the first frame. -/
def execFrameStart (s : State) : Host.Outcome State Fault Refusal :=
  if s.deaf || s.line.receiving then .next s else .next s.frameStarts

/-- A frame end reported by the line interface, with its status and bytes (R157, R160). -/
def execFrameEnd (status : FrameStatus) (bytes : List Byte) (s : State) : Host.Outcome State Fault Refusal :=
  let long := leavesIgnoring status bytes
  .next
    ((s.receiveFrame fun own => if long then .checkError else checkFrame own status bytes).ignoreIf
      (long && !s.deaf))

/-- A good DATA frame for the part (R40 to R42). -/
def execDataReceived (h : RxHead) (payload : List Byte) (s : State) : Host.Outcome State Fault Refusal :=
  .next (s.receiveFrame (frameFor .data h payload))

/-- A good READY frame for the part (R38). -/
def execReadyReceived (h : RxHead) (s : State) : Host.Outcome State Fault Refusal :=
  .next (s.receiveFrame (frameFor .ready h []))

/-- A good WAIT frame for the part (R38). -/
def execWaitReceived (h : RxHead) (s : State) : Host.Outcome State Fault Refusal :=
  .next (s.receiveFrame (frameFor .wait h []))

/-- A good REPEAT frame for the part (R37). -/
def execRepeatReceived (h : RxHead) (s : State) : Host.Outcome State Fault Refusal :=
  .next (s.receiveFrame (frameFor .rept h []))

/-- A good OPEN frame for the part (R60 to R65). -/
def execOpenReceived (h : RxHead) (service window : Byte) (s : State) : Host.Outcome State Fault Refusal :=
  .next (s.receiveFrame (frameFor .opening h [service, window]))

/-- A good ACCEPT frame for the part (R69). -/
def execAcceptReceived (h : RxHead) (window : Byte) (s : State) : Host.Outcome State Fault Refusal :=
  .next (s.receiveFrame (frameFor .accept h [window]))

/-- A good REFUSE frame for the part (R70). -/
def execRefuseReceived (h : RxHead) (reason : Byte) (s : State) : Host.Outcome State Fault Refusal :=
  .next (s.receiveFrame (frameFor .refuse h [reason]))

/-- A good CLOSE frame for the part (R74). -/
def execCloseReceived (h : RxHead) (s : State) : Host.Outcome State Fault Refusal :=
  .next (s.receiveFrame (frameFor .close h []))

/-- A good CLOSED frame for the part (R75). -/
def execClosedReceived (h : RxHead) (reason : Byte) (s : State) : Host.Outcome State Fault Refusal :=
  .next (s.receiveFrame (frameFor .closed h [reason]))

/-- A good TURN frame for the part (R136, R137). -/
def execTurnReceived (h : RxHead) (s : State) : Host.Outcome State Fault Refusal :=
  .next (s.receiveFrame (frameFor .turn h []))

/-- The line has returned to idle: frame starts are reported again (R157). -/
def execLineReturnsToIdle (s : State) : Host.Outcome State Fault Refusal :=
  .next { s with line := { s.line with ignoring := false } }

end Sys2Proof.Machine
end

