-- ==== Sys2Proof/Machine/Transmission.lean ====
section
/-! DEFINITION. Transmission (Chapter 7): the end of a transmission (R153) and the transmit fault (R154), with their effects
at the origin and on the turn, and the scheduler's choice as a command of its own (R144). -/

namespace Sys2Proof.Machine

/-! ### Effects at the origin -/

/-- A READY or a WAIT. -/
def FrameKind.isStatus (k : FrameKind) : Bool := k = .ready || k = .wait

/-- R43: the answer timer starts at the end of a DATA frame or query, unless a query is due. -/
def ConnEntry.startAfterSend (c : ConnEntry) : ConnEntry := if c.flags.queryDue then c else c.startTimer

/-- R31, R71: the end of a frame's transmission at an OPEN or DRAINING entry. A status frame with Q is known by the
query due it discharged. -/
def ConnEntry.sentLive (c : ConnEntry) (t : TxRecord) : ConnEntry :=
  if t.frame.kind = .data then c.startAfterSend
  else if t.frame.kind.isStatus && t.discharged.queryDue then
    ({ c with flags := { c.flags with queryOutstanding := true } } : ConnEntry).startAfterSend
  else if t.frame.kind = .accept then { c with controlDue := .none }
  else c

/-- R10, R14, R71: the end of the OPEN of an OPENING entry, or of the CLOSE of a CLOSING one. -/
def ConnEntry.sentControl (c : ConnEntry) : ConnEntry := ({ c with controlDue := .none } : ConnEntry).startTimer

/-- R153, step 1, for an entry's frame that is not detached: the effects in the entry's state at that moment. -/
def State.frameSent (s : State) (e : EntryIdx) (t : TxRecord) : State :=
  match (s.entry e).state with
  | .opened | .draining => s.modEntry e fun c => (c.sentLive t).settleTimer
  | .opening => if t.frame.kind = .opening then s.modEntry e ConnEntry.sentControl else s
  | .closing =>
    if t.frame.kind = .close then s.modEntry e ConnEntry.sentControl
    else
      match t.sn with
      | some sn => s.finishDeferred e sn
      | none => s
  | .ended =>
    match t.sn with
    | some sn => s.finishDeferred e sn
    | none => s
  | .free => s

/-- R32: what the frame discharged is set again. -/
def Flags.restore (f : Flags) (d : Discharged) : Flags :=
  { f with
    ackDue := f.ackDue || d.ackDue, answerOwed := f.answerOwed || d.answerOwed,
    statusDue := f.statusDue || d.statusDue, queryDue := f.queryDue || d.queryDue,
    repeatDue := f.repeatDue || d.repeatDue }

/-- R32: the message of a DATA frame carries the needs-transmit mark again. -/
def ConnEntry.remark (c : ConnEntry) (sn : Option Seq) : ConnEntry :=
  { c with unacked := c.unacked.map fun m => if some m.sn = sn then { m with needsTx := true } else m }

/-- R154, step 1, for an entry's frame that is not detached: what was discharged is restored, a control frame stays due
(R71), and a deferred message leaves the list. -/
def State.frameFailed (s : State) (e : EntryIdx) (t : TxRecord) : State :=
  match (s.entry e).state with
  | .opened | .draining =>
    s.modEntry e fun c => ({ c with flags := c.flags.restore t.discharged } : ConnEntry).remark t.sn
  | .closing | .ended =>
    match t.sn with
    | some sn => s.finishDeferred e sn
    | none => s
  | .opening | .free => s

/-! ### The end of a transmission -/

/-- R153, step 1. -/
def State.originSent (s : State) (t : TxRecord) : State :=
  match t.origin with
  | .entry e => if t.detached then s else s.frameSent e t
  | .stray => s.withSched { s.sched with strays := s.sched.strays.drop 1 }
  | .turn _ => s

/-- The frame-in-transmission record becomes absent. -/
def State.clearTx (s : State) : State := s.withSched { s.sched with tx := none }

/-- R127, R153 step 4, R133: after a scheduler frame in HOLDING, the budget and a hold timer that expired during the
transmission. -/
def State.turnAfterFrame (s : State) : State :=
  let spent := s.config.params.turnBudget ≤ s.turn.frameCount
  if s.turn.sole then
    let s' := if spent then s.withTurn { s.turn with frameCount := 0 } else s
    if s'.turn.holdTimer.isNone then s'.renewSoleTurn else s'
  else if spent || s.turn.holdTimer.isNone then s.endTurn
  else s

/-- R153, steps 3 and 4: the frame is counted while HOLDING, and the turn controller decides on the turn. -/
def State.turnSent (s : State) (o : Origin) : State :=
  match s.turn.engine, o with
  | .holding, .turn _ => s
  | .holding, _ => (s.withTurn { s.turn with frameCount := s.turn.frameCount + 1 }).turnAfterFrame
  | .handing, .turn _ => s.withTurn { s.turn with responseTimer := some s.config.responseTime }
  | .handing, _ => s
  | .stopping, .turn _ => s.goOffline
  | .stopping, _ => s.stopTurn
  | .offline, _ => s
  | .waiting, _ => s

/-- R153: the end of a transmission, its five steps in order. The choice (step 5) offers nothing unless the turn goes on. -/
def State.transmissionEnds (s : State) : State :=
  match s.sched.tx with
  | none => s
  | some t => (((s.originSent t).clearTx).turnSent t.origin).schedule

/-! ### The transmit fault -/

/-- R154, step 1: the record of a stray reply stays at the head of its list. -/
def State.originFailed (s : State) (t : TxRecord) : State :=
  match t.origin with
  | .entry e => if t.detached then s else s.frameFailed e t
  | .stray => s
  | .turn _ => s

/-- R138: the turn controller takes a transmit fault. -/
def State.turnFault (s : State) : State :=
  match s.turn.engine with
  | .holding => s.enterWaiting.lineEvent .txFault
  | .handing => (s.withTurn s.turn.noHandover).enterWaiting.lineEvent .txFault
  | .stopping => (s.lineEvent .txFault).goOffline
  | .offline | .waiting => s

/-- R154: a transmit fault, its steps in order. -/
def State.transmissionFails (s : State) : State :=
  match s.sched.tx with
  | none => s
  | some t => ((s.originFailed t).clearTx).turnFault

/-! ### The commands -/

/-- The end of the last check byte of the frame in transmission (R153, R158). With no frame on the line none ends. -/
def execEndOfTransmission (s : State) : Host.Outcome State Fault Refusal := .next s.transmissionEnds

/-- A transmit fault of the frame in transmission (R154, R158). -/
def execTransmitFault (s : State) : Host.Outcome State Fault Refusal := .next s.transmissionFails

/-- The transmit scheduler's choice (R144). The events that offer the line make it themselves, so that this command finds
nothing left to choose in a part that has run from reset (log entry 12). -/
def execSchedulerChoice (s : State) : Host.Outcome State Fault Refusal := .next s.schedule

end Sys2Proof.Machine
end

