-- ==== Sys2Proof/Machine/Timers.lean ====
section
/-! DEFINITION. The expiries of the answer timers (R10, R14, R45) and of the line timers (R125, R127, R131 to R133),
and the tick of the time base. -/

namespace Sys2Proof.Machine

/-- The retry count equals the retry limit. -/
def ConnEntry.exhausted (c : ConnEntry) : Bool := c.retryLimit = some c.retryCount

/-- An expiry below the retry limit is counted, and the timer stays stopped. -/
def ConnEntry.retry (c : ConnEntry) : ConnEntry := { c.stopTimer with retryCount := c.retryCount + 1 }

/-- The expiry of an entry's answer timer, by the entry's state. A stopped timer does not expire (R44). What the entry then
owes is work for the scheduler (R144). -/
def State.answerExpiry (s : State) (e : EntryIdx) : State :=
  let c := s.entry e
  if c.answerTimer.isNone then s
  else
    match c.state with
    | .opening =>
      if c.exhausted then s.endEntry e .noAnswer else (s.setEntry e { c.retry with controlDue := .sendOpen }).schedule
    | .opened | .draining =>
      if c.exhausted then s.endEntry e .noAnswer
      else (s.setEntry e { c.retry with flags := { c.flags with queryDue := true } }).schedule
    | .closing =>
      if c.exhausted then s.endCloseExchange e true
      else (s.setEntry e { c.retry with controlDue := .sendClose }).schedule
    | .ended | .free => s

/-- R125: the lost timer expires and the part claims the turn, which offers the line (R144). -/
def State.lostExpiry (s : State) : State :=
  if s.turn.engine = .waiting && s.turn.lostTimer.isSome then (s.beginTurn.lineEvent .claimed).schedule else s

/-- R127, R133: the hold timer expires. During a transmission it only stops, and the end of the transmission decides
on the turn. A turn that is renewed offers the line (R144). -/
def State.holdExpiry (s : State) : State :=
  if s.turn.engine = .holding && s.turn.holdTimer.isSome then
    let s' := s.withTurn { s.turn with holdTimer := none }
    if s'.sched.tx.isSome then s' else if s'.turn.sole then s'.renewSoleTurn.schedule else s'.endTurn
  else s

/-- R131, R132: after a failed handover, a normal handover to the successor, or the turn of sole mode, which offers the line
(R144). -/
def State.afterFailure (s : State) (announce : Bool) : State :=
  match s.turn.successor s.config.station with
  | some a => s.beginHandover .normal a
  | none => (if announce then s.beginSoleTurn.lineEvent .sole else s.beginSoleTurn).schedule

/-- R131: a normal handover has failed: the target's record, if it is still there, becomes SILENT, and the failure is
counted. -/
def State.handoverFails (s : State) (target : Byte) : State :=
  let s' :=
    if s.turn.knows target then
      (s.withTurn (s.turn.mark target false)).lineEvent (.stationSilent target)
    else s
  (s'.withStats s'.stats.handoverFailure).afterFailure true

/-- R131, R132: the turn response timer expires. -/
def State.responseExpiry (s : State) : State :=
  if s.turn.engine = .handing && s.turn.responseTimer.isSome then
    let s' := s.withTurn { s.turn with responseTimer := none }
    match s.turn.kind, s.turn.target with
    | some .probe, _ => s'.afterFailure false
    | some .normal, some a =>
      if s.turn.attempt = some 1 then (s'.withTurn { s'.turn with attempt := some 2 }).sendTurn a
      else s'.handoverFails a
    | _, _ => s'
  else s

/-- An entry's answer timer expires (R45). -/
def execAnswerTimerExpiry (e : EntryIdx) (s : State) : Host.Outcome State Fault Refusal := .next (s.answerExpiry e)

/-- The lost timer expires (R125). -/
def execLostTimerExpiry (s : State) : Host.Outcome State Fault Refusal := .next s.lostExpiry

/-- The hold timer expires (R127, R133). -/
def execHoldTimerExpiry (s : State) : Host.Outcome State Fault Refusal := .next s.holdExpiry

/-- The turn response timer expires (R131, R132). -/
def execTurnResponseTimerExpiry (s : State) : Host.Outcome State Fault Refusal := .next s.responseExpiry

/-! ### The time base (log entry 3) -/

/-- A line timer after a tick, if it does not run out at it. -/
def tickDown (t : Option Nat) : Option Nat :=
  t.map fun n => if Config.tickMicros < n then n - Config.tickMicros else n

/-- A line timer runs out at this tick. -/
def runsOut (t : Option Nat) : Bool :=
  match t with
  | some n => decide (n ≤ Config.tickMicros)
  | none => false

/-- The answer timer runs out at this tick: the last 10 µs of its last millisecond pass. -/
def ConnEntry.runsOut (c : ConnEntry) : Bool :=
  match c.answerTimer with
  | some n => decide (n ≤ 1) && decide (Config.ticksPerMs ≤ c.answerPhase + 1)
  | none => false

/-- An answer timer after a tick, if it does not run out at it: every hundredth tick takes a millisecond off. -/
def ConnEntry.tick (c : ConnEntry) : ConnEntry :=
  match c.answerTimer with
  | some n =>
    if c.runsOut then c
    else if c.answerPhase + 1 < Config.ticksPerMs then { c with answerPhase := c.answerPhase + 1 }
    else { c with answerTimer := some (n - 1), answerPhase := 0 }
  | none => c

/-- Every running timer comes down by one tick. -/
def State.countDown (s : State) : State :=
  { s with
    turn :=
      { s.turn with
        lostTimer := tickDown s.turn.lostTimer, holdTimer := tickDown s.turn.holdTimer,
        responseTimer := tickDown s.turn.responseTimer }
    entries := s.entries.map ConnEntry.tick }

/-- One tick of 10 µs: every running timer comes down, and those that run out expire, the line timers first and then
the answer timers in index order (DESIGN CHOICE, log entry 3: either order may occur). -/
def State.tick (s : State) : State :=
  let s1 := s.countDown
  let s2 := if runsOut s.turn.lostTimer then s1.lostExpiry else s1
  let s3 := if runsOut s.turn.holdTimer then s2.holdExpiry else s2
  let s4 := if runsOut s.turn.responseTimer then s3.responseExpiry else s3
  allEntries.foldl (fun k e => if (s.entry e).runsOut then k.answerExpiry e else k) s4

/-- What the part does by itself while no command waits: one tick of the time base. Nothing while RESET is asserted
(R184). -/
def State.idle (s : State) : State := if s.resetLow then s else s.tick

end Sys2Proof.Machine
end

