-- ==== Sys2Proof/Machine/Dispatch.lean ====
section
/-! DEFINITION. Every command and its meaning, one arm to a row of spec/opcode_table.json. -/

namespace Sys2Proof.Machine

def exec (i : Instr) (s : State) : Host.Outcome State Fault Refusal :=
  match i with
  | .bufGet r => Sys2Proof.Machine.execBufGet r s
  | .bufPut r handle => Sys2Proof.Machine.execBufPut r handle s
  | .bufWrite r handle offset count => Sys2Proof.Machine.execBufWrite r handle offset count s
  | .bufRead r handle offset count => Sys2Proof.Machine.execBufRead r handle offset count s
  | .connOpen r service station window priority retryLimit answerTime => Sys2Proof.Machine.execConnOpen r service station window priority retryLimit answerTime s
  | .connSend r entry handle length hostTag notify => Sys2Proof.Machine.execConnSend r entry handle length hostTag notify s
  | .connHold r entry => Sys2Proof.Machine.execConnHold r entry s
  | .connResume r entry => Sys2Proof.Machine.execConnResume r entry s
  | .connClose r entry form => Sys2Proof.Machine.execConnClose r entry form s
  | .connRelease r entry => Sys2Proof.Machine.execConnRelease r entry s
  | .connQuery r entry => Sys2Proof.Machine.execConnQuery r entry s
  | .listenAdd r service stationMatch stationMask windowMax priority retryLimit answerTime accepts => Sys2Proof.Machine.execListenAdd r service stationMatch stationMask windowMax priority retryLimit answerTime accepts s
  | .listenDrop r service stationMatch stationMask => Sys2Proof.Machine.execListenDrop r service stationMatch stationMask s
  | .listenList r => Sys2Proof.Machine.execListenList r s
  | .evtFetch r n => Sys2Proof.Machine.execEvtFetch r n s
  | .evtFilter r kind filter => Sys2Proof.Machine.execEvtFilter r kind filter s
  | .portInfo r => Sys2Proof.Machine.execPortInfo r s
  | .portResetRequest r => Sys2Proof.Machine.execPortResetRequest r s
  | .cfgTake r => Sys2Proof.Machine.execCfgTake r s
  | .cfgPass r heir => Sys2Proof.Machine.execCfgPass r heir s
  | .cfgStation r station => Sys2Proof.Machine.execCfgStation r station s
  | .cfgLine r bitRate turnResponse lostBase claimSlot turnBudget holdLimit probeInterval => Sys2Proof.Machine.execCfgLine r bitRate turnResponse lostBase claimSlot turnBudget holdLimit probeInterval s
  | .cfgRead r => Sys2Proof.Machine.execCfgRead r s
  | .cfgQuota r port reserve limit => Sys2Proof.Machine.execCfgQuota r port reserve limit s
  | .turnAdd r station => Sys2Proof.Machine.execTurnAdd r station s
  | .turnRemove r station => Sys2Proof.Machine.execTurnRemove r station s
  | .turnList r => Sys2Proof.Machine.execTurnList r s
  | .lineStart r => Sys2Proof.Machine.execLineStart r s
  | .lineStop r => Sys2Proof.Machine.execLineStop r s
  | .lineStatus r clear => Sys2Proof.Machine.execLineStatus r clear s
  | .unknownRequest r code => Sys2Proof.Machine.execUnknownRequest r code s
  | .truncatedRequest port sdi => Sys2Proof.Machine.execTruncatedRequest port sdi s
  | .collect port sdi => Sys2Proof.Machine.execCollect port sdi s
  | .ignoredTransaction port sdi => Sys2Proof.Machine.execIgnoredTransaction port sdi s
  | .prstnAsserted port => Sys2Proof.Machine.execPrstnAsserted port s
  | .prstnReleased port => Sys2Proof.Machine.execPrstnReleased port s
  | .resetAsserted => Sys2Proof.Machine.execResetAsserted s
  | .resetReleased => Sys2Proof.Machine.execResetReleased s
  | .frameStart => Sys2Proof.Machine.execFrameStart s
  | .frameEnd status bytes => Sys2Proof.Machine.execFrameEnd status bytes s
  | .dataReceived h payload => Sys2Proof.Machine.execDataReceived h payload s
  | .readyReceived h => Sys2Proof.Machine.execReadyReceived h s
  | .waitReceived h => Sys2Proof.Machine.execWaitReceived h s
  | .repeatReceived h => Sys2Proof.Machine.execRepeatReceived h s
  | .openReceived h service window => Sys2Proof.Machine.execOpenReceived h service window s
  | .acceptReceived h window => Sys2Proof.Machine.execAcceptReceived h window s
  | .refuseReceived h reason => Sys2Proof.Machine.execRefuseReceived h reason s
  | .closeReceived h => Sys2Proof.Machine.execCloseReceived h s
  | .closedReceived h reason => Sys2Proof.Machine.execClosedReceived h reason s
  | .turnReceived h => Sys2Proof.Machine.execTurnReceived h s
  | .endOfTransmission => Sys2Proof.Machine.execEndOfTransmission s
  | .transmitFault => Sys2Proof.Machine.execTransmitFault s
  | .answerTimerExpiry entry => Sys2Proof.Machine.execAnswerTimerExpiry entry s
  | .lostTimerExpiry => Sys2Proof.Machine.execLostTimerExpiry s
  | .holdTimerExpiry => Sys2Proof.Machine.execHoldTimerExpiry s
  | .turnResponseTimerExpiry => Sys2Proof.Machine.execTurnResponseTimerExpiry s
  | .schedulerChoice => Sys2Proof.Machine.execSchedulerChoice s
  | .noticeAdmission port => Sys2Proof.Machine.execNoticeAdmission port s
  | .lineReturnsToIdle => Sys2Proof.Machine.execLineReturnsToIdle s
  | .selectFalls fall => Sys2Proof.Machine.execSelectFalls fall s

end Sys2Proof.Machine
end

