-- ==== Sys2Proof/Safety.lean ====
section
/-! DEFINITION. What the manual promises of every state the part reaches, in the terms that statements use, and when a
port or the line interface takes what reaches it. -/

namespace Sys2Proof.Machine

/-! ### Promises about one state -/

/-- The buffer memory is in its canonical form, and lists no address beyond the last buffer (R80). -/
def Pool.memoryOk (pool : Pool) : Prop :=
  pool.mem.wf = true ∧ ∀ cell ∈ pool.mem, cell.1 < Config.buffers * Config.bufferBytes

/-- R85, the reserve law: the free count covers the unused reserves of the four ports. -/
def Pool.reserveLaw (pool : Pool) : Prop := pool.unusedTotal ≤ pool.freeList.length

/-- R84: each limit is at least its port's reserve and at most 192, and the four reserves sum to at most 192. -/
def Pool.quotasOk (pool : Pool) : Prop :=
  (∀ p : Port, (pool.account p).reserve ≤ (pool.account p).limit ∧ (pool.account p).limit ≤ 192) ∧
    (pool.accounts.toList.map (·.reserve)).sum ≤ 192

/-- A record that is an OVERFLOW record. -/
def EventRecord.isOverflow (r : EventRecord) : Bool :=
  match r.body with
  | .overflow _ => true
  | _ => false

/-- R97: a queue holds at most 48 records, and a queue of 48 ends in an OVERFLOW record. -/
def queueOk (q : List EventRecord) : Prop :=
  q.length ≤ 48 ∧ (q.length = 48 → ∃ r, q.getLast? = some r ∧ r.isOverflow = true)

/-- R101: no held kind has the filter DROP. -/
def heldFiltersOk (t : Filters) : Prop := ∀ k : FilterKind, k.isHeld = true → look t k.slot ≠ .drop

/-- R101, R104: every OVERFLOW record carries the alerts mark, and a dropped count of 1 to 255. -/
def overflowOk (q : List EventRecord) : Prop :=
  ∀ r ∈ q, ∀ n, r.body = .overflow n → r.alerts = true ∧ 1 ≤ n ∧ n ≤ 255

/-- R118: the turn list is sorted by address without a station twice, holds station addresses only and at most 32 of
them, and never the own address. -/
def turnListOk (own : Byte) (list : List Station) : Prop :=
  list.Pairwise (fun a b => a.address.toNat < b.address.toNat) ∧
    (∀ r ∈ list, isStation r.address = true ∧ r.address ≠ own) ∧ list.length ≤ Config.turnMax

/-- R117: a frame is in transmission only in HOLDING, HANDING or STOPPING. -/
def transmitsOk (s : State) : Prop :=
  s.sched.tx.isSome = true →
    s.turn.engine = .holding ∨ s.turn.engine = .handing ∨ s.turn.engine = .stopping

/-- R117: in HANDING the part transmits TURN frames alone. -/
def handingSendsTurn (s : State) : Prop :=
  s.turn.engine = .handing → ∀ t, s.sched.tx = some t → ∃ a, t.origin = .turn a

/-- R2, R17: a FREE entry has every field at its value after reset. -/
def freeEntriesOk (s : State) : Prop := ∀ e : EntryIdx, (s.entry e).state = .free → s.entry e = {}

/-- R143, R148: the stray reply list holds at most 8 records, and none while the line engine is OFFLINE. -/
def straysOk (s : State) : Prop :=
  s.sched.strays.length ≤ Config.strayMax ∧ (s.turn.engine = .offline → s.sched.strays = [])

/-- R144, R127, R133: a scheduler that is offered the line has chosen: what is still offered is a turn of sole mode in which
no class has a member. -/
def settled (s : State) : Prop := s.offered = true → s.hasWork = false ∧ s.turn.sole = true

/-- R129, R117: the turn response timer runs in HANDING alone, and only while no frame is in transmission. -/
def handingWaits (s : State) : Prop :=
  s.turn.responseTimer ≠ none → s.turn.engine = .handing ∧ s.sched.tx = none

/-- R54: the fields of a listen entry lie in their ranges. -/
def ListenEntry.rangesOk (l : ListenEntry) : Prop :=
  isStation l.stationMatch = true ∧ l.stationMask.toNat ≤ 63 ∧ (1 ≤ l.windowMax ∧ l.windowMax ≤ 4) ∧
    (1 ≤ l.retryLimit ∧ l.retryLimit ≤ 15) ∧ (5 ≤ l.answerTime ∧ l.answerTime ≤ 4095) ∧ l.accepts ≤ 255

/-- R54: the listen table holds at most 16 entries, each in its ranges, no two with one key. -/
def listenOk (table : List ListenEntry) : Prop :=
  table.length ≤ Config.listenMax ∧ (∀ l ∈ table, l.rangesOk) ∧
    table.Pairwise fun a b =>
      ¬ (a.service = b.service ∧ a.stationMatch = b.stationMatch ∧ a.stationMask = b.stationMask)

/-- How many notices of a kind wait in a list. -/
def noticeCount (k : FilterKind) (ns : List Notice) : Nat :=
  (ns.filter fun n =>
    match n, k with
    | .arrived _ _, .arrived => true
    | .received _ _, .received => true
    | .unsent _ _ _, .unsent => true
    | .ended _, .ended => true
    | _, _ => false).length

/-- R4: an entry holds at most 16 messages, an UNSENT notice counted as the message it was, and at most 4 RECEIVED, one
ARRIVED and one ENDED notice, which makes 22. Notices of an ending are not made before the entry ends, and the ENDED
notice is the last one made. -/
def ConnEntry.boundsOk (c : ConnEntry) : Prop :=
  c.sendQueue.length + c.unacked.length + noticeCount .unsent c.notices ≤ 16 ∧
    noticeCount .received c.notices ≤ 4 ∧ noticeCount .arrived c.notices ≤ 1 ∧ c.notices.length ≤ 22 ∧
    ((c.state = .opening ∨ c.state = .opened ∨ c.state = .draining) → noticeCount .unsent c.notices = 0) ∧
    ((c.state ≠ .ended ∨ c.unacked ≠ []) → c.state ≠ .free → noticeCount .ended c.notices = 0) ∧
    noticeCount .ended c.notices ≤ 1

/-- R2: the parameters of a connection lie in their ranges, its retry count within the retry limit. -/
def ConnEntry.paramsOk (c : ConnEntry) : Prop :=
  (c.owner.isSome ∧ c.remoteStation.isSome ∧ c.service.isSome ∧ c.priority.isSome) ∧
    (1 ≤ c.window.getD 0 ∧ c.window.getD 0 ≤ 4) ∧ (1 ≤ c.retryLimit.getD 0 ∧ c.retryLimit.getD 0 ≤ 15) ∧
    (5 ≤ c.answerTime.getD 0 ∧ c.answerTime.getD 0 ≤ 4095) ∧ c.retryCount ≤ c.retryLimit.getD 0 ∧
    (c.answerTimer ≠ none → 1 ≤ c.answerTimer.getD 0 ∧ c.answerTimer.getD 0 ≤ 4095)

/-- R2: the peer's entry index is known. -/
def ConnEntry.hasPeer (c : ConnEntry) : Prop := c.remoteIndex ≠ none ∧ (c.remoteIndex.getD 0).toNat ≤ 31

/-- R24: at most window messages are unacknowledged, the distance from VA to VS is their number, and their SNs run
consecutively from VA. -/
def ConnEntry.windowOk (c : ConnEntry) : Prop :=
  c.unacked.length ≤ c.window.getD 0 ∧ c.vs - c.va = BitVec.ofNat 3 c.unacked.length ∧
    c.unacked.map (·.sn) = (List.range c.unacked.length).map fun i => c.va + BitVec.ofNat 3 i

/-- R13, R15, R18: an entry that has left OPEN and DRAINING holds no message but the one whose DATA frame is on the line,
and while it holds that one its answer timer is stopped. -/
def ConnEntry.emptiedBut (c : ConnEntry) (onLine : Option Seq) : Prop :=
  c.sendQueue = [] ∧
    (c.unacked ≠ [] → c.unacked.map (fun m => some m.sn) = [onLine] ∧ c.answerTimer = none)

/-- What R2, R7, R8, R12 to R18 and R24 say of one entry in its state, `onLine` the SN of its message on the line. -/
def ConnEntry.ok (c : ConnEntry) (onLine : Option Seq) : Prop :=
  match c.state with
  | .free => c = {}
  | .opening =>
    c.paramsOk ∧ c.orphan = false ∧ c.remoteIndex = none ∧ c.flags = {} ∧ c.sendQueue = [] ∧ c.unacked = [] ∧
      c.notices = [] ∧ c.vs = 0 ∧ c.va = 0 ∧ c.vr = 0 ∧ (c.controlDue = .none ∨ c.controlDue = .sendOpen) ∧
      c.endReason = none ∧ c.closeTimedOut = false ∧ c.closeFinished = false
  | .opened | .draining =>
    c.paramsOk ∧ c.orphan = false ∧ c.hasPeer ∧ c.windowOk ∧
      (c.controlDue = .none ∨ c.controlDue = .sendAccept) ∧
      (c.state = .draining → c.sendQueue ≠ [] ∨ c.unacked ≠ []) ∧
      c.endReason = none ∧ c.closeTimedOut = false ∧ c.closeFinished = false
  | .closing =>
    c.paramsOk ∧ c.hasPeer ∧ c.flags = {} ∧ c.emptiedBut onLine ∧
      (c.controlDue = .none ∨ (c.controlDue = .sendClose ∧ c.answerTimer = none)) ∧ c.endReason = none ∧
      (c.orphan = true → c.notices = []) ∧ (c.closeTimedOut = true → c.closeFinished = true) ∧
      (c.closeFinished = true →
        c.notices ≠ [] ∧ c.unacked = [] ∧ c.controlDue = .none ∧ c.answerTimer = none)
  | .ended =>
    c.paramsOk ∧ c.orphan = false ∧ (c.unacked ≠ [] → c.hasPeer) ∧ c.flags = {} ∧ c.emptiedBut onLine ∧
      c.controlDue = .none ∧ c.answerTimer = none ∧ c.endReason ≠ none ∧ c.closeTimedOut = false ∧
      c.closeFinished = false

/-- The entry keeps its remote to itself (R5). An ENDED one with a message on the line does, because a port reset may
yet make it CLOSING (R22). -/
def ConnEntry.keepsRemote (c : ConnEntry) : Prop :=
  c.state = .opened ∨ c.state = .draining ∨ c.state = .closing ∨ (c.state = .ended ∧ c.unacked ≠ [])

/-- The promises about the connection table. -/
structure ConnectionsOk (s : State) : Prop where
  /-- Each entry is as its state says. -/
  entries : ∀ e : EntryIdx, (s.entry e).ok (s.messageOnLine e)
  /-- R5: no two entries that keep a remote have the same. -/
  remotes : ∀ e k : EntryIdx, e ≠ k → (s.entry e).keepsRemote → (s.entry k).keepsRemote →
    ¬ ((s.entry e).remoteStation = (s.entry k).remoteStation ∧ (s.entry e).remoteIndex = (s.entry k).remoteIndex)
  /-- R71: the CLOSE of a CLOSING entry is due until its transmission ends. -/
  closeDue : ∀ (x : TxRecord) (e : EntryIdx), s.sched.tx = some x → x.origin = .entry e → x.detached = false →
    x.frame.kind = .close → (s.entry e).state = .closing → (s.entry e).controlDue = .sendClose
  /-- R152: only a DATA frame in transmission has an SN. -/
  dataAlone : ∀ x : TxRecord, s.sched.tx = some x → x.sn ≠ none → x.frame.kind = .data
  /-- R140: OFFLINE every entry is FREE or ENDED, and in STOPPING a CLOSING orphan may be left besides. -/
  away : (s.turn.engine = .offline ∨ s.turn.engine = .stopping) → ∀ e : EntryIdx,
    (s.entry e).state = .free ∨ (s.entry e).state = .ended ∨
      (s.turn.engine = .stopping ∧ (s.entry e).state = .closing ∧ (s.entry e).orphan = true)

/-- The buffers of an entry, its messages' and its notices' (R82). -/
def ConnEntry.buffers (c : ConnEntry) : List Handle :=
  c.sendQueue.map (·.handle) ++ c.unacked.map (·.msg.handle) ++ noticeBuffers c.notices

/-- The buffers that R83 counts for a port: those of its held set, its event queue and the entries it owns. -/
def State.buffersOf (s : State) (p : Port) : List Handle :=
  (s.account p).held ++ (s.port p).queue.filterMap EventRecord.buffer ++
    allEntries.flatMap fun e => if (s.entry e).owner = some p then (s.entry e).buffers else []

/-- R82: each of the 192 buffers is in exactly one place, the free list or a place of one port. -/
def onePlace (s : State) : Prop :=
  ∀ h : Handle, (s.pool.freeList ++ (List.finRange 4).flatMap s.buffersOf).count h = 1

/-- R83: each port's charge is the number of its buffers. -/
def chargesOk (s : State) : Prop := ∀ p : Port, (s.account p).charge = (s.buffersOf p).length

/-- R82: a held set has no duplicates. It is kept in ascending order (log entry 13). -/
def heldOk (held : List Handle) : Prop := held.Pairwise (· < ·)

/-! ### What a port and the line interface take -/

/-- The port takes a transaction whose bits the host clocks and whose rise of select the command stands for: RESET and PRSTn
are released, and if select is low already its transaction has begun and no bit of it was clocked before
(R171, R180, R184). What is taken after bits were clocked is no other thing (`Obligations.OtherTransactions`). -/
def State.hears (s : State) (p : Port) : Bool :=
  !s.resetLow && !(s.port p).inReset &&
    (!(s.port p).selectLow || ((s.port p).transaction = .begun && (s.port p).sdi.isEmpty))

/-- The part at the rise of select that ends a REQUEST transaction: the port has clocked in the type byte and these bytes,
and SDO has carried a zero for each of their bits (R171, R172). Nothing but the port's transaction differs. -/
def State.taking (s : State) (p : Port) (bytes : List Byte) : State :=
  s.modPort p fun ps =>
    { ps with
      selectLow := true, transaction := .request, requestBytes := bytes, collectPos := 0,
      sdi := bitsOf (requestType :: bytes), sdo := List.replicate (8 * (bytes.length + 1)) false }

/-- The part once a reply stands in the port's slot and select is high again (R172, R174). Nothing but the port's
transaction differs. -/
def State.replying (t : State) (p : Port) (reply : Reply) : State :=
  t.modPort p fun ps =>
    { ps with
      selectLow := false, cutShort := false, transaction := .idle, requestBytes := [], collectPos := 0, sdi := [],
      slot := some reply }

/-- The part after a request record that was taken at its rise of select: `effect` is what the request does, and the
reply carries the record's tag, the status, the results, and the lost mark if the slot held a reply before
(R174, R177). -/
def State.served (s : State) (r : Req) (code : Byte) (args : List Byte) (st : Status) (results : List Byte)
    (effect : State → State) : State :=
  (effect (s.taking r.port ([code, r.tag] ++ args ++ r.rest))).replying r.port
    { status := st, tag := r.tag, lost := (s.port r.port).slot.isSome, results := results }

/-- The part after a request record that was refused: no state changes but the port's transaction and slot (R176). -/
def State.refusing (s : State) (r : Req) (code : Byte) (args : List Byte) (st : Status) : State :=
  s.served r code args st [] id

/-- The line interface reports frames to the part: RESET is released, the part does not transmit, and the line is not
ignored (R157, R184). -/
def State.listening (s : State) : Prop := s.resetLow = false ∧ s.sched.tx = none ∧ s.line.ignoring = false

/-- The frame of a kind, for the part's own station, that a header and a payload make (R197). -/
def State.frameFrom (s : State) (h : RxHead) (k : FrameKind) (payload : List Byte) : Frame where
  dest := s.config.station
  src := h.src
  kind := k
  dci := h.dci
  sci := h.sci
  seq := h.seq
  payload := payload

/-- A good frame for the part can reach it: the line interface reports frames, the part has a station address, and the
source is another station (R160, R162). -/
def State.canHear (s : State) (h : RxHead) : Prop :=
  s.listening ∧ isStation s.config.station = true ∧ isStation h.src = true ∧ h.src ≠ s.config.station

/-- The part when a good frame for it has ended, has been counted, and has been reported to the turn controller: steps 1
and 2 of R163. Its frame start comes first if it was not reported before. Routing is left (R164). -/
def State.reached (s : State) (f : Frame) : State :=
  let started := if s.line.receiving then s else s.frameStarts
  let ended := { started with line := { started.line with receiving := false } }
  ((ended.withStats ended.stats.frameForUs).hearStation f.src).turnFrameEnd f

/-- R36: what the A mark of a transfer frame makes of an OPEN or DRAINING entry: every unacknowledged message is sent
again, and its query is answered. -/
def ConnEntry.answeredBy (c : ConnEntry) (a : Bool) : ConnEntry :=
  if a then
    { c with
      unacked := c.unacked.map fun m => { m with needsTx := true }
      retryCount := 0, flags := { c.flags with queryOutstanding := false } }
  else c

/-- R33, steps 4 to 6: what the end of a transfer frame makes of an OPEN or DRAINING entry. Q owes an answer (R39). A WAIT
starts a stopped answer timer and progress restarts a running one, unless a query is due (R43), and the timer stops if
nothing waits for the peer (R44). A DRAINING entry without messages enters CLOSING (R12, R13). -/
def ConnEntry.frameDone (c : ConnEntry) (isWait progress q : Bool) : ConnEntry :=
  let f := c.flags
  if c.state = .draining ∧ c.sendQueue = [] ∧ c.unacked = [] then
    { c with
      state := .closing, controlDue := .sendClose, retryCount := 0, answerTimer := none, answerPhase := 0, flags := {}
      endReason := none, closeTimedOut := false, closeFinished := false }
  else
    let owed : ConnEntry := { c with flags := { f with answerOwed := f.answerOwed || q } }
    if c.unacked = [] ∧ f.peerWaiting = false ∧ f.queryOutstanding = false then
      { owed with answerTimer := none, answerPhase := 0 }
    else if f.queryDue = false ∧
        ((isWait = true ∧ c.answerTimer = none) ∨ (progress = true ∧ c.answerTimer ≠ none)) then
      { owed with answerTimer := c.answerTime, answerPhase := 0 }
    else owed

/-- The notices of an entry in the order its owner is told them: those in a queue, and then those in its list (R106). -/
def State.told (s : State) (p : Port) (e : EntryIdx) : List Notice :=
  ((s.port p).queue.filterMap fun r =>
    match r.body with
    | .held k n => if k = e then some n else none
    | _ => none) ++ (s.entry e).notices

/-- From `s` to `t` nothing changes but entry `e`, of port `p`, and the tail of `p`'s queue, which new notices of `e` alone
have joined, each marked by the filter in force. They joined it while the entry's list was empty and the queue held fewer
than 47 records, and the list otherwise (R105). -/
def State.tellsOnly (s t : State) (p : Port) (e : EntryIdx) : Prop :=
  t = { s with entries := t.entries, ports := t.ports } ∧ (∀ k : EntryIdx, k ≠ e → t.entry k = s.entry k) ∧
    (∀ q : Port, q ≠ p → t.port q = s.port q) ∧
    ∃ added : List EventRecord,
      t.port p = { s.port p with queue := (s.port p).queue ++ added } ∧
      (∀ r ∈ added, ∃ n : Notice,
        r = { body := .held e n, alerts := decide ((s.port p).filterOf (.held e n) = .alert) }) ∧
      (added ≠ [] → (s.entry e).notices = [] ∧ (s.port p).queue.length + added.length ≤ 47) ∧
      ((s.entry e).notices = [] → (t.entry e).notices ≠ [] → 47 ≤ (t.port p).queue.length)

end Sys2Proof.Machine
end

