-- ==== Sys2Proof/WellFormed.lean ====
section
/-! DEFINITION. Which commands can be reported at all: what the rows of the table say of their own operands. Every
argument byte of a request is well formed, because a host may send any (R176 refuses it). -/

namespace Sys2Proof

open Machine

/-- A frame reported as received for the part comes from a station address (R162). -/
def RxHead.wf (h : RxHead) : Bool := isStation h.src

/-- R157: a frame end carries 0 to 256 bytes, and one cut off carries all 256. -/
def frameEndWf (status : FrameStatus) (bytes : List Byte) : Bool :=
  match status with
  | .cutOff => bytes.length = 256
  | .good | .codingViolation | .truncated => decide (bytes.length ≤ 256)

/-- R171: the first byte of an ignored transaction, if it was complete, names no type. -/
def ignoredWf (sdi : List Bool) : Bool :=
  (bytesOf sdi).head? ≠ some requestType && (bytesOf sdi).head? ≠ some collectType

/-- R172, R173: a truncated request ends with a part of a byte, or its record lacks bytes. -/
def truncatedWf (p : Port) (sdi : List Bool) : Bool :=
  sdi.length % 8 ≠ 0 || (decodeRecord p (bytesOf sdi)).isNone

/-- The command is one that its row describes. -/
def Instr.wf : Instr → Bool
  | .bufGet _ => true
  | .bufPut _ _ => true
  | .bufWrite _ _ _ _ => true
  | .bufRead _ _ _ _ => true
  | .connOpen _ _ _ _ _ _ _ => true
  | .connSend _ _ _ _ _ _ => true
  | .connHold _ _ => true
  | .connResume _ _ => true
  | .connClose _ _ _ => true
  | .connRelease _ _ => true
  | .connQuery _ _ => true
  | .listenAdd _ _ _ _ _ _ _ _ _ => true
  | .listenDrop _ _ _ _ => true
  | .listenList _ => true
  | .evtFetch _ _ => true
  | .evtFilter _ _ _ => true
  | .portInfo _ => true
  | .portResetRequest _ => true
  | .cfgTake _ => true
  | .cfgPass _ _ => true
  | .cfgStation _ _ => true
  | .cfgLine _ _ _ _ _ _ _ _ => true
  | .cfgRead _ => true
  | .cfgQuota _ _ _ _ => true
  | .turnAdd _ _ => true
  | .turnRemove _ _ => true
  | .turnList _ => true
  | .lineStart _ => true
  | .lineStop _ => true
  | .lineStatus _ _ => true
  | .unknownRequest _ code => (fixedArgs code).isNone
  | .truncatedRequest p sdi => truncatedWf p sdi
  | .collect _ _ => true
  | .ignoredTransaction _ sdi => ignoredWf sdi
  | .prstnAsserted _ => true
  | .prstnReleased _ => true
  | .resetAsserted => true
  | .resetReleased => true
  | .frameStart => true
  | .frameEnd status bytes => frameEndWf status bytes
  | .dataReceived h payload => h.wf && FrameKind.data.allows payload.length
  | .readyReceived h => h.wf
  | .waitReceived h => h.wf
  | .repeatReceived h => h.wf
  | .openReceived h _ _ => h.wf
  | .acceptReceived h _ => h.wf
  | .refuseReceived h _ => h.wf
  | .closeReceived h => h.wf
  | .closedReceived h _ => h.wf
  | .turnReceived h => h.wf
  | .endOfTransmission => true
  | .transmitFault => true
  | .answerTimerExpiry _ => true
  | .lostTimerExpiry => true
  | .holdTimerExpiry => true
  | .turnResponseTimerExpiry => true
  | .schedulerChoice => true
  | .noticeAdmission _ => true
  | .lineReturnsToIdle => true
  | .selectFalls _ => true

end Sys2Proof
end

