-- ==== Sys2Proof/Certificates/Slice0/Obligations.lean ====
section
/-! DEFINITION. The statements for the provers: what the commands of the Dolfex 4SL do, what the part promises of every
state, and what its records and frames are on their wires. -/

open Sys2Proof Sys2Proof.Machine

/-! ### The step and reset -/

/-- A step takes the command at the front of the queue and runs it on the part with the queue's rest. The model's choice
(DESIGN CHOICE, log entry 3): on an empty queue nothing happens while RESET is asserted, and otherwise one 10 µs tick of
the time base passes (`LineTimersExpire` says what a tick is). -/
def Obligations.StepRunsFrontCommand : Prop :=
  (∀ (c : Instr) (rest : List Instr) (s : State),
    s.pending = c :: rest → step s = exec c (s.withPending rest)) ∧
  (∀ s : State, s.pending = [] →
    (s.resetLow = true → step s = .next s) ∧ (s.resetLow = false → step s = .next s.tick))

/-- Section 9.6: every block after device reset, each at the values its rule gives. R94: the pool, with no buffer in a
list or queue and no entry starved. The assertion of RESET gives every block these values, whatever the part was doing,
with PRSTn and select as the hosts hold them; the release lets the part begin work and changes nothing else. The levels
of PRSTn and select, of which the manual says nothing at reset, their keeping and that of the queue of commands are the
model's choice (DESIGN CHOICE, log entry 4), and so are that ATTN is computed from the queue and the model's own record
of the bits on SDI and SDO, which is empty (DESIGN CHOICE, log entry 14), and the model's own two fields of an entry, 0
and no (DESIGN CHOICE, log entries 3 and 21). That RESET_ASSERTED while RESET is asserted is no edge and changes nothing
is the model's reading (DEDUCED, log entry 6). -/
def Obligations.DeviceReset : Prop :=
  ((∀ (h : Handle) (offset : Nat), State.reset.pool.byteAt h offset = 0) ∧
  State.reset.pool.freeList = List.finRange 192 ∧ State.reset.pool.freeList.length = 192 ∧
  (∀ p : Port, State.reset.account p = { charge := 0, reserve := 16, limit := 96, held := [] } ∧
    (State.reset.port p).queue = []) ∧
  ∀ e : EntryIdx, (State.reset.entry e).state = .free ∧ (State.reset.entry e).sendQueue = [] ∧
    (State.reset.entry e).unacked = [] ∧ (State.reset.entry e).notices = [] ∧
    (State.reset.entry e).flags.starved = false) ∧
  ((∀ e : EntryIdx, State.reset.entry e = {}) ∧ State.reset.listen = [] ∧
  (∀ p : Port, (State.reset.port p).queue = [] ∧ (State.reset.port p).admission = 31 ∧
    (State.reset.port p).attn = false ∧ (State.reset.port p).slot = none ∧
    (State.reset.port p).transaction = .idle ∧ (State.reset.port p).requestBytes = [] ∧
    (State.reset.port p).collectPos = 0 ∧ (State.reset.port p).sdi = [] ∧ (State.reset.port p).sdo = [] ∧
    (State.reset.port p).cutShort = false ∧
    (State.reset.port p).filters =
      #v[.alert, .alert, .alert, .alert, .queue, .alert, .alert, .drop, .drop, .queue, .queue, .alert]) ∧
  (State.reset.turn.engine = .offline ∧ State.reset.turn.list = [] ∧ State.reset.turn.frameCount = 0 ∧
    State.reset.turn.rotation = 0 ∧ State.reset.turn.probeCursor = 0 ∧ State.reset.turn.target = none ∧
    State.reset.turn.kind = none ∧ State.reset.turn.attempt = none ∧ State.reset.turn.lostTimer = none ∧
    State.reset.turn.holdTimer = none ∧ State.reset.turn.responseTimer = none) ∧
  (State.reset.sched.strays = [] ∧ State.reset.sched.responsePtr = 31 ∧ State.reset.sched.initiativePtr = 31 ∧
    (∀ pr : Fin 4, look State.reset.sched.dataPtrs pr = 31) ∧ State.reset.sched.tx = none) ∧
  (State.reset.stats.framesForUs = 0 ∧ State.reset.stats.checkErrors = 0 ∧ State.reset.stats.formatErrors = 0 ∧
    State.reset.stats.strays = 0 ∧ State.reset.stats.straysNotMade = 0 ∧
    State.reset.stats.handoverFailures = 0) ∧
  (State.reset.config.rightHolder = some 0 ∧ State.reset.config.station = 0 ∧
    State.reset.config.params.bitRate = .mbit1 ∧ State.reset.config.responseTime = 200 ∧
    100 * State.reset.config.params.lostBase = 2000 ∧ 10 * State.reset.config.params.claimSlot = 100 ∧
    State.reset.config.params.turnBudget = 8 ∧ State.reset.config.holdTime = 5000 ∧
    State.reset.config.params.probeInterval = 16)) ∧
  (∀ s : State,
    (s.resetLow = false → ∃ t, exec .resetAsserted s = .next t ∧ t.resetLow = true ∧ t.pending = s.pending ∧
      t.entries = State.reset.entries ∧ t.listen = [] ∧ t.pool = State.reset.pool ∧ t.turn = State.reset.turn ∧
      t.sched = State.reset.sched ∧ t.line = State.reset.line ∧ t.stats = State.reset.stats ∧
      t.config = State.reset.config ∧
      ∀ p : Port, t.port p =
        { State.reset.port p with inReset := (s.port p).inReset, selectLow := (s.port p).selectLow }) ∧
    (s.resetLow = true → exec .resetAsserted s = .next s) ∧
    exec .resetReleased s = .next { s with resetLow := false })

/-! ### The buffer requests -/

/-- R89. -/
def Obligations.BufGetTakesTheHead : Prop :=
  ∀ (s : State) (r : Req), s.hears r.port = true → r.rest = [] →
    let a := s.account r.port
    let spare : Int :=
      s.pool.freeList.length -
        (((List.finRange 4).filter (· ≠ r.port)).map fun q => (s.account q).reserve - (s.account q).charge).sum
    let allowed := a.charge < a.reserve ∨ (a.charge < a.limit ∧ 1 ≤ spare)
    (∀ (h : Handle) (tail : List Handle), s.pool.freeList = h :: tail → allowed →
      exec (.bufGet r) s =
        .next (s.served r 0x10 [] .ok [byte h.val] fun t =>
          { t with
            pool :=
              { s.pool with
                freeList := tail
                accounts :=
                  put s.pool.accounts r.port { a with charge := a.charge + 1, held := insertHandle h a.held } } })) ∧
    (¬ allowed → exec (.bufGet r) s = .next (s.refusing r 0x10 [] .noBuffer))

/-- R90, with the release of R87 and the re-evaluation of R88, after which the scheduler chooses if it is offered the
line (R144, `SchedulerChoosesByClass`). That one choice follows, after the last of the entries that the release feeds,
is the model's choice (DESIGN CHOICE, unsafe, log entry 12). -/
def Obligations.BufPutReleases : Prop :=
  ∀ (s : State) (r : Req) (handle : Byte), s.hears r.port = true → r.rest = [] →
    let a := s.account r.port
    (191 < handle.toNat → exec (.bufPut r handle) s = .next (s.refusing r 0x11 [handle] .badArg)) ∧
    ∀ h : Handle, handle.toNat = h.val →
      (h ∉ a.held → exec (.bufPut r handle) s = .next (s.refusing r 0x11 [handle] .badHandle)) ∧
      (h ∈ a.held →
        let pool : Pool :=
          { s.pool with
            freeList := s.pool.freeList ++ [h]
            accounts :=
              put s.pool.accounts r.port { a with charge := a.charge - 1, held := a.held.filter (· ≠ h) } }
        exec (.bufPut r handle) s =
          .next (s.served r 0x11 [handle] .ok [] fun t =>
            ({ t with pool := pool, entries := s.entries.map (ConnEntry.reconsider pool) } : State).schedule))

/-- R88, R50, R47: what the re-evaluation after a release makes of one entry, its answer timer judged by R44. R44: when
the answer timer of an OPEN or DRAINING entry is stopped after an event, and that nothing else of the entry changes
then. -/
def Obligations.EntryChecksAfterAnEvent : Prop :=
  (∀ (pool : Pool) (c : ConnEntry),
    (c.flags.starved = false → c.reconsider pool = c) ∧
    (∀ p : Port, c.owner = some p → pool.canAllocate p = false → c.reconsider pool = c) ∧
    (c.owner = none → c.reconsider pool = c) ∧
    (∀ p : Port, c.owner = some p → pool.canAllocate p = true → c.flags.starved = true →
      let ready := c.flags.busyAnnounced && !c.flags.hostHold && !c.noticeFull
      let fed : ConnEntry :=
        { c with
          flags :=
            { c.flags with
              starved := false, busyAnnounced := c.flags.busyAnnounced && !ready,
              statusDue := c.flags.statusDue || ready } }
      let waitsForNothing := (c.state = .opened ∨ c.state = .draining) ∧ c.unacked = [] ∧
        c.flags.peerWaiting = false ∧ c.flags.queryOutstanding = false
      (waitsForNothing → c.reconsider pool = { fed with answerTimer := none, answerPhase := 0 }) ∧
      (¬ waitsForNothing → c.reconsider pool = fed))) ∧
  (∀ c : ConnEntry,
    ((c.state = .opened ∨ c.state = .draining) → c.unacked = [] → c.flags.peerWaiting = false →
      c.flags.queryOutstanding = false → c.settleTimer = { c with answerTimer := none, answerPhase := 0 }) ∧
    (¬ ((c.state = .opened ∨ c.state = .draining) ∧ c.unacked = [] ∧ c.flags.peerWaiting = false ∧
      c.flags.queryOutstanding = false) → c.settleTimer = c))

/-- R91, R92: the checks of BUF.WRITE and BUF.READ. BUF.WRITE replaces the bytes of its span and every other byte of the
pool is as it was; BUF.READ returns the bytes of its span. -/
def Obligations.BufWriteAndBufReadUseTheirSpan : Prop :=
  (∀ (s : State) (r : Req) (handle offset count : Byte), s.hears r.port = true →
    let ranges := handle.toNat ≤ 191 ∧ offset.toNat ≤ 239 ∧ 1 ≤ count.toNat ∧ count.toNat ≤ 64 ∧
      offset.toNat + count.toNat ≤ 240 ∧ r.rest.length = count.toNat
    (¬ ranges →
      exec (.bufWrite r handle offset count) s = .next (s.refusing r 0x12 [handle, offset, count] .badArg)) ∧
    ∀ h : Handle, handle.toNat = h.val → ranges →
      (h ∉ (s.account r.port).held →
        exec (.bufWrite r handle offset count) s =
          .next (s.refusing r 0x12 [handle, offset, count] .badHandle)) ∧
      (h ∈ (s.account r.port).held →
        exec (.bufWrite r handle offset count) s =
          .next (s.served r 0x12 [handle, offset, count] .ok [] fun t =>
            t.withPool (s.pool.store h offset.toNat r.rest)) ∧
        (s.pool.mem.wf = true → ∀ (k : Handle) (i : Nat), i < 240 →
          (s.pool.store h offset.toNat r.rest).byteAt k i =
            if k = h ∧ offset.toNat ≤ i ∧ i < offset.toNat + count.toNat then
              r.rest[i - offset.toNat]?.getD 0
            else s.pool.byteAt k i))) ∧
  (∀ (s : State) (r : Req) (handle offset count : Byte), s.hears r.port = true → r.rest = [] →
    let ranges := handle.toNat ≤ 191 ∧ offset.toNat ≤ 239 ∧ 1 ≤ count.toNat ∧ count.toNat ≤ 64 ∧
      offset.toNat + count.toNat ≤ 240
    (¬ ranges →
      exec (.bufRead r handle offset count) s = .next (s.refusing r 0x13 [handle, offset, count] .badArg)) ∧
    ∀ h : Handle, handle.toNat = h.val → ranges →
      (h ∉ (s.account r.port).held →
        exec (.bufRead r handle offset count) s =
          .next (s.refusing r 0x13 [handle, offset, count] .badHandle)) ∧
      (h ∈ (s.account r.port).held →
        exec (.bufRead r handle offset count) s =
          .next (s.served r 0x13 [handle, offset, count] .ok
            ((List.range count.toNat).map fun i => s.pool.byteAt h (offset.toNat + i)) id)))

/-! ### The connection requests -/

/-- R66 and R8: the checks of CONN.OPEN in their order, and the entry it takes. The scheduler then chooses if it is
offered the line (R144, `SchedulerChoosesByClass`). -/
def Obligations.ConnOpenTakesLowestFree : Prop :=
  ∀ (s : State) (r : Req) (service station window priority retryLimit : Byte) (answerTime : Half),
    s.hears r.port = true → r.rest = [] →
    let args := [service, station, window, priority, retryLimit] ++ halfBytes answerTime
    let command := Instr.connOpen r service station window priority retryLimit answerTime
    let ranges := 1 ≤ station.toNat ∧ station.toNat ≤ 62 ∧ station ≠ s.config.station ∧
      1 ≤ window.toNat ∧ window.toNat ≤ 4 ∧ priority.toNat ≤ 3 ∧ 1 ≤ retryLimit.toNat ∧ retryLimit.toNat ≤ 15 ∧
      5 ≤ answerTime.toNat ∧ answerTime.toNat ≤ 4095
    let online := s.turn.engine = .waiting ∨ s.turn.engine = .holding ∨ s.turn.engine = .handing
    (¬ ranges → exec command s = .next (s.refusing r 0x20 args .badArg)) ∧
    (ranges → ¬ online → exec command s = .next (s.refusing r 0x20 args .offline)) ∧
    (ranges → online → (∀ e : EntryIdx, (s.entry e).state ≠ .free) →
      exec command s = .next (s.refusing r 0x20 args .tableFull)) ∧
    (ranges → online → ∀ (e : EntryIdx) (pr : Fin 4), (s.entry e).state = .free →
      (∀ k : EntryIdx, k < e → (s.entry k).state ≠ .free) → priority.toNat = pr.val →
      exec command s =
        .next (s.served r 0x20 args .ok [byte e.val] fun t =>
          ({ t with
            entries :=
              put s.entries e
                { state := .opening, owner := some r.port, remoteStation := some station, remoteIndex := none,
                  service := some service, window := some window.toNat, priority := some pr,
                  retryLimit := some retryLimit.toNat, answerTime := some answerTime.toNat, vs := 0, va := 0,
                  vr := 0, controlDue := .sendOpen, retryCount := 0, answerTimer := none } } : State).schedule))

/-- R25: the checks of CONN.SEND in their order, and the message it queues. The answer timer is then judged by R44, and
the scheduler chooses if it is offered the line (R144, `SchedulerChoosesByClass`). -/
def Obligations.ConnSendQueuesTheMessage : Prop :=
  ∀ (s : State) (r : Req) (entry handle length : Byte) (hostTag : Half) (notify : Byte),
    s.hears r.port = true → r.rest = [] →
    let args := [entry, handle, length] ++ halfBytes hostTag ++ [notify]
    let command := Instr.connSend r entry handle length hostTag notify
    let ranges := entry.toNat ≤ 31 ∧ handle.toNat ≤ 191 ∧ 1 ≤ length.toNat ∧ length.toNat ≤ 240 ∧
      notify.toNat ≤ 1
    (¬ ranges → exec command s = .next (s.refusing r 0x21 args .badArg)) ∧
    ∀ (e : EntryIdx) (h : Handle), ranges → entry.toNat = e.val → handle.toNat = h.val →
      let c := s.entry e
      let a := s.account r.port
      let own := c.owner = some r.port ∧ c.state ≠ .free ∧ c.orphan = false
      let messages := c.sendQueue.length + c.unacked.length
      (¬ own → exec command s = .next (s.refusing r 0x21 args .notOwner)) ∧
      (own → c.state ≠ .opened → exec command s = .next (s.refusing r 0x21 args .badState)) ∧
      (own → c.state = .opened → 16 ≤ messages → exec command s = .next (s.refusing r 0x21 args .queueFull)) ∧
      (own → c.state = .opened → messages < 16 → h ∉ a.held →
        exec command s = .next (s.refusing r 0x21 args .badHandle)) ∧
      (own → c.state = .opened → messages < 16 → h ∈ a.held →
        let msg : Msg := { handle := h, length := length.toNat, tag := hostTag, notify := decide (notify = 1) }
        exec command s =
          .next (s.served r 0x21 args .ok [] fun t =>
            ({ t with
              pool :=
                { s.pool with
                  accounts := put s.pool.accounts r.port { a with held := a.held.filter (· ≠ h) } }
              entries :=
                put s.entries e (({ c with sendQueue := c.sendQueue ++ [msg] } : ConnEntry).settleTimer) } :
              State).schedule))

/-- R48, R49, R47: the refusals of CONN.HOLD and CONN.RESUME, host hold set and cleared, and the WAIT and READY that are
owed. The scheduler then chooses if it is offered the line (R144, `SchedulerChoosesByClass`). -/
def Obligations.ConnHoldAndResume : Prop :=
  ∀ (s : State) (r : Req) (entry : Byte), s.hears r.port = true → r.rest = [] →
    (31 < entry.toNat →
      exec (.connHold r entry) s = .next (s.refusing r 0x22 [entry] .badArg) ∧
      exec (.connResume r entry) s = .next (s.refusing r 0x23 [entry] .badArg)) ∧
    ∀ e : EntryIdx, entry.toNat = e.val → (s.entry e).owner = some r.port → (s.entry e).orphan = false →
    let c := s.entry e
    ((c.state = .opening ∨ c.state = .closing ∨ c.state = .ended) →
      exec (.connHold r entry) s = .next (s.refusing r 0x22 [entry] .badState) ∧
      exec (.connResume r entry) s = .next (s.refusing r 0x23 [entry] .badState)) ∧
    ((c.state = .opened ∨ c.state = .draining) →
      (c.flags.hostHold = true →
        exec (.connHold r entry) s = .next (s.served r 0x22 [entry] .ok [] id)) ∧
      (c.flags.hostHold = false →
        exec (.connHold r entry) s =
          .next (s.served r 0x22 [entry] .ok [] fun t =>
            ({ t with
              entries :=
                put s.entries e
                  (({ c with
                      flags := { c.flags with hostHold := true, busyAnnounced := true, statusDue := true } } :
                      ConnEntry).settleTimer) } : State).schedule)) ∧
      (c.flags.hostHold = false →
        exec (.connResume r entry) s = .next (s.served r 0x23 [entry] .ok [] id)) ∧
      (c.flags.hostHold = true →
        let ready := c.flags.busyAnnounced && !c.flags.starved && !c.noticeFull
        exec (.connResume r entry) s =
          .next (s.served r 0x23 [entry] .ok [] fun t =>
            ({ t with
              entries :=
                put s.entries e
                  (({ c with
                      flags :=
                        { c.flags with
                          hostHold := false, busyAnnounced := c.flags.busyAnnounced && !ready,
                          statusDue := c.flags.statusDue || ready } } : ConnEntry).settleTimer) } : State).schedule)))

/-- R72: the checks of CONN.CLOSE, and what it does by the entry's state and the form. The CLOSED event and the abort
are those of R76 and R13. The mark `aborted`, which the abort sets at an entry that was a member of the DATA class and
of no class before it, is the model's own (log entry 21). When the entry has changed its state and may have something to
send, the scheduler chooses if it is offered the line (R144, `SchedulerChoosesByClass`). -/
def Obligations.ConnCloseByState : Prop :=
  ∀ (s : State) (r : Req) (entry form : Byte), s.hears r.port = true → r.rest = [] →
    let args := [entry, form]
    let command := Instr.connClose r entry form
    ((31 < entry.toNat ∨ 1 < form.toNat) → exec command s = .next (s.refusing r 0x24 args .badArg)) ∧
    ∀ e : EntryIdx, entry.toNat = e.val → form.toNat ≤ 1 →
    (s.entry e).owner = some r.port → (s.entry e).orphan = false →
    let c := s.entry e
    (c.state = .opening →
      exec command s =
        .next (s.served r 0x24 args .ok [0] fun t =>
          (t.freeEntry e).modPort r.port (·.offer (.closed e false)))) ∧
    (c.state = .opened → form = 0 → (c.sendQueue ≠ [] ∨ c.unacked ≠ []) →
      exec command s =
        .next (s.served r 0x24 args .ok [3] fun t =>
          (t.setEntry e ({ c with state := .draining } : ConnEntry).settleTimer).schedule)) ∧
    (c.state = .opened → form = 0 → c.sendQueue = [] → c.unacked = [] →
      exec command s =
        .next (s.served r 0x24 args .ok [4] fun t =>
          (t.setEntry e
            { c with
              state := .closing, controlDue := .sendClose, retryCount := 0, answerTimer := none, answerPhase := 0,
              flags := {}, endReason := none, closeTimedOut := false, closeFinished := false }).schedule)) ∧
    (c.state = .draining → form = 0 → exec command s = .next (s.served r 0x24 args .ok [3] id)) ∧
    ((c.state = .opened ∨ c.state = .draining) → form = 1 →
      exec command s =
        .next (s.served r 0x24 args .ok [4] fun t =>
          ((t.setEntry e { c with aborted := c.eligible && !c.inResponse && !c.inInitiative }).abortEntry e).schedule)) ∧
    ((c.state = .closing ∨ c.state = .ended) → exec command s = .next (s.refusing r 0x24 args .badState))

/-- R13, R15, R105, R106: an abort and an end make one UNSENT notice for each message that is not on the line, the
unacknowledged list first and then the send queue, and an end makes its ENDED notice last. The notices of the entry are
read in its owner's queue first and then in its notice list. A message on the line stays. Nothing else changes: the
buffers move with their notices, and no charge, other entry or other port does (`tellsOnly`). -/
def Obligations.LeavingUnsendsInOrder : Prop :=
  ∀ (s : State) (e : EntryIdx) (p : Port) (why : EndReason),
    (s.entry e).owner = some p → (s.entry e).orphan = false →
    let c := s.entry e
    let onLine : Option Seq :=
      s.sched.tx.bind fun t => if t.origin = .entry e ∧ t.detached = false then t.sn else none
    let told := fun t : State => t.told p e
    let unsent : List Notice :=
      (((c.unacked.filter fun m => some m.sn ≠ onLine).map (·.msg)) ++ c.sendQueue).map fun m =>
        .unsent m.tag m.handle m.length
    let left := c.unacked.filter fun m => some m.sn = onLine
    (told (s.abortEntry e) = told s ++ unsent ∧ (s.abortEntry e).entry e =
      { c with
        state := .closing, controlDue := .sendClose, retryCount := 0, answerTimer := none, answerPhase := 0,
        flags := {}, endReason := none, closeTimedOut := false, closeFinished := false, sendQueue := [],
        unacked := left, notices := ((s.abortEntry e).entry e).notices }) ∧
    (told (s.endEntry e why) = told s ++ unsent ++ (if left = [] then [.ended why] else []) ∧
      (s.endEntry e why).entry e =
        { c with
          state := .ended, controlDue := .none, answerTimer := none, answerPhase := 0, flags := {},
          endReason := some why, sendQueue := [], unacked := left,
          notices := ((s.endEntry e why).entry e).notices }) ∧
    s.tellsOnly (s.abortEntry e) p e ∧ s.tellsOnly (s.endEntry e why) p e

/-- R19: CONN.RELEASE of an ENDED entry with nothing left, and its refusal in every other case. -/
def Obligations.ConnReleaseFreesEnded : Prop :=
  ∀ (s : State) (r : Req) (entry : Byte), s.hears r.port = true → r.rest = [] →
    (31 < entry.toNat → exec (.connRelease r entry) s = .next (s.refusing r 0x25 [entry] .badArg)) ∧
    ∀ e : EntryIdx, entry.toNat = e.val →
      let c := s.entry e
      let own := c.owner = some r.port ∧ c.state ≠ .free ∧ c.orphan = false
      let done := c.state = .ended ∧ c.notices = [] ∧ c.unacked = []
      (¬ own → exec (.connRelease r entry) s = .next (s.refusing r 0x25 [entry] .notOwner)) ∧
      (own → ¬ done → exec (.connRelease r entry) s = .next (s.refusing r 0x25 [entry] .badState)) ∧
      (own → done →
        exec (.connRelease r entry) s =
          .next (s.served r 0x25 [entry] .ok [] fun t =>
            { t with
              entries := put s.entries e {}
              sched :=
                { s.sched with
                  tx := s.sched.tx.map fun x => if x.origin = .entry e then { x with detached := true } else x } }))

/-- R20, R201: CONN.QUERY reports the entry to any port, byte by byte. R201: the codes of the entry states, of the
control frames due and of the end reasons. -/
def Obligations.ConnQueryReports : Prop :=
  ([EntryState.free, .opening, .opened, .draining, .closing, .ended].map EntryState.code = [0, 1, 2, 3, 4, 5] ∧
    [ControlDue.none, .sendOpen, .sendClose, .sendAccept].map ControlDue.code = [0, 1, 2, 3] ∧
    [EndReason.noAnswer, .badAck, .peerClosed, .peerReset, .refusedNoService, .refusedFull, .refusedStale,
      .protocol].map EndReason.code = [1, 2, 3, 4, 5, 6, 7, 8]) ∧
  ∀ (s : State) (r : Req) (entry : Byte), s.hears r.port = true → r.rest = [] →
    (31 < entry.toNat → exec (.connQuery r entry) s = .next (s.refusing r 0x26 [entry] .badArg)) ∧
    ∀ e : EntryIdx, entry.toNat = e.val →
      let c := s.entry e
      exec (.connQuery r entry) s = .next (s.served r 0x26 [entry] .ok c.report id) ∧ c.report.length = 23 ∧
      c.report.take 3 = [byte c.state.code, (c.owner.map fun p => byte p.val).getD 0xFF, c.reportFlags] ∧
      (c.report.drop 3).take 6 =
        [c.remoteStation.getD 0, c.remoteIndex.getD 0xFF, c.service.getD 0, byte (c.window.getD 0),
          byte ((c.priority.map Fin.val).getD 0), byte (c.retryLimit.getD 0)] ∧
      (c.report.drop 9).take 2 = [byte (c.answerTime.getD 0), byte (c.answerTime.getD 0 / 256)] ∧
      (c.report.drop 11).take 4 =
        [c.vs.setWidth 8, c.va.setWidth 8, c.vr.setWidth 8, byte c.retryCount] ∧
      (c.report.drop 15).take 2 = [byte (c.answerTimer.getD 0), byte (c.answerTimer.getD 0 / 256)] ∧
      c.report.drop 17 =
        [byte c.controlDue.code, byte c.sendQueue.length, byte c.unacked.length,
          byte (c.unacked.filter (·.needsTx)).length, byte c.notices.length,
          byte ((c.endReason.map EndReason.code).getD 0)] ∧
      (List.range 8).map c.reportFlags.getLsbD =
        [c.orphan, c.flags.peerWaiting, c.flags.hostHold, c.flags.starved, c.flags.busyAnnounced,
          c.closeTimedOut, c.closeFinished, false]

/-- R176, steps 3 and 4. R6: the five requests that name an entry refuse one that is not the port's own. The
configuration requests whose arguments are in range are refused NO_RIGHT on a port that does not hold the right,
whatever else the part's state is. -/
def Obligations.RequestsNeedOwnershipAndRight : Prop :=
  (∀ (s : State) (r : Req) (entry : Byte) (e : EntryIdx), s.hears r.port = true → r.rest = [] →
    entry.toNat = e.val →
    ¬ ((s.entry e).owner = some r.port ∧ (s.entry e).state ≠ .free ∧ (s.entry e).orphan = false) →
    exec (.connHold r entry) s = .next (s.refusing r 0x22 [entry] .notOwner) ∧
    exec (.connResume r entry) s = .next (s.refusing r 0x23 [entry] .notOwner) ∧
    exec (.connRelease r entry) s = .next (s.refusing r 0x25 [entry] .notOwner) ∧
    (∀ form : Byte, form.toNat ≤ 1 →
      exec (.connClose r entry form) s = .next (s.refusing r 0x24 [entry, form] .notOwner)) ∧
    (∀ (handle length notify : Byte) (hostTag : Half), handle.toNat ≤ 191 → 1 ≤ length.toNat →
      length.toNat ≤ 240 → notify.toNat ≤ 1 →
      exec (.connSend r entry handle length hostTag notify) s =
        .next (s.refusing r 0x21 ([entry, handle, length] ++ halfBytes hostTag ++ [notify]) .notOwner))) ∧
  (∀ (s : State) (r : Req), s.hears r.port = true → r.rest = [] → s.config.rightHolder ≠ some r.port →
    exec (.lineStart r) s = .next (s.refusing r 0x80 [] .noRight) ∧
    exec (.lineStop r) s = .next (s.refusing r 0x81 [] .noRight) ∧
    exec (.lineStatus r 1) s = .next (s.refusing r 0x82 [1] .noRight) ∧
    (∀ station : Byte, 1 ≤ station.toNat → station.toNat ≤ 62 →
      exec (.turnAdd r station) s = .next (s.refusing r 0x70 [station] .noRight) ∧
      exec (.turnRemove r station) s = .next (s.refusing r 0x71 [station] .noRight)))

/-! ### The listen table's requests -/

/-- R56: the checks of LISTEN.ADD in their order, and the listen entry it appends. -/
def Obligations.ListenAddAppends : Prop :=
  ∀ (s : State) (r : Req) (service stationMatch stationMask windowMax priority retryLimit : Byte)
    (answerTime : Half) (accepts : Byte),
    s.hears r.port = true → r.rest = [] →
    let args :=
      [service, stationMatch, stationMask, windowMax, priority, retryLimit] ++ halfBytes answerTime ++ [accepts]
    let command :=
      Instr.listenAdd r service stationMatch stationMask windowMax priority retryLimit answerTime accepts
    let ranges := 1 ≤ stationMatch.toNat ∧ stationMatch.toNat ≤ 62 ∧ stationMask.toNat ≤ 63 ∧
      1 ≤ windowMax.toNat ∧ windowMax.toNat ≤ 4 ∧ priority.toNat ≤ 3 ∧ 1 ≤ retryLimit.toNat ∧
      retryLimit.toNat ≤ 15 ∧ 5 ≤ answerTime.toNat ∧ answerTime.toNat ≤ 4095
    let known := ∃ l ∈ s.listen,
      l.service = service ∧ l.stationMatch = stationMatch ∧ l.stationMask = stationMask
    (¬ ranges → exec command s = .next (s.refusing r 0x30 args .badArg)) ∧
    (ranges → 16 ≤ s.listen.length → exec command s = .next (s.refusing r 0x30 args .tableFull)) ∧
    (ranges → s.listen.length < 16 → known → exec command s = .next (s.refusing r 0x30 args .duplicate)) ∧
    (ranges → s.listen.length < 16 → ¬ known → ∀ pr : Fin 4, priority.toNat = pr.val →
      exec command s =
        .next (s.served r 0x30 args .ok [byte s.listen.length] fun t =>
          { t with
            listen :=
              s.listen ++
                [{ owner := r.port, service := service, stationMatch := stationMatch, stationMask := stationMask,
                   windowMax := windowMax.toNat, priority := pr, retryLimit := retryLimit.toNat,
                   answerTime := answerTime.toNat, accepts := accepts.toNat }] }))

/-- R57: the checks of LISTEN.DROP, and the removal that closes the table up. R58, R200: LISTEN.LIST gives the port's
own listen entries, in table order, each with its position in the whole table. -/
def Obligations.ListenDropAndList : Prop :=
  (∀ (s : State) (r : Req) (service stationMatch stationMask : Byte), s.hears r.port = true → r.rest = [] →
    let args := [service, stationMatch, stationMask]
    let command := Instr.listenDrop r service stationMatch stationMask
    let ranges := 1 ≤ stationMatch.toNat ∧ stationMatch.toNat ≤ 62 ∧ stationMask.toNat ≤ 63
    let key := fun l : ListenEntry =>
      l.service = service ∧ l.stationMatch = stationMatch ∧ l.stationMask = stationMask
    (¬ ranges → exec command s = .next (s.refusing r 0x31 args .badArg)) ∧
    (ranges → (∀ l ∈ s.listen, ¬ key l) → exec command s = .next (s.refusing r 0x31 args .notOwner)) ∧
    (ranges → ∀ (front back : List ListenEntry) (l : ListenEntry), s.listen = front ++ l :: back → key l →
      (∀ k ∈ front, ¬ key k) →
      (l.owner ≠ r.port → exec command s = .next (s.refusing r 0x31 args .notOwner)) ∧
      (l.owner = r.port →
        exec command s =
          .next (s.served r 0x31 args .ok [byte l.accepts] fun t => { t with listen := front ++ back })))) ∧
  (∀ (s : State) (r : Req), s.hears r.port = true → r.rest = [] →
    let own := s.listen.zipIdx.filter fun x => x.1.owner = r.port
    exec (.listenList r) s =
      .next (s.served r 0x32 [] .ok
        (byte own.length ::
          own.flatMap fun x =>
            [byte x.2, x.1.service, x.1.stationMatch, x.1.stationMask, byte x.1.windowMax, byte x.1.priority.val,
              byte x.1.retryLimit, byte x.1.answerTime, byte (x.1.answerTime / 256), byte x.1.accepts]) id))

/-! ### The event requests and the queues -/

/-- R110, R111: EVT.FETCH, its checks and its reply over the part as the arbiter leaves it, and what the taking of the
records changes: the queue's head, and the held set that their buffers join. The charges, the free list, the bytes and
the other ports' accounts and queues are as they were. R201, R202: the twelve bytes of a record of each kind, with the
kind codes, the line codes and the end reasons. R112: ATTN is asserted exactly while the queue holds a record with the
alerts mark. After the arbiter's run the scheduler chooses if it is offered the line (R144, `SchedulerChoosesByClass`).
That the fetch has the arbiter's whole run in it, and one choice after the run, is the model's choice (DESIGN CHOICE,
unsafe, log entry 12). -/
def Obligations.EvtFetchTakesTheOldest : Prop :=
  (∀ mark : Bool,
    let bytes := fun b : EventBody => EventRecord.encode { body := b, alerts := mark }
    let flag : Byte := if mark then 1 else 0
    (∀ e : EntryIdx,
      let i := byte e.val
      (∀ station service : Byte,
        bytes (.held e (.arrived station service)) = [1, flag, i, 0, 0, 0, 0, 0, station, service, 0, 0]) ∧
      (∀ (h : Handle) (len : Nat),
        bytes (.held e (.received h len)) = [2, flag, i, byte h.val, byte len, 0, 0, 0, 0, 0, 0, 0]) ∧
      (∀ (tag : Half) (h : Handle) (len : Nat),
        bytes (.held e (.unsent tag h len)) =
          [3, flag, i, byte h.val, byte len, tag.extractLsb' 0 8, tag.extractLsb' 8 8, 0, 0, 0, 0, 0]) ∧
      [EndReason.noAnswer, .badAck, .peerClosed, .peerReset, .refusedNoService, .refusedFull, .refusedStale,
        .protocol].map (fun why => bytes (.held e (.ended why))) =
          [1, 2, 3, 4, 5, 6, 7, 8].map (fun why => [4, flag, i, 0, 0, 0, 0, why, 0, 0, 0, 0]) ∧
      (∀ tag : Half,
        bytes (.sent e tag) = [5, flag, i, 0, 0, tag.extractLsb' 0 8, tag.extractLsb' 8 8, 0, 0, 0, 0, 0]) ∧
      bytes (.opened e) = [6, flag, i, 0, 0, 0, 0, 0, 0, 0, 0, 0] ∧
      (∀ timedOut : Bool,
        bytes (.closed e timedOut) = [7, if timedOut then flag + 2 else flag, i, 0, 0, 0, 0, 0, 0, 0, 0, 0]) ∧
      bytes (.peerWait e) = [8, flag, i, 0, 0, 0, 0, 0, 0, 0, 0, 0] ∧
      bytes (.peerReady e) = [9, flag, i, 0, 0, 0, 0, 0, 0, 0, 0, 0] ∧
      bytes (.starved e) = [10, flag, i, 0, 0, 0, 0, 0, 0, 0, 0, 0] ∧
      ∀ service : Byte, bytes (.listenDone e service) = [11, flag, i, 0, 0, 0, 0, 0, 0, service, 0, 0]) ∧
    (let told := fun (code station : Byte) => [12, flag, 0xFF, 0, 0, 0, 0, code, station, 0, 0, 0];
      [LineCode.started, .stopped, .claimed, .sole, .txFault].map (fun code => bytes (.line code)) =
        [1, 2, 3, 4, 5].map (fun code => told code 0) ∧
      ∀ a : Byte, bytes (.line (.duplicateTurn a)) = told 6 a ∧ bytes (.line (.stationPresent a)) = told 7 a ∧
        bytes (.line (.stationSilent a)) = told 8 a) ∧
    ∀ dropped : Nat, bytes (.overflow dropped) = [13, flag, 0xFF, 0, 0, 0, 0, 0, 0, 0, byte dropped, 0]) ∧
  (∀ ps : PortState, ps.attn = true ↔ ∃ rec ∈ ps.queue, rec.alerts = true) ∧
  ∀ (s : State) (r : Req) (n : Byte), s.hears r.port = true → r.rest = [] →
    (¬ (1 ≤ n.toNat ∧ n.toNat ≤ 8) → exec (.evtFetch r n) s = .next (s.refusing r 0x40 [n] .badArg)) ∧
    (1 ≤ n.toNat → n.toNat ≤ 8 →
      let p := r.port
      let taken := (s.port p).queue.take n.toNat
      let t := s.takeRecords p n.toNat
      let after := (s.taking p [0x40, r.tag, n]).fetch p n.toNat
      exec (.evtFetch r n) s =
        .next (s.served r 0x40 [n] .ok
          (byte taken.length :: taken.flatMap EventRecord.encode ++ [byte (after.port p).queue.length] ++
            twoBytes (after.noticesWaiting p))
          fun t => if (s.port p).queue = [] then t else ((t.takeRecords p n.toNat).runArbiter p).schedule) ∧
      t.port p = { s.port p with queue := (s.port p).queue.drop n.toNat } ∧
      (∀ h : Handle, h ∈ (t.account p).held ↔
        h ∈ (s.account p).held ∨ ∃ rec ∈ taken, rec.buffer = some h) ∧
      t.account p = { s.account p with held := (t.account p).held } ∧
      (∀ q : Port, q ≠ p → t.account q = s.account q ∧ t.port q = s.port q) ∧
      t = { s with
        pool := { s.pool with accounts := t.pool.accounts }
        ports := t.ports })

/-- R102: the refusals of EVT.FILTER, and the filter it sets. R200, R201: the codes of the filter values, and the place
of each kind, one below its code. -/
def Obligations.EvtFilterSetsTheFilter : Prop :=
  ([Filter.drop, .queue, .alert].map Filter.code = [0, 1, 2] ∧
    [FilterKind.arrived, .received, .unsent, .ended, .sent, .opened, .closed, .peerWait, .peerReady, .starved,
      .listenDone, .line].map FilterKind.slot = List.finRange 12) ∧
  ∀ (s : State) (r : Req) (kind filter : Byte), s.hears r.port = true → r.rest = [] →
    let kindOk := 1 ≤ kind.toNat ∧ kind.toNat ≤ 12
    let valueOk := filter.toNat ≤ 2
    let heldDrop := kind.toNat ≤ 4 ∧ filter = 0
    (¬ kindOk ∨ ¬ valueOk ∨ heldDrop →
      exec (.evtFilter r kind filter) s = .next (s.refusing r 0x41 [kind, filter] .badArg)) ∧
    (kindOk → ¬ heldDrop → ∀ (place : Fin 12) (f : Filter), place.val + 1 = kind.toNat → f.code = filter.toNat →
      exec (.evtFilter r kind filter) s =
        .next (s.served r 0x41 [kind, filter] .ok [byte (look (s.port r.port).filters place).code] fun t =>
          t.modPort r.port fun ps => { ps with filters := put ps.filters place f }))

/-- R103, R104: how a port takes a droppable event. R105: a held notice goes to its owner's queue when its list is empty
and the queue has room, and joins the list otherwise; an orphan's makes none (R7). R100: a LINE event is offered to each
of the four ports, by its own LINE filter, and nothing else changes. -/
def Obligations.EventAdmission : Prop :=
  (∀ (ps : PortState) (k : FilterKind) (b : EventBody), b.filterKind = some k →
    let f := look ps.filters k.slot
    (f = .drop → ps.offer b = ps) ∧
    (f ≠ .drop → ps.queue.length < 47 →
      ps.offer b = { ps with queue := ps.queue ++ [{ body := b, alerts := decide (f = .alert) }] }) ∧
    (f ≠ .drop → 47 ≤ ps.queue.length →
      (∀ (front : List EventRecord) (n : Nat) (mark : Bool),
        ps.queue = front ++ [{ body := .overflow n, alerts := mark }] →
        ps.offer b = { ps with queue := front ++ [{ body := .overflow (min 255 (n + 1)), alerts := mark }] }) ∧
      ((∀ rec, ps.queue.getLast? = some rec → ∀ n, rec.body ≠ .overflow n) →
        ps.offer b = { ps with queue := ps.queue ++ [{ body := .overflow 1, alerts := true }] }))) ∧
  (∀ (s : State) (e : EntryIdx) (p : Port) (n : Notice), (s.entry e).owner = some p →
    let c := s.entry e
    let ps := s.port p
    (c.orphan = true → s.makeNotice e n = s) ∧
    (c.orphan = false → c.notices = [] → ps.queue.length < 47 →
      s.makeNotice e n =
        s.setPort p
          { ps with queue := ps.queue ++ [{ body := .held e n, alerts := ps.filterOf (.held e n) = .alert }] }) ∧
    (c.orphan = false → (c.notices ≠ [] ∨ 47 ≤ ps.queue.length) →
      s.makeNotice e n = s.setEntry e { c with notices := c.notices ++ [n] })) ∧
  (∀ (s : State) (code : LineCode),
    let t := s.lineEvent code
    (EventBody.line code).filterKind = some .line ∧
    (∀ p : Port, t.port p = (s.port p).offer (.line code)) ∧ t = { s with ports := t.ports })

/-- R107, R109: one admission: the entry that comes first after the admission pointer, wrapping from 31 to 0, gives its
oldest notice to the queue's tail, and the pointer takes its index. Nothing is admitted at 47 records or more, and
nothing while no entry of the port has a notice waiting. R108, R51: what the admission brings about at the entry, where
`c` is the entry before it, and where it brings about nothing further. -/
def Obligations.AdmissionGoesByRotation : Prop :=
  (∀ (s : State) (p : Port),
    let ps := s.port p
    let waits := fun e : EntryIdx => (s.entry e).owner = some p ∧ (s.entry e).notices ≠ []
    (47 ≤ ps.queue.length → s.admitOne p = s) ∧
    ((∀ e, ¬ waits e) → s.admitOne p = s) ∧
    (∀ (e : EntryIdx) (n : Notice) (rest : List Notice), ps.queue.length < 47 → waits e →
      (s.entry e).notices = n :: rest →
      (∀ k, waits k → (e - (ps.admission + 1)).val ≤ (k - (ps.admission + 1)).val) →
      s.admitOne p =
        ((s.setEntry e { s.entry e with notices := rest }).setPort p
          { ps with
            queue := ps.queue ++ [{ body := .held e n, alerts := decide (ps.filterOf (.held e n) = .alert) }]
            admission := e }).afterAdmission e (s.entry e) n)) ∧
  (∀ (s : State) (e : EntryIdx) (c : ConnEntry) (n : Notice) (rest : List Notice),
    c.notices = n :: rest → s.entry e = { c with notices := rest } →
    ((c.state = .opened ∨ c.state = .draining) → (∃ h len, n = .received h len) →
      4 ≤ (c.notices.filter Notice.isReceived).length →
      s.afterAdmission e c n = s.setEntry e (s.entry e).endOfBusy) ∧
    (c.state = .closing → c.closeFinished = true → rest = [] → ∀ p : Port, c.owner = some p →
      s.afterAdmission e c n = (s.freeEntry e).modPort p (·.offer (.closed e c.closeTimedOut))) ∧
    ((c.state = .opened ∨ c.state = .draining) →
      ((∀ h len, n ≠ .received h len) ∨ (c.notices.filter Notice.isReceived).length < 4) →
      s.afterAdmission e c n = s) ∧
    ((c.state = .free ∨ c.state = .ended ∨ c.state = .opening ∨
        (c.state = .closing ∧ (c.closeFinished = false ∨ rest ≠ []))) →
      s.afterAdmission e c n = s))

/-- R107: NOTICE_ADMISSION is the arbiter's run, and the run is one admission after the other (`admitOne`, stated above)
until the queue holds 47 records or no notice of the port's entries waits, and not before. The run adds records to the
queue's tail alone, and changes no account, no buffer, no other port and no entry of another owner. The scheduler then
chooses if it is offered the line (R144, `SchedulerChoosesByClass`). That the command runs the arbiter until it stops,
and that one choice comes after the run, is the model's choice (DESIGN CHOICE, unsafe, log entry 12). -/
def Obligations.NoticeAdmissionRunsToAStop : Prop :=
  ∀ (s : State) (p : Port), ∃ (run : Nat → State) (n : Nat) (added : List EventRecord),
    let t := run n
    let waits := fun u : State => ∃ e : EntryIdx, (u.entry e).owner = some p ∧ (u.entry e).notices ≠ []
    exec (.noticeAdmission p) s = .next t.schedule ∧ s.runArbiter p = t ∧
    run 0 = s ∧ (∀ k : Nat, run (k + 1) = (run k).admitOne p) ∧
    (∀ k : Nat, k < n → ((run k).port p).queue.length < 47 ∧ waits (run k)) ∧
    (47 ≤ (t.port p).queue.length ∨ ¬ waits t) ∧
    t.port p =
      { s.port p with queue := (s.port p).queue ++ added, admission := (t.port p).admission } ∧
    (∀ q : Port, q ≠ p → t.port q = s.port q) ∧
    (∀ e : EntryIdx, (s.entry e).owner ≠ some p → t.entry e = s.entry e) ∧
    t.pool = s.pool ∧ t.listen = s.listen ∧ t.turn = s.turn ∧ t.line = s.line ∧ t.stats = s.stats ∧
    t.config = s.config ∧ t.pending = s.pending ∧ t.resetLow = s.resetLow ∧
    t.sched = { s.sched with tx := t.sched.tx } ∧
    (t.sched.tx.map fun x => { x with detached := false }) = s.sched.tx.map fun x => { x with detached := false }

/-! ### The ports -/

/-- R181: PORT.RESET makes a port reset and replies with what it did; R179, R180: so does the falling edge of PRSTn,
which also sets port in reset, and its release clears that and nothing else. After the reset the scheduler chooses if it
is offered the line (R144, `SchedulerChoosesByClass`); that this is one choice after the last of the reset's effects is
the model's choice (DESIGN CHOICE, unsafe, log entry 12). That a PRSTn which falls while RESET is asserted only sets
port in reset, and that one which is low already does not fall, is the model's reading (DEDUCED, log entry 6). That the
results of PORT.RESET are the differences between the part before and after the reset, by which a finished CLOSING entry
counts as freed and not as made an orphan, is the model's reading of R181 (DEDUCED, log entry 17). -/
def Obligations.PortResetByRequestAndByPin : Prop :=
  (∀ (s : State) (r : Req), s.hears r.port = true → r.rest = [] →
    let before := s.taking r.port [0x51, r.tag]
    exec (.portResetRequest r) s =
      .next (s.served r 0x51 [] .ok
        [byte ((before.portReset r.port).pool.freeList.length - s.pool.freeList.length),
          byte (s.entriesInUse - (before.portReset r.port).entriesInUse),
          byte ((before.portReset r.port).orphans - s.orphans),
          byte ((s.listen.filter fun l => l.owner = r.port).length),
          flagByte (decide (s.config.rightHolder = some r.port))]
        fun t => (t.portReset r.port).schedule)) ∧
  (∀ (s : State) (p : Port), s.resetLow = false → (s.port p).inReset = false →
    exec (.prstnAsserted p) s =
      .next (((s.portReset p).modPort p fun ps => { ps with inReset := true }).schedule)) ∧
  (∀ (s : State) (p : Port), (s.port p).inReset = true → exec (.prstnAsserted p) s = .next s) ∧
  (∀ (s : State) (p : Port), s.resetLow = true → (s.port p).inReset = false →
    exec (.prstnAsserted p) s = .next (s.modPort p fun ps => { ps with inReset := true })) ∧
  (∀ (s : State) (p : Port), exec (.prstnReleased p) s = .next (s.modPort p fun ps => { ps with inReset := false }))

/-- R182, R183: what a port reset leaves of the port, and what it leaves alone. An entry of the port is FREE or an
orphan in CLOSING afterwards, and its buffers join the free list, entry by entry in index order, as R22 lists. The frame
on the line is detached if its entry returns to FREE, and not otherwise (R17). Every other entry is as it was, but that
a starved one is examined once a buffer is released (R88, stated with the buffer requests). That the model's own record
of the bits on SDI and SDO stays at a port reset, and that its own mark `cutShort` then says that a transaction was in
progress, so that SDO carries zeros from there on (R179), is the model's choice (DESIGN CHOICE, unsafe, log entry 14).
-/
def Obligations.PortResetLeaves : Prop :=
  ∀ (s : State) (p : Port),
    let t := s.portReset p
    let freed := fun e : EntryIdx =>
      let c := s.entry e
      c.owner = some p ∧ c.orphan = false ∧
        (c.state = .opening ∨ (c.state = .closing ∧ c.closeFinished = true) ∨ (c.state = .ended ∧ c.unacked = []))
    let ofEntry := fun e : EntryIdx =>
      let c := s.entry e
      if c.owner = some p ∧ c.orphan = false then
        match c.state with
        | .opened | .draining =>
          (c.unacked.filter fun m => some m.sn ≠ s.messageOnLine e).map (·.msg.handle) ++
            c.sendQueue.map (·.handle) ++ c.notices.filterMap Notice.buffer
        | .closing | .ended => c.notices.filterMap Notice.buffer
        | .free | .opening => []
      else []
    let released :=
      (List.finRange 32).flatMap ofEntry ++ (s.port p).queue.filterMap EventRecord.buffer ++ (s.account p).held
    t.listen = s.listen.filter (fun l => l.owner ≠ p) ∧
    (t.port p).queue = [] ∧ (t.port p).filters = (State.reset.port p).filters ∧ (t.port p).admission = 31 ∧
    (t.port p).attn = false ∧ (t.port p).slot = none ∧ (t.port p).transaction = .idle ∧
    (t.port p).requestBytes = [] ∧ (t.port p).collectPos = 0 ∧ (t.account p).held = [] ∧
    (t.account p).reserve = (s.account p).reserve ∧ (t.account p).limit = (s.account p).limit ∧
    (t.port p).inReset = (s.port p).inReset ∧ (t.port p).selectLow = (s.port p).selectLow ∧
    (t.port p).sdi = (s.port p).sdi ∧ (t.port p).sdo = (s.port p).sdo ∧
    (t.port p).cutShort = ((s.port p).cutShort || decide ((s.port p).transaction ≠ .idle)) ∧
    t.pending = s.pending ∧ t.resetLow = s.resetLow ∧
    (∀ e : EntryIdx, (s.entry e).owner = some p → (s.entry e).orphan = false → (s.entry e).state ≠ .free →
      let c := s.entry e
      let onLine := s.messageOnLine e
      (c.state = .opening → t.entry e = {}) ∧
      ((c.state = .opened ∨ c.state = .draining) →
        t.entry e =
          { c with
            state := .closing, controlDue := .sendClose, retryCount := 0, answerTimer := none, answerPhase := 0,
            flags := {}, endReason := none, closeTimedOut := false, closeFinished := false, orphan := true,
            sendQueue := [], notices := [], unacked := c.unacked.filter fun m => some m.sn = onLine }) ∧
      (c.state = .closing → c.closeFinished = true → t.entry e = {}) ∧
      (c.state = .closing → c.closeFinished = false → c.flags.starved = false →
        t.entry e = { c with orphan := true, notices := [] }) ∧
      (c.state = .ended → c.unacked = [] → t.entry e = {}) ∧
      (c.state = .ended → c.unacked ≠ [] →
        t.entry e =
          { c with
            state := .closing, controlDue := .sendClose, retryCount := 0, answerTimer := none, answerPhase := 0,
            flags := {}, endReason := none, closeTimedOut := false, closeFinished := false, orphan := true,
            notices := [] })) ∧
    (∀ e : EntryIdx, ((s.entry e).owner ≠ some p ∨ (s.entry e).orphan = true) →
      (released = [] → t.entry e = s.entry e) ∧ (released ≠ [] → t.entry e = (s.entry e).reconsider t.pool)) ∧
    t.pool.freeList = s.pool.freeList ++ released ∧
    (t.account p).charge = (s.account p).charge - released.length ∧
    t.config = (if s.config.rightHolder = some p then { s.config with rightHolder := none } else s.config) ∧
    t.turn = s.turn ∧ t.sched = { s.sched with tx := t.sched.tx } ∧ (s.sched.tx = none → t.sched.tx = none) ∧
    (∀ x : TxRecord, s.sched.tx = some x →
      (∀ e : EntryIdx, x.origin = .entry e → freed e → t.sched.tx = some { x with detached := true }) ∧
      ((∀ e : EntryIdx, x.origin = .entry e → ¬ freed e) → t.sched.tx = some x)) ∧ t.line = s.line ∧
    t.stats = s.stats ∧ t.pool.mem = s.pool.mem ∧
    (∀ q : Port, q ≠ p → t.port q = s.port q ∧ t.account q = s.account q)

/-- R171 to R175: the transactions that no other statement takes. A known request with bytes after its fixed arguments
is refused BAD_ARG, but for BUF.WRITE, whose data bytes they are. An unknown code is refused UNKNOWN whatever follows
its tag. An incomplete record is answered TRUNCATED with its tag. A COLLECT empties the slot if it clocks out the whole
reply, and leaves it otherwise. An ignored transaction, which carries zeros on SDO, and a fall of select, change no
reply. Every bit counts, bit 7 of each byte first (R196, `TransactionsRoundTrip`). A fall of select with the bits
clocked until something else happens leaves the transaction as its complete bytes name it. R199, R177: the bytes of a
reply, and the codes of the statuses. That a SELECT_FALLS with select low already is no edge and changes nothing is the
model's reading (DEDUCED, log entry 6). What SDI and SDO have carried is kept in the model's own record (DESIGN CHOICE,
log entry 14), and that a command whose bits do not go on from those clocked before does nothing, while any other is
taken as if select had just fallen, is the model's choice (DESIGN CHOICE, log entry 2). That UNKNOWN_REQUEST with a
known code is answered UNKNOWN, and TRUNCATED_REQUEST of a complete record TRUNCATED, which no transaction is decoded
to, is the model's choice too (DESIGN CHOICE, log entry 15). -/
def Obligations.OtherTransactions : Prop :=
  (∀ reply : Reply,
    reply.encode =
      [byte reply.status.code, reply.tag, if reply.lost then 1 else 0, byte reply.results.length] ++ reply.results) ∧
  [Status.ok, .unknown, .badArg, .noRight, .notOwner, .badHandle, .badState, .offline, .tableFull, .queueFull, .noBuffer,
    .duplicate, .truncated, .none].map Status.code = [0, 1, 2, 3, 4, 5, 6, 7, 8, 9, 10, 11, 12, 13] ∧
  ∀ (s : State),
    (∀ (r : Req) (code : Byte) (args : List Byte) (i : Instr), s.hears r.port = true → r.rest ≠ [] →
      knownRequest r code args = some i → code ≠ 0x12 →
      exec i s = .next (s.refusing r code args .badArg)) ∧
    (∀ (r : Req) (code : Byte), s.hears r.port = true →
      exec (.unknownRequest r code) s = .next (s.refusing r code [] .unknown)) ∧
    (∀ (p : Port) (sdi : List Bool), s.hears p = true →
      let zeros := fun n : Nat => List.replicate n false
      let reply := (s.port p).slot.getD { status := .none, tag := 0, lost := false, results := [] }
      let sent := fun n : Nat => zeros 8 ++ ((bitsOf reply.encode).take n ++ zeros (n - 8 * reply.encode.length))
      let ends := fun (slot : Option Reply) (sdo : List Bool) =>
        s.modPort p fun ps =>
          { ps with
            selectLow := false, cutShort := false, transaction := .idle, requestBytes := [], collectPos := 0, sdi := []
            slot := slot, sdo := sdo }
      exec (.truncatedRequest p sdi) s =
        .next (ends
          (some
            { status := .truncated, tag := (bytesOf sdi)[1]?.getD 0, lost := (s.port p).slot.isSome, results := [] })
          (zeros (8 + sdi.length))) ∧
      exec (.collect p sdi) s =
        .next (ends (if 8 * reply.encode.length ≤ sdi.length then none else (s.port p).slot) (sent sdi.length)) ∧
      ((∀ first : Byte, (bytesOf sdi).head? = some first → first ≠ 0xA5 ∧ first ≠ 0x5A) →
        exec (.ignoredTransaction p sdi) s = .next (ends (s.port p).slot (zeros sdi.length)))) ∧
    (∀ (p : Port) (sdi : List Bool), (s.port p).selectLow = false →
      let zeros := fun n : Nat => List.replicate n false
      let reply := (s.port p).slot.getD { status := .none, tag := 0, lost := false, results := [] }
      let falls := exec (.selectFalls { port := p, sdi := sdi }) s
      let begins := fun (kind : Transaction) (bytes : List Byte) (pos : Nat) (sdo : List Bool) =>
        Host.Outcome.next (s.modPort p fun ps =>
          { ps with
            selectLow := true, transaction := kind, requestBytes := bytes, collectPos := pos, sdi := sdi, sdo := sdo })
      ((s.resetLow = true ∨ (s.port p).inReset = true) →
        falls = .next (s.modPort p fun ps => { ps with selectLow := true, transaction := .idle, sdi := [] })) ∧
      (s.resetLow = false → (s.port p).inReset = false →
        (sdi.length < 8 → falls = begins .begun [] 0 (zeros sdi.length)) ∧
        (∀ (first : Byte) (rest : List Byte), bytesOf sdi = first :: rest →
          (first = 0xA5 → falls = begins .request rest 0 (zeros sdi.length)) ∧
          (first = 0x5A →
            falls = begins .collect [] rest.length
              (zeros 8 ++ ((bitsOf reply.encode).take (sdi.length - 8) ++
                zeros (sdi.length - 8 - 8 * reply.encode.length)))) ∧
          (first ≠ 0xA5 → first ≠ 0x5A → falls = begins .ignored [] 0 (zeros sdi.length))))) ∧
    (∀ (p : Port) (sdi : List Bool), (s.port p).selectLow = true → exec (.selectFalls { port := p, sdi := sdi }) s = .next s) ∧
    (∀ (i : Instr) (w : Clocked), encodeTransaction i = some w → (s.port w.port).selectLow = true →
      (¬ (s.port w.port).sdi <+: w.sdi → exec i s = .next s) ∧
      ((s.port w.port).sdi <+: w.sdi → (s.port w.port).transaction ≠ .idle →
        exec i s =
          exec i (s.modPort w.port fun ps =>
            { ps with transaction := .begun, requestBytes := [], collectPos := 0, sdi := [], sdo := [] })))

/-- R179, R180, R184: a port takes no transaction whose select falls while PRSTn or RESET is asserted, and none that a
port reset or RESET has ended while select stayed low: whatever the host clocks, its rise of select leaves the
transaction IDLE and changes no other thing of the part. In a transaction that a port reset cut short SDO keeps the bits
it carried before the reset, and carries a zero for every bit from then on. The model's choice (DESIGN CHOICE, log entry
14): of SDO in the other cases, where the manual says nothing, the record stays. -/
def Obligations.PortInResetTakesNothing : Prop :=
  ∀ (s : State) (p : Port) (i : Instr) (w : Clocked), encodeTransaction i = some w → w.port = p →
    (((s.resetLow = true ∨ (s.port p).inReset = true) ∧ (s.port p).selectLow = false) ∨
      ((s.port p).selectLow = true ∧ (s.port p).transaction = .idle ∧ (s.port p).sdi <+: w.sdi)) →
      exec i s =
        .next (s.modPort p fun ps =>
          { ps with
            selectLow := false, cutShort := false, transaction := .idle, requestBytes := [], collectPos := 0, sdi := []
            sdo :=
              if ps.cutShort then ps.sdo ++ List.replicate (w.sdi.length - ps.sdo.length) false else ps.sdo })

/-! ### The configuration requests -/

/-- R188, R189: how the configuration right is taken and passed. -/
def Obligations.ConfigurationRightMoves : Prop :=
  ∀ (s : State) (r : Req), s.hears r.port = true → r.rest = [] →
    let holder := fun (t : State) (p : Port) => { t with config := { s.config with rightHolder := some p } }
    (s.config.rightHolder = none →
      exec (.cfgTake r) s = .next (s.served r 0x60 [] .ok [0] fun t => holder t r.port)) ∧
    (s.config.rightHolder = some r.port → exec (.cfgTake r) s = .next (s.served r 0x60 [] .ok [1] id)) ∧
    (∀ q : Port, s.config.rightHolder = some q → q ≠ r.port →
      exec (.cfgTake r) s = .next (s.refusing r 0x60 [] .noRight)) ∧
    (∀ heir : Byte,
      (3 < heir.toNat → exec (.cfgPass r heir) s = .next (s.refusing r 0x61 [heir] .badArg)) ∧
      (heir.toNat ≤ 3 → s.config.rightHolder ≠ some r.port →
        exec (.cfgPass r heir) s = .next (s.refusing r 0x61 [heir] .noRight)) ∧
      (∀ q : Port, heir.toNat = q.val → s.config.rightHolder = some r.port →
        exec (.cfgPass r heir) s = .next (s.served r 0x61 [heir] .ok [] fun t => holder t q)))

/-- R191: the checks of CFG.STATION in their order, and the address it replaces. -/
def Obligations.CfgStationSetsTheAddress : Prop :=
  ∀ (s : State) (r : Req) (station : Byte), s.hears r.port = true → r.rest = [] →
    let command := Instr.cfgStation r station
    let range := 1 ≤ station.toNat ∧ station.toNat ≤ 62
    let listed := ∃ x ∈ s.turn.list, x.address = station
    (¬ range → exec command s = .next (s.refusing r 0x62 [station] .badArg)) ∧
    (range → s.config.rightHolder ≠ some r.port →
      exec command s = .next (s.refusing r 0x62 [station] .noRight)) ∧
    (range → s.config.rightHolder = some r.port → s.turn.engine ≠ .offline →
      exec command s = .next (s.refusing r 0x62 [station] .badState)) ∧
    (range → s.config.rightHolder = some r.port → s.turn.engine = .offline → listed →
      exec command s = .next (s.refusing r 0x62 [station] .badArg)) ∧
    (range → s.config.rightHolder = some r.port → s.turn.engine = .offline → ¬ listed →
      exec command s =
        .next (s.served r 0x62 [station] .ok [s.config.station] fun t =>
          { t with config := { s.config with station := station } }))

/-- R192: the checks of CFG.LINE, the seven parameters it replaces, and the reception that a change of the bit rate
abandons; R193: what CFG.READ then reports; the codes of the bit rates. That a change of the bit rate with no frame
being received leaves the line interface as it was is the model's reading of R192 (DEDUCED, log entry 7). -/
def Obligations.CfgLineReplacesAndCfgReadReports : Prop :=
  [BitRate.kbit250, .kbit500, .mbit1, .mbit2, .mbit4].map BitRate.code = [0, 1, 2, 3, 4] ∧
  ∀ (s : State) (r : Req), s.hears r.port = true → r.rest = [] →
    (∀ (bitRate turnResponse lostBase claimSlot turnBudget holdLimit probeInterval : Byte),
      let args := [bitRate, turnResponse, lostBase, claimSlot, turnBudget, holdLimit, probeInterval]
      let command := Instr.cfgLine r bitRate turnResponse lostBase claimSlot turnBudget holdLimit probeInterval
      let ranges := bitRate.toNat ≤ 4 ∧ 2 ≤ turnResponse.toNat ∧ 1 ≤ lostBase.toNat ∧ 1 ≤ claimSlot.toNat ∧
        1 ≤ turnBudget.toNat ∧ turnBudget.toNat ≤ 32 ∧ 1 ≤ holdLimit.toNat ∧ 1 ≤ probeInterval.toNat
      (¬ ranges → exec command s = .next (s.refusing r 0x63 args .badArg)) ∧
      (ranges → s.config.rightHolder ≠ some r.port → exec command s = .next (s.refusing r 0x63 args .noRight)) ∧
      (ranges → s.config.rightHolder = some r.port → s.turn.engine ≠ .offline →
        exec command s = .next (s.refusing r 0x63 args .badState)) ∧
      (∀ rate : BitRate, ranges → rate.code = bitRate.toNat → s.config.rightHolder = some r.port →
        s.turn.engine = .offline →
        let params : LineParams :=
          { bitRate := rate, turnResponse := turnResponse.toNat, lostBase := lostBase.toNat,
            claimSlot := claimSlot.toNat, turnBudget := turnBudget.toNat, holdLimit := holdLimit.toNat,
            probeInterval := probeInterval.toNat }
        ((rate = s.config.params.bitRate ∨ s.line.receiving = false) →
          exec command s =
            .next (s.served r 0x63 args .ok [] fun t => { t with config := { s.config with params := params } })) ∧
        (rate ≠ s.config.params.bitRate → s.line.receiving = true →
          exec command s =
            .next (s.served r 0x63 args .ok [] fun t =>
              { t with
                config := { s.config with params := params }
                line := { receiving := false, ignoring := true }
                stats := s.stats.checkError })))) ∧
    (let g := s.config
      let quota := fun p : Port => [byte (s.account p).reserve, byte (s.account p).limit]
      exec (.cfgRead r) s =
        .next (s.served r 0x65 [] .ok
          ([(g.rightHolder.map fun p => byte p.val).getD 0xFF, g.station, byte g.params.bitRate.code,
            byte g.params.turnResponse, byte g.params.lostBase, byte g.params.claimSlot,
            byte g.params.turnBudget, byte g.params.holdLimit, byte g.params.probeInterval] ++
            quota 0 ++ quota 1 ++ quota 2 ++ quota 3) id))

/-- R93: the checks of CFG.QUOTA in their order, and the reserve and limit it replaces. -/
def Obligations.CfgQuotaKeepsTheReserveLaw : Prop :=
  ∀ (s : State) (r : Req) (port reserve limit : Byte), s.hears r.port = true → r.rest = [] →
    let args := [port, reserve, limit]
    let command := Instr.cfgQuota r port reserve limit
    let ranges := port.toNat ≤ 3 ∧ reserve.toNat ≤ limit.toNat ∧ limit.toNat ≤ 192
    (¬ ranges → exec command s = .next (s.refusing r 0x64 args .badArg)) ∧
    (ranges → s.config.rightHolder ≠ some r.port → exec command s = .next (s.refusing r 0x64 args .noRight)) ∧
    (∀ q : Port, ranges → port.toNat = q.val → s.config.rightHolder = some r.port →
      let newReserve := fun k : Port => if k = q then reserve.toNat else (s.account k).reserve
      let total := newReserve 0 + newReserve 1 + newReserve 2 + newReserve 3
      let unused := fun k : Port => newReserve k - (s.account k).charge
      let covered := unused 0 + unused 1 + unused 2 + unused 3 ≤ s.pool.freeList.length
      (¬ (total ≤ 192 ∧ covered) → exec command s = .next (s.refusing r 0x64 args .badArg)) ∧
      (total ≤ 192 ∧ covered →
        exec command s =
          .next (s.served r 0x64 args .ok [] fun t =>
            { t with
              pool :=
                { s.pool with
                  accounts :=
                    put s.pool.accounts q
                      { s.account q with reserve := reserve.toNat, limit := limit.toNat } } })))

/-! ### The turn list and the line requests -/

/-- R119, R120: the checks of TURN.ADD and TURN.REMOVE in their order, and the record that joins or leaves the list. The
record stands at its place in address order. A TURN.ADD that ends sole mode in HOLDING with no frame on the line ends
the turn at once if there is nothing to send (R133), and the scheduler chooses otherwise (R144,
`SchedulerChoosesByClass`). -/
def Obligations.TurnListChanges : Prop :=
  ∀ (s : State) (r : Req) (station : Byte), s.hears r.port = true → r.rest = [] →
    let range := 1 ≤ station.toNat ∧ station.toNat ≤ 62
    let right := s.config.rightHolder = some r.port
    let listed := ∃ x ∈ s.turn.list, x.address = station
    let add := Instr.turnAdd r station
    let remove := Instr.turnRemove r station
    (¬ range → exec add s = .next (s.refusing r 0x70 [station] .badArg) ∧
      exec remove s = .next (s.refusing r 0x71 [station] .badArg)) ∧
    (range → right → station = s.config.station → exec add s = .next (s.refusing r 0x70 [station] .badArg)) ∧
    (range → right → station ≠ s.config.station → listed →
      exec add s = .next (s.refusing r 0x70 [station] .duplicate)) ∧
    (range → right → station ≠ s.config.station → ¬ listed → 32 ≤ s.turn.list.length →
      exec add s = .next (s.refusing r 0x70 [station] .tableFull)) ∧
    (range → right → station ≠ s.config.station → s.turn.list.length < 32 →
      let idleSole := s.turn.engine = .holding ∧ s.sched.tx = none ∧ s.turn.list.any (·.present) = false
      ∀ front back : List Station, s.turn.list = front ++ back →
        (∀ x ∈ front, x.address.toNat < station.toNat) → (∀ x ∈ back, station.toNat < x.address.toNat) →
        let added := fun t : State =>
          { t with turn := { s.turn with list := front ++ { address := station, present := true } :: back } }
        (¬ idleSole → exec add s = .next (s.served r 0x70 [station] .ok [] added)) ∧
        (idleSole → exec add s =
          .next (s.served r 0x70 [station] .ok [] fun t =>
            if (added t).hasWork = true then (added t).schedule else (added t).endTurn))) ∧
    (range → right → ¬ listed → exec remove s = .next (s.refusing r 0x71 [station] .badArg)) ∧
    (range → right → listed →
      exec remove s =
        .next (s.served r 0x71 [station] .ok [] fun t =>
          { t with turn := { s.turn with list := s.turn.list.filter fun x => x.address ≠ station } }))

/-- R178, R121, R168, R200, R201: PORT.INFO reports the port's own things; TURN.LIST and LINE.STATUS report to any port;
none of them changes a thing, but that LINE.STATUS with CLEAR, from the holder of the right, sets the six counters to 0
after reading them. R201: the codes of the line engine's states. That the ten bytes of PORT.INFO are those of R178 and
R201, and hold no free count, against row 6 of R186, is the model's reading (DEDUCED, log entry 22). -/
def Obligations.PortAndLineReports : Prop :=
  [LineState.offline, .waiting, .holding, .handing, .stopping].map LineState.code = [0, 1, 2, 3, 4] ∧
  (∀ (s : State) (r : Req), s.hears r.port = true → r.rest = [] →
    let p := r.port
    let a := s.account p
    let waiting := ((s.entries.toList.filter fun c => c.owner = some p).map fun c => c.notices.length).sum
    let owned := (s.entries.toList.filter fun c =>
      decide (c.owner = some p) && decide (c.state ≠ .free) && !c.orphan).length
    let offers := (s.listen.filter fun l => l.owner = p).length
    let flags := (if s.pool.canAllocate p then 1 else 0) + (if (s.port p).queue.any (·.alerts) then 2 else 0) +
      (if s.config.rightHolder = some p then 4 else 0)
    exec (.portInfo r) s =
      .next (s.served r 0x50 [] .ok
        [byte a.charge, byte a.reserve, byte a.limit, byte flags, byte a.held.length,
          byte (s.port p).queue.length, byte waiting, byte (waiting / 256), byte owned, byte offers] id)) ∧
  (∀ (s : State) (r : Req), s.hears r.port = true → r.rest = [] →
    let two := fun n : Nat => [byte n, byte (n / 256)]
    let report :=
      [byte s.turn.engine.code, s.config.station, if s.turn.list.any (·.present) then 0 else 1,
        byte s.turn.list.length, byte (s.turn.list.filter fun x => x.present = false).length,
        byte s.turn.frameCount, byte s.turn.rotation, s.turn.probeCursor, s.turn.target.getD 0,
        byte s.sched.strays.length] ++
      two s.stats.framesForUs ++ two s.stats.checkErrors ++ two s.stats.formatErrors ++ two s.stats.strays ++
      two s.stats.straysNotMade ++ two s.stats.handoverFailures
    exec (.turnList r) s =
      .next (s.served r 0x72 [] .ok
        (byte s.turn.list.length :: s.config.station ::
          s.turn.list.map fun x => x.address ||| (if x.present then 0 else 0x80)) id) ∧
    exec (.lineStatus r 0) s = .next (s.served r 0x82 [0] .ok report id) ∧
    (s.config.rightHolder = some r.port →
      exec (.lineStatus r 1) s = .next (s.served r 0x82 [1] .ok report fun t => { t with stats := {} })) ∧
    (∀ clear : Byte, 1 < clear.toNat →
      exec (.lineStatus r clear) s = .next (s.refusing r 0x82 [clear] .badArg)))

/-- R124: LINE.START, its refusals, and the rotation it joins with the lost time of R125. -/
def Obligations.LineStartJoinsTheRotation : Prop :=
  ∀ (s : State) (r : Req), s.hears r.port = true → r.rest = [] → s.config.rightHolder = some r.port →
    ((s.turn.engine ≠ .offline ∨ s.config.station = 0) →
      exec (.lineStart r) s = .next (s.refusing r 0x80 [] .badState)) ∧
    (s.turn.engine = .offline → s.config.station ≠ 0 →
      exec (.lineStart r) s =
        .next (s.served r 0x80 [] .ok [] fun t =>
          ({ t with
            turn :=
              { s.turn with
                engine := .waiting, frameCount := 0, rotation := 0, target := none, kind := none, attempt := none,
                lostTimer :=
                  some
                    (100 * s.config.params.lostBase +
                      s.config.station.toNat * (10 * s.config.params.claimSlot))
                holdTimer := none, responseTimer := none } } : State).lineEvent .started))

/-- R139, R140: LINE.STOP, its refusals, and the way the line engine leaves the rotation. That STOPPING keeps the target
of the handover it was entered from, has no kind and no attempt, and takes the target of the TURN it sends, is the
model's reading of R116 (DEDUCED, log entry 19). -/
def Obligations.LineStopLeavesTheRotation : Prop :=
  ∀ (s : State) (r : Req), s.hears r.port = true → r.rest = [] → s.config.rightHolder = some r.port →
    let busy := ∃ e : EntryIdx, (s.entry e).state ≠ .free ∧ (s.entry e).state ≠ .ended
    let offline := fun t : State =>
      ({ t with
        turn :=
          { s.turn with
            engine := .offline, frameCount := 0, target := none, kind := none, attempt := none,
            lostTimer := none, holdTimer := none, responseTimer := none }
        sched := { s.sched with strays := [] } } : State).lineEvent .stopped
    let stopping : TurnController :=
      { s.turn with engine := .stopping, kind := none, attempt := none, holdTimer := none, responseTimer := none }
    let stops := fun (state : Byte) (f : State → State) =>
      exec (.lineStop r) s = .next (s.served r 0x81 [] .ok [state] f)
    ((s.turn.engine = .offline ∨ s.turn.engine = .stopping ∨ busy) →
      exec (.lineStop r) s = .next (s.refusing r 0x81 [] .badState)) ∧
    (¬ busy → s.turn.engine = .waiting → stops 0 offline) ∧
    (¬ busy → s.turn.engine = .handing → s.sched.tx = none → stops 0 offline) ∧
    (¬ busy → s.turn.engine = .handing → s.sched.tx ≠ none → stops 4 fun t => { t with turn := stopping }) ∧
    (¬ busy → s.turn.engine = .holding → s.sched.tx ≠ none → stops 4 fun t => { t with turn := stopping }) ∧
    (¬ busy → s.turn.engine = .holding → s.sched.tx = none → s.turn.list.any (·.present) = false →
      stops 0 offline) ∧
    (¬ busy → s.turn.engine = .holding → s.sched.tx = none →
      ∀ a : Byte, s.turn.successor s.config.station = some a →
        stops 4 fun t =>
          { t with
            line := { s.line with receiving := false }
            stats := if s.line.receiving then s.stats.checkError else s.stats
            turn := { stopping with target := some a }
            sched :=
              { s.sched with
                tx :=
                  some
                    { origin := .turn a
                      frame :=
                        { dest := a, src := s.config.station, kind := .turn, dci := 0xFF, sci := 0xFF, seq := 0,
                          payload := [] }
                      sn := none, discharged := {}, detached := false } } })

/-! ### Reception -/

/-- R159, R125, R130: a frame start, by the line engine's state. The lost timer restarts in WAITING; in HANDING with the
turn response timer running the handover succeeds, and a probed SILENT target becomes PRESENT; else nothing but the
reception itself changes. -/
def Obligations.FrameStartByLineState : Prop :=
  ∀ s : State, s.resetLow = false → s.sched.tx = none → s.line.ignoring = false → s.line.receiving = false →
    let lost := some (100 * s.config.params.lostBase + s.config.station.toNat * (10 * s.config.params.claimSlot))
    let begun := fun t : State => { t with line := { s.line with receiving := true } }
    let waiting : TurnController :=
      { s.turn with
        engine := .waiting, target := none, kind := none, attempt := none, lostTimer := lost, holdTimer := none,
        responseTimer := none }
    let silentProbe := fun a : Byte => s.turn.kind = some .probe ∧ s.turn.target = some a ∧
      ∃ x ∈ s.turn.list, x.address = a ∧ x.present = false
    (s.turn.engine = .waiting →
      exec .frameStart s = .next (begun { s with turn := { s.turn with lostTimer := lost } })) ∧
    (s.turn.engine = .handing → s.turn.responseTimer ≠ none → ∀ a : Byte, silentProbe a →
      exec .frameStart s =
        .next (begun
          (({ s with
              turn :=
                { waiting with
                  list := s.turn.list.map fun x => if x.address = a then { x with present := true } else x } } :
              State).lineEvent (.stationPresent a)))) ∧
    (s.turn.engine = .handing → s.turn.responseTimer ≠ none → (∀ a : Byte, ¬ silentProbe a) →
      exec .frameStart s = .next (begun { s with turn := waiting })) ∧
    ((s.turn.engine = .offline ∨ s.turn.engine = .holding ∨ s.turn.engine = .stopping ∨
        (s.turn.engine = .handing ∧ s.turn.responseTimer = none)) →
      exec .frameStart s = .next (begun s))

/-- R160, R163, R157: a frame end of a frame whose start was reported. A frame that fails checks 1 to 3 counts one check
error, one that fails checks 4 to 6 one format error, and neither reaches anything else. A good frame for another
station is reported to the turn controller alone. The line's return to idle ends the ignoring of the line. R167:
counting in any of the six counters adds 1 to it, 65535 stays, and the other five keep their values. R160 checks 4 to 6,
R162, R197: which bytes make a good frame, and which a format error. That a frame end of more than 256 bytes counts one
check error and leaves the line ignored, as one cut off does, is the model's reading of R157 and R160 (DEDUCED, log
entry 7), and so are that a report of a frame start or a frame end changes nothing while RESET is asserted, the part
transmits or the line is ignored, and that a frame start changes nothing while a frame is being received (DEDUCED, log
entry 9). -/
def Obligations.FrameEndCountsAndReports : Prop :=
  (∀ s : State, (s.resetLow = true ∨ s.sched.tx ≠ none ∨ s.line.ignoring = true) →
    (∀ (status : FrameStatus) (bytes : List Byte), exec (.frameEnd status bytes) s = .next s) ∧
    ∀ (h : RxHead) (payload : List Byte) (a b : Byte) (i : Instr),
      i ∈ [Instr.dataReceived h payload, .readyReceived h, .waitReceived h, .repeatReceived h, .openReceived h a b,
        .acceptReceived h a, .refuseReceived h a, .closeReceived h, .closedReceived h a, .turnReceived h] →
      exec i s = .next s) ∧
  (∀ s : State,
    (s.resetLow = true ∨ s.sched.tx ≠ none ∨ s.line.ignoring = true ∨ s.line.receiving = true) →
      exec .frameStart s = .next s) ∧
  (∀ (own : Byte) (body : List Byte),
    (∀ f : Frame,
      let n := f.payload.length
      checkFormat own body = .good f ↔
        body = [f.dest, f.src, byte (16 * f.kind.code), f.dci, f.sci, f.seq, byte n] ++ f.payload ∧
        (match f.kind with
          | .data => 1 ≤ n ∧ n ≤ 240
          | .opening => n = 2
          | .accept | .refuse | .closed => n = 1
          | .ready | .wait | .rept | .close | .turn => n = 0) ∧
        (1 ≤ f.dest.toNat ∧ f.dest.toNat ≤ 62) ∧ (1 ≤ f.src.toNat ∧ f.src.toNat ≤ 62) ∧ f.src ≠ own) ∧
    ((∀ f : Frame, checkFormat own body ≠ .good f) → checkFormat own body = .formatError)) ∧
  (∀ (s : State) (status : FrameStatus) (bytes : List Byte),
    s.listening → s.line.receiving = true →
    let ended := { s with line := { s.line with receiving := false } }
    let body := bytes.take (bytes.length - 2)
    let intact := status = .good ∧ 9 ≤ bytes.length ∧ bytes.length ≤ 256 ∧
      bytes.drop (bytes.length - 2) = halfBytes (checkSequence body)
    (¬ intact →
      exec (.frameEnd status bytes) s =
        .next
          { ended with
            stats := s.stats.checkError
            line := { ended.line with ignoring := decide (status = .cutOff ∨ 256 < bytes.length) } }) ∧
    (intact → checkFormat s.config.station body = .formatError →
      exec (.frameEnd status bytes) s = .next { ended with stats := s.stats.formatError }) ∧
    (intact → ∀ f : Frame, checkFormat s.config.station body = .good f → f.dest ≠ s.config.station →
      exec (.frameEnd status bytes) s = .next ((ended.hearStation f.src).turnFrameEnd f))) ∧
  (∀ s : State, exec .lineReturnsToIdle s = .next { s with line := { s.line with ignoring := false } }) ∧
  (∀ k : Counters,
    let more := fun n : Nat => min 65535 (n + 1)
    k.frameForUs = { k with framesForUs := more k.framesForUs } ∧
    k.checkError = { k with checkErrors := more k.checkErrors } ∧
    k.formatError = { k with formatErrors := more k.formatErrors } ∧
    k.stray = { k with strays := more k.strays } ∧
    k.strayNotMade = { k with straysNotMade := more k.straysNotMade } ∧
    k.handoverFailure = { k with handoverFailures := more k.handoverFailures })

/-- R158, R160 to R162, R197, R198: a typed reception is the frame end of its frame on the line: what a station sends by
the layout of R197, with the check sequence of R161 behind it, passes the six checks and is taken as that kind. R161:
the check register over no byte, and what each further byte makes of it, most significant bit first. R198: the kind
codes. R197: the bytes of a frame. -/
def Obligations.ReceptionsAreFrameEnds : Prop :=
  (checkSequence [] = 0xFFFF ∧
    ∀ (front : List Byte) (b : Byte),
      checkSequence (front ++ [b]) =
        [7, 6, 5, 4, 3, 2, 1, 0].foldl
          (fun (reg : Half) (i : Nat) =>
            if b.getLsbD i = reg.getLsbD 15 then reg <<< 1 else (reg <<< 1) ^^^ 0x8005)
          (checkSequence front)) ∧
  [FrameKind.data, .ready, .wait, .rept, .opening, .accept, .refuse, .close, .closed, .turn].map FrameKind.code =
    [1, 2, 3, 4, 8, 9, 10, 11, 12, 15] ∧
  (∀ f : Frame,
    let body := [f.dest, f.src, byte (16 * f.kind.code), f.dci, f.sci, f.seq, byte f.payload.length] ++ f.payload
    let check := checkSequence body
    f.encode = body ++ [check.extractLsb' 0 8, check.extractLsb' 8 8]) ∧
  ∀ (s : State) (h : RxHead), s.canHear h →
    let line := fun (k : FrameKind) (payload : List Byte) =>
      exec (.frameEnd .good (s.frameFrom h k payload).encode) s
    (∀ payload : List Byte, 1 ≤ payload.length → payload.length ≤ 240 →
      line .data payload = exec (.dataReceived h payload) s) ∧
    line .ready [] = exec (.readyReceived h) s ∧
    line .wait [] = exec (.waitReceived h) s ∧
    line .rept [] = exec (.repeatReceived h) s ∧
    (∀ service window : Byte, line .opening [service, window] = exec (.openReceived h service window) s) ∧
    (∀ window : Byte, line .accept [window] = exec (.acceptReceived h window) s) ∧
    (∀ reason : Byte, line .refuse [reason] = exec (.refuseReceived h reason) s) ∧
    line .close [] = exec (.closeReceived h) s ∧
    (∀ reason : Byte, line .closed [reason] = exec (.closedReceived h reason) s) ∧
    line .turn [] = exec (.turnReceived h) s

/-- R134 to R137, R126: what a good frame does to the turn, by the line engine's state, when its start was reported
before. A TURN to the part begins a turn in WAITING and renews it in HOLDING. Any other frame, whatever its destination,
makes a holding part yield, a TURN to another station among them. In the other cases the turn is as it was. The clauses
that name `canHear` say so of the receptions whose source is no SILENT station. The last clauses say so of the frames
for another station. A SILENT source is marked PRESENT first, with its event, which ends sole mode. A turn that begins
or is renewed offers the line in the same reception (R144, `SchedulerChoosesByClass`). That a TURN from a SILENT source
in sole mode is thereby renewed, and with nothing to send ends at that choice, is the model's reading of R133, R134 and
R136 (DEDUCED, log entry 11). -/
def Obligations.TurnControllerTakesGoodFrames : Prop :=
  (∀ (s : State) (h : RxHead), s.canHear h → s.line.receiving = true →
    (∀ x ∈ s.turn.list, x.address = h.src → x.present = true) →
    let counted := fun t : TurnController =>
      { s with turn := t, line := { s.line with receiving := false }, stats := s.stats.frameForUs }
    let more := if s.turn.rotation < 255 then s.turn.rotation + 1 else 255
    (s.turn.engine = .waiting →
      exec (.turnReceived h) s =
        .next (counted
          { s.turn with
            engine := .holding, frameCount := 0, holdTimer := some (100 * s.config.params.holdLimit),
            rotation := more, lostTimer := none }).schedule) ∧
    (s.turn.engine = .holding →
      exec (.turnReceived h) s =
        .next ((counted
          { s.turn with
            frameCount := 0, holdTimer := some (100 * s.config.params.holdLimit),
            rotation := more }).lineEvent (.duplicateTurn h.src)).schedule) ∧
    ((s.turn.engine = .offline ∨ s.turn.engine = .handing ∨ s.turn.engine = .stopping) →
      exec (.turnReceived h) s = .next (counted s.turn)) ∧
    (∀ (k : FrameKind) (payload : List Byte), k ≠ .turn →
      let f := s.frameFrom h k payload
      (s.turn.engine = .holding →
        s.reached f =
          (counted
            { s.turn with
              engine := .waiting, holdTimer := none, responseTimer := none,
              lostTimer :=
                some
                  (100 * s.config.params.lostBase +
                    s.config.station.toNat * (10 * s.config.params.claimSlot)) }).lineEvent
            (.duplicateTurn h.src)) ∧
      (s.turn.engine ≠ .holding → s.reached f = counted s.turn))) ∧
  (∀ (s : State) (h : RxHead), s.canHear h → s.line.receiving = true → s.turn.engine ≠ .offline →
    (∃ x ∈ s.turn.list, x.address = h.src ∧ x.present = false) →
    let list := s.turn.list.map fun x => if x.address = h.src then { x with present := true } else x
    let hold := some (100 * s.config.params.holdLimit)
    let more := if s.turn.rotation < 255 then s.turn.rotation + 1 else 255
    let marked : State :=
      ({ s with
        turn := { s.turn with list := list }
        line := { s.line with receiving := false }
        stats := s.stats.frameForUs } : State).lineEvent (.stationPresent h.src)
    (s.turn.engine = .waiting →
      exec (.turnReceived h) s =
        .next ({ marked with
          turn :=
            { s.turn with
              list := list, engine := .holding, frameCount := 0, holdTimer := hold, rotation := more,
              lostTimer := none } } : State).schedule) ∧
    (s.turn.engine = .holding →
      exec (.turnReceived h) s =
        .next ((({ marked with
          turn := { s.turn with list := list, frameCount := 0, holdTimer := hold, rotation := more } } :
          State).lineEvent (.duplicateTurn h.src)).schedule)) ∧
    ((s.turn.engine = .handing ∨ s.turn.engine = .stopping) → exec (.turnReceived h) s = .next marked)) ∧
  (∀ (s : State) (src : Byte),
    (s.turn.engine ≠ .offline → (∃ x ∈ s.turn.list, x.address = src ∧ x.present = false) →
      s.hearStation src =
        ({ s with
          turn :=
            { s.turn with
              list := s.turn.list.map fun x => if x.address = src then { x with present := true } else x } } :
          State).lineEvent (.stationPresent src)) ∧
    ((s.turn.engine = .offline ∨ ∀ x ∈ s.turn.list, x.address = src → x.present = true) →
      s.hearStation src = s)) ∧
  (∀ (s : State) (f : Frame),
    let ours := f.kind = .turn ∧ f.dest = s.config.station
    let hold := some (100 * s.config.params.holdLimit)
    let more := if s.turn.rotation < 255 then s.turn.rotation + 1 else 255
    let yields :=
      ({ s with
        turn :=
          { s.turn with
            engine := .waiting, holdTimer := none, responseTimer := none,
            lostTimer :=
              some (100 * s.config.params.lostBase + s.config.station.toNat * (10 * s.config.params.claimSlot)) } } :
        State).lineEvent (.duplicateTurn f.src)
    (s.turn.engine = .holding → ¬ ours → s.turnFrameEnd f = yields) ∧
    (s.turn.engine = .holding → ours →
      s.turnFrameEnd f =
        (({ s with turn := { s.turn with frameCount := 0, holdTimer := hold, rotation := more } } : State).lineEvent
          (.duplicateTurn f.src)).schedule) ∧
    (s.turn.engine = .waiting → ours →
      s.turnFrameEnd f =
        ({ s with
          turn :=
            { s.turn with
              engine := .holding, frameCount := 0, holdTimer := hold, rotation := more, lostTimer := none } } :
          State).schedule) ∧
    ((s.turn.engine = .offline ∨ s.turn.engine = .handing ∨ s.turn.engine = .stopping ∨
        (s.turn.engine = .waiting ∧ ¬ ours)) →
      s.turnFrameEnd f = s)) ∧
  (∀ (s : State) (body : List Byte) (f : Frame), s.listening → s.line.receiving = true →
    7 ≤ body.length → body.length ≤ 254 → checkFormat s.config.station body = .good f → f.dest ≠ s.config.station →
    (∀ x ∈ s.turn.list, x.address = f.src → x.present = true) →
    let ended : State := { s with line := { s.line with receiving := false } }
    let reported := exec (.frameEnd .good (body ++ halfBytes (checkSequence body))) s
    (s.turn.engine = .holding →
      reported =
        .next
          (({ ended with
              turn :=
                { s.turn with
                  engine := .waiting, holdTimer := none, responseTimer := none,
                  lostTimer :=
                    some
                      (100 * s.config.params.lostBase +
                        s.config.station.toNat * (10 * s.config.params.claimSlot)) } } : State).lineEvent
            (.duplicateTurn f.src))) ∧
    (s.turn.engine ≠ .holding → reported = .next ended))

/-- R33, R40, R86, R12: DATA that an OPEN or DRAINING entry accepts, on the part `v` that its acknowledgement leaves
(R34, stated with the status frames below): the buffer from the head of the free list, the payload in its first bytes,
VR, the flags, the RECEIVED notice, and what the steps 4 to 6 of R33 make of the entry. The notice is made by
`makeNotice`, which `EventAdmission` spells out (R105): it joins the owner's queue with its mark, or the list, and
nothing else of the part changes. -/
def Obligations.DataIsAccepted : Prop :=
  ∀ (s : State) (h : RxHead) (payload : List Byte) (e : EntryIdx) (p : Port) (b : Handle) (tail : List Handle),
    s.canHear h → 1 ≤ payload.length → payload.length ≤ 240 → h.dci.toNat = e.val →
    ((s.entry e).state = .opened ∨ (s.entry e).state = .draining) → (s.entry e).remoteStation = some h.src →
    (s.entry e).remoteIndex = some h.sci → (s.entry e).owner = some p → (s.entry e).orphan = false →
    let n := (seqEN h.seq - (s.entry e).va).toNat
    let u := s.reached (s.frameFrom h .data payload)
    let v := u.acknowledge e (seqEN h.seq) n
    let c := (v.entry e).answeredBy (seqA h.seq)
    n ≤ (s.entry e).unacked.length → seqSN h.seq = c.vr → c.busy = false →
    v.pool.freeList = b :: tail → v.pool.canAllocate p = true →
    ∃ t, exec (.dataReceived h payload) s = .next t ∧
      t.pool.freeList = tail ∧ t.account p = { v.account p with charge := (v.account p).charge + 1 } ∧
      (∀ q : Port, q ≠ p → t.account q = s.account q ∧ t.port q = u.port q) ∧
      (s.pool.mem.wf = true → ∀ (k : Handle) (i : Nat), i < 240 →
        t.pool.byteAt k i =
          if k = b ∧ i < payload.length then payload[i]?.getD 0 else s.pool.byteAt k i) ∧
      t.told p e = v.told p e ++ [.received b payload.length] ∧
      t.port p = { v.port p with queue := (t.port p).queue } ∧
      (let told := (({ v with pool := t.pool } : State).setEntry e c).makeNotice e (.received b payload.length);
        t = told.setEntry e (t.entry e) ∧ (t.entry e).notices = (told.entry e).notices) ∧
      (let d := t.entry e;
        d =
          ({ c with
              vr := c.vr + 1, notices := d.notices
              flags :=
                { c.flags with
                  ackDue := true, repeatSent := false,
                  busyAnnounced := c.flags.busyAnnounced || d.noticeFull,
                  statusDue := c.flags.statusDue || (d.noticeFull && !c.flags.busyAnnounced) } } :
            ConnEntry).frameDone false (decide (0 < n) || seqA h.seq) (seqQ h.seq)) ∧
      (∀ k : EntryIdx, k ≠ e → t.entry k = v.entry k) ∧
      t.listen = s.listen ∧ t.turn = u.turn ∧ t.sched = s.sched ∧ t.line = u.line ∧ t.stats = u.stats ∧
      t.config = s.config ∧ t.pending = s.pending ∧ t.resetLow = s.resetLow

/-- R33, R41, R42, R12: DATA that an OPEN or DRAINING entry does not accept, on the part `v` that its acknowledgement
leaves: out of order, at a busy entry, and refused by the pool. Its A and Q are taken (R36, R39), and the steps 4 to 6
of R33 follow. -/
def Obligations.DataIsRefusedOrDiscarded : Prop :=
  ∀ (s : State) (h : RxHead) (payload : List Byte) (e : EntryIdx) (p : Port),
    s.canHear h → 1 ≤ payload.length → payload.length ≤ 240 → h.dci.toNat = e.val →
    ((s.entry e).state = .opened ∨ (s.entry e).state = .draining) → (s.entry e).remoteStation = some h.src →
    (s.entry e).remoteIndex = some h.sci → (s.entry e).owner = some p → (s.entry e).orphan = false →
    let n := (seqEN h.seq - (s.entry e).va).toNat
    let v := (s.reached (s.frameFrom h .data payload)).acknowledge e (seqEN h.seq) n
    let c := (v.entry e).answeredBy (seqA h.seq)
    let leaves := fun f : Flags =>
      v.setEntry e
        (({ c with flags := f } : ConnEntry).frameDone false (decide (0 < n) || seqA h.seq) (seqQ h.seq))
    n ≤ (s.entry e).unacked.length →
    (seqSN h.seq ≠ c.vr →
      exec (.dataReceived h payload) s =
        .next (leaves
          { c.flags with repeatDue := c.flags.repeatDue || !c.flags.repeatSent, repeatSent := true })) ∧
    (seqSN h.seq = c.vr → c.busy = true →
      exec (.dataReceived h payload) s =
        .next (leaves { c.flags with busyAnnounced := true, statusDue := true, repeatSent := false })) ∧
    (seqSN h.seq = c.vr → c.busy = false → (v.pool.canAllocate p = false ∨ v.pool.freeList = []) →
      exec (.dataReceived h payload) s =
        .next ((leaves
          { c.flags with busyAnnounced := true, statusDue := true, repeatSent := false, starved := true }).modPort
          p (·.offer (.starved e))))

/-- R34, R35, R87, R88: the acknowledgement of `n` messages: they leave the list from its head, their buffers join the
free list in order and leave the charge, a SENT event is made for each that asked for one, and the starved entries are
examined, which is the same after the last release as after each. R33 to R39, R43, R12: READY, WAIT and REPEAT at an
OPEN or DRAINING entry: the acknowledgement by EN, the A and Q marks, what the kind does, and the passage to CLOSING of
a DRAINING entry whose lists are empty. An EN beyond what was sent ends the entry BAD_ACK, whatever the kind. R197: SN,
EN, Q and A in a sequence byte. -/
def Obligations.TransferFramesAreTaken : Prop :=
  (∀ b : Byte,
    (seqSN b).toNat = b.toNat / 32 ∧ (seqEN b).toNat = b.toNat / 4 % 8 ∧ (seqQ b = true ↔ b.toNat / 2 % 2 = 1) ∧
      (seqA b = true ↔ b.toNat % 2 = 1)) ∧
  (∀ (s : State) (e : EntryIdx) (p : Port) (en : Seq) (n : Nat),
    (s.entry e).owner = some p → (s.entry e).orphan = false → n ≤ (s.entry e).unacked.length →
    let c := s.entry e
    let v := s.acknowledge e en n
    let left : ConnEntry :=
      { c with va := en, unacked := c.unacked.drop n, retryCount := if n = 0 then c.retryCount else 0 }
    let examined := fun d : ConnEntry => if n = 0 then d else d.reconsider v.pool
    v.pool.freeList = s.pool.freeList ++ (c.unacked.take n).map (·.msg.handle) ∧ v.pool.mem = s.pool.mem ∧
      v.account p = { s.account p with charge := (s.account p).charge - n } ∧
      (∀ q : Port, q ≠ p → v.account q = s.account q ∧ v.port q = s.port q) ∧
      v.port p =
        ((c.unacked.take n).filter (·.msg.notify)).foldl (fun ps m => ps.offer (.sent e m.msg.tag)) (s.port p) ∧
      v.entry e = examined left ∧ (∀ k : EntryIdx, k ≠ e → v.entry k = examined (s.entry k)) ∧
      v = { s with entries := v.entries, pool := v.pool, ports := v.ports }) ∧
  (∀ (s : State) (h : RxHead) (e : EntryIdx) (p : Port),
    s.canHear h → h.dci.toNat = e.val →
    ((s.entry e).state = .opened ∨ (s.entry e).state = .draining) → (s.entry e).remoteStation = some h.src →
    (s.entry e).remoteIndex = some h.sci → (s.entry e).owner = some p → (s.entry e).orphan = false →
    let n := (seqEN h.seq - (s.entry e).va).toNat
    let at_ := fun (k : FrameKind) (payload : List Byte) => s.reached (s.frameFrom h k payload)
    ((s.entry e).unacked.length < n →
      exec (.readyReceived h) s = .next ((at_ .ready []).endEntry e .badAck) ∧
      exec (.waitReceived h) s = .next ((at_ .wait []).endEntry e .badAck) ∧
      exec (.repeatReceived h) s = .next ((at_ .rept []).endEntry e .badAck) ∧
      ∀ payload : List Byte, 1 ≤ payload.length → payload.length ≤ 240 →
        exec (.dataReceived h payload) s = .next ((at_ .data payload).endEntry e .badAck)) ∧
    (n ≤ (s.entry e).unacked.length →
      let progress := decide (0 < n) || seqA h.seq
      let acked := fun k : FrameKind => (at_ k []).acknowledge e (seqEN h.seq) n
      let answered := fun k : FrameKind => ((acked k).entry e).answeredBy (seqA h.seq)
      let told := fun (k : FrameKind) (waiting : Bool) (t : State) =>
        if (answered k).flags.peerWaiting = waiting then t
        else t.modPort p (·.offer (if waiting then .peerWait e else .peerReady e))
      let status := fun (k : FrameKind) (waiting : Bool) =>
        told k waiting ((acked k).setEntry e
          (({ answered k with flags := { (answered k).flags with peerWaiting := waiting } } : ConnEntry).frameDone
            waiting progress (seqQ h.seq)))
      exec (.readyReceived h) s = .next (status .ready false) ∧
      exec (.waitReceived h) s = .next (status .wait true) ∧
      exec (.repeatReceived h) s =
        .next ((acked .rept).setEntry e
          (({ answered .rept with
              unacked := (answered .rept).unacked.map fun m => { m with needsTx := true } } : ConnEntry).frameDone
            false progress (seqQ h.seq)))))

/-- R60 to R65, R9: an OPEN that listen handling discards, answers again, refuses or accepts. That one with a bad SCI or
window which arrives OFFLINE or STOPPING is discarded for the line engine's state, and counted as no format error, is
the model's reading of R60 and R164 (DEDUCED, log entry 23). -/
def Obligations.OpenIsDecided : Prop :=
  ∀ (s : State) (h : RxHead) (service window : Byte), s.canHear h →
    let command := Instr.openReceived h service window
    let u := s.reached (s.frameFrom h .opening [service, window])
    let away := s.turn.engine = .offline ∨ s.turn.engine = .stopping
    let sound := h.sci.toNat ≤ 31 ∧ 1 ≤ window.toNat ∧ window.toNat ≤ 4
    let remote := fun e : EntryIdx =>
      (s.entry e).remoteStation = some h.src ∧ (s.entry e).remoteIndex = some h.sci
    let live := fun e : EntryIdx => remote e ∧ ((s.entry e).state = .opened ∨ (s.entry e).state = .draining)
    let ending := fun e : EntryIdx => remote e ∧ ((s.entry e).state = .closing ∨ (s.entry e).state = .ended)
    let refused := fun why : StrayReason =>
      u.offerStray { reason := why, dest := h.src, dci := h.sci, sci := 0xFF }
    let fits := fun l : ListenEntry =>
      l.service = service ∧ ∀ bit : Nat, bit < 6 →
        l.stationMask.getLsbD bit = true ∨ h.src.getLsbD bit = l.stationMatch.getLsbD bit
    (away → exec command s = .next u) ∧
    (¬ away → ¬ sound → exec command s = .next (u.withStats u.stats.formatError)) ∧
    (¬ away → sound → ∀ e : EntryIdx, live e → (∀ k : EntryIdx, k < e → ¬ live k) →
      exec command s = .next (u.setEntry e { s.entry e with controlDue := .sendAccept })) ∧
    (¬ away → sound → (∀ e : EntryIdx, ¬ live e) → (∃ e : EntryIdx, ending e) →
      exec command s = .next (refused .stale)) ∧
    (¬ away → sound → (∀ e : EntryIdx, ¬ live e ∧ ¬ ending e) →
      ((∀ l ∈ s.listen, ¬ fits l) → exec command s = .next (refused .noService)) ∧
      (∀ (front back : List ListenEntry) (l : ListenEntry), s.listen = front ++ l :: back → fits l →
        (∀ k ∈ front, ¬ fits k) →
        ((∀ e : EntryIdx, (s.entry e).state ≠ .free) → exec command s = .next (refused .full)) ∧
        (∀ e : EntryIdx, (s.entry e).state = .free → (∀ k : EntryIdx, k < e → (s.entry k).state ≠ .free) →
          l ∉ front →
          let taken : ConnEntry :=
            { state := .opened, owner := some l.owner, remoteStation := some h.src, remoteIndex := some h.sci,
              service := some service, window := some (min window.toNat l.windowMax),
              priority := some l.priority, retryLimit := some l.retryLimit, answerTime := some l.answerTime,
              controlDue := .sendAccept }
          let arrived := (u.setEntry e taken).makeNotice e (.arrived h.src service)
          exec command s =
            .next
              (if l.accepts = 0 then arrived
              else if l.accepts = 1 then
                ({ arrived with listen := front ++ back } : State).modPort l.owner
                  (·.offer (.listenDone e service))
              else { arrived with listen := front ++ { l with accepts := l.accepts - 1 } :: back }))))

/-- R69, R70, R75, R10: ACCEPT, REFUSE and CLOSED at an OPENING entry, from its remote station and whatever their SCI.
That an OPEN that is still due is due no more when an ACCEPT opens the entry is the model's choice (DEDUCED, log entry
5). -/
def Obligations.OpeningEntryTakesAnswers : Prop :=
  ∀ (s : State) (h : RxHead) (e : EntryIdx), s.canHear h → h.dci.toNat = e.val →
    (s.entry e).state = .opening → (s.entry e).remoteStation = some h.src →
    let c := s.entry e
    (∀ window : Byte,
      let u := s.reached (s.frameFrom h .accept [window])
      let agreed := 1 ≤ window.toNat ∧ window.toNat ≤ c.window.getD 0
      let taken := ∃ k : EntryIdx, k ≠ e ∧ (s.entry k).remoteStation = some h.src ∧
        (s.entry k).remoteIndex = some h.sci ∧
        ((s.entry k).state = .opened ∨ (s.entry k).state = .draining ∨ (s.entry k).state = .closing ∨
          (s.entry k).state = .ended)
      (31 < h.sci.toNat → exec (.acceptReceived h window) s = .next (u.endEntry e .protocol)) ∧
      (h.sci.toNat ≤ 31 → ¬ agreed ∨ taken →
        exec (.acceptReceived h window) s =
          .next (((u.setEntry e { c with remoteIndex := some h.sci }).endEntry e .protocol).offerStray
            { reason := .noConnection, dest := h.src, dci := h.sci, sci := byte e.val })) ∧
      (h.sci.toNat ≤ 31 → agreed → ¬ taken → ∀ p : Port, c.owner = some p → c.orphan = false →
        exec (.acceptReceived h window) s =
          .next ((u.setEntry e
            { c with
              state := .opened, remoteIndex := some h.sci, window := some window.toNat, retryCount := 0,
              answerTimer := none, answerPhase := 0, controlDue := .none }).modPort p (·.offer (.opened e))))) ∧
    (∀ reason : Byte,
      exec (.refuseReceived h reason) s =
        .next ((s.reached (s.frameFrom h .refuse [reason])).endEntry e
          (if reason = 1 then .refusedNoService else if reason = 2 then .refusedFull
          else if reason = 3 then .refusedStale else .protocol))) ∧
    (∀ reason : Byte,
      exec (.closedReceived h reason) s =
        .next ((s.reached (s.frameFrom h .closed [reason])).endEntry e .peerReset))

/-- R11, R12, R14, R74, R75: CLOSE, CLOSED, REFUSE and ACCEPT from the remote of an OPEN, DRAINING or CLOSING entry, and
DATA, READY, WAIT and REPEAT at a CLOSING one, which discards them. R14: the end of a close exchange: an orphan returns
to FREE in silence, an entry with no notice left returns to FREE with its CLOSED event, and any other waits with close
finished set. -/
def Obligations.EntryTakesControlFrames : Prop :=
  (∀ (s : State) (h : RxHead) (e : EntryIdx), s.canHear h → h.dci.toNat = e.val →
    (s.entry e).remoteStation = some h.src → (s.entry e).remoteIndex = some h.sci →
    let c := s.entry e
    let at_ := fun (k : FrameKind) (payload : List Byte) => s.reached (s.frameFrom h k payload)
    let closedReply : StrayReply := { reason := .normal, dest := h.src, dci := h.sci, sci := byte e.val }
    let live := c.state = .opened ∨ c.state = .draining
    (live →
      exec (.closeReceived h) s = .next (((at_ .close []).endEntry e .peerClosed).offerStray closedReply) ∧
      ∀ v : Byte,
        exec (.closedReceived h v) s = .next ((at_ .closed [v]).endEntry e .peerReset) ∧
        exec (.refuseReceived h v) s = .next ((at_ .refuse [v]).endEntry e .protocol) ∧
        exec (.acceptReceived h v) s = .next (at_ .accept [v])) ∧
    (c.state = .closing →
      exec (.readyReceived h) s = .next (at_ .ready []) ∧ exec (.waitReceived h) s = .next (at_ .wait []) ∧
      exec (.repeatReceived h) s = .next (at_ .rept []) ∧
      (∀ payload : List Byte, 1 ≤ payload.length → payload.length ≤ 240 →
        exec (.dataReceived h payload) s = .next (at_ .data payload))) ∧
    (c.state = .closing → ∀ v : Byte,
      exec (.refuseReceived h v) s = .next (at_ .refuse [v]) ∧
      exec (.acceptReceived h v) s = .next (at_ .accept [v]) ∧
      (c.closeFinished = true →
        exec (.closedReceived h v) s = .next (at_ .closed [v]) ∧
        exec (.closeReceived h) s = .next ((at_ .close []).offerStray closedReply)) ∧
      (c.closeFinished = false →
        exec (.closedReceived h v) s = .next ((at_ .closed [v]).endCloseExchange e false) ∧
        exec (.closeReceived h) s = .next (((at_ .close []).offerStray closedReply).endCloseExchange e false)))) ∧
  (∀ (s : State) (e : EntryIdx) (p : Port) (timedOut : Bool), (s.entry e).owner = some p →
    let c := s.entry e
    let freed : State :=
      { s with
        entries := put s.entries e {}
        sched :=
          { s.sched with
            tx := s.sched.tx.map fun x => if x.origin = .entry e then { x with detached := true } else x } }
    (c.orphan = true → s.endCloseExchange e timedOut = freed) ∧
    (c.orphan = false → c.notices = [] →
      s.endCloseExchange e timedOut = freed.modPort p (·.offer (.closed e (c.closeTimedOut || timedOut)))) ∧
    (c.orphan = false → c.notices ≠ [] →
      s.endCloseExchange e timedOut =
        s.setEntry e
          { c with
            controlDue := .none, answerTimer := none, answerPhase := 0, closeTimedOut := c.closeTimedOut || timedOut,
            closeFinished := true }))

/-- R77, R78, R165: a frame that belongs to no live connection is counted as a stray, changes no entry, and is answered
with CLOSED NO_CONNECTION unless it is itself a CLOSED or a REFUSE. At an OPENING entry that is so of every DATA, READY,
WAIT, REPEAT and CLOSE, from its own remote station too. R147: how a reply is offered to the stray reply list. -/
def Obligations.StrayFramesAndReplies : Prop :=
  (∀ (s : State) (h : RxHead), s.canHear h →
    (31 < h.dci.toNat ∨ ∃ e : EntryIdx, h.dci.toNat = e.val ∧
      ((s.entry e).state = .free ∨ (s.entry e).state = .ended ∨
        ((s.entry e).state = .opening ∧ (s.entry e).remoteStation ≠ some h.src) ∨
        (((s.entry e).state = .opened ∨ (s.entry e).state = .draining ∨ (s.entry e).state = .closing) ∧
          ¬ ((s.entry e).remoteStation = some h.src ∧ (s.entry e).remoteIndex = some h.sci)))) →
    let counted := fun (k : FrameKind) (payload : List Byte) =>
      let u := s.reached (s.frameFrom h k payload)
      u.withStats u.stats.stray
    let reply : StrayReply := { reason := .noConnection, dest := h.src, dci := h.sci, sci := h.dci }
    (∀ payload : List Byte, 1 ≤ payload.length → payload.length ≤ 240 →
      exec (.dataReceived h payload) s = .next ((counted .data payload).offerStray reply)) ∧
    exec (.readyReceived h) s = .next ((counted .ready []).offerStray reply) ∧
    exec (.waitReceived h) s = .next ((counted .wait []).offerStray reply) ∧
    exec (.repeatReceived h) s = .next ((counted .rept []).offerStray reply) ∧
    exec (.closeReceived h) s = .next ((counted .close []).offerStray reply) ∧
    (∀ v : Byte,
      exec (.acceptReceived h v) s = .next ((counted .accept [v]).offerStray reply) ∧
      exec (.refuseReceived h v) s = .next (counted .refuse [v]) ∧
      exec (.closedReceived h v) s = .next (counted .closed [v]))) ∧
  (∀ (s : State) (h : RxHead) (e : EntryIdx), s.canHear h → h.dci.toNat = e.val →
    (s.entry e).state = .opening → (s.entry e).remoteStation = some h.src →
    let strays := fun (k : FrameKind) (payload : List Byte) =>
      let u := s.reached (s.frameFrom h k payload)
      (u.withStats u.stats.stray).offerStray { reason := .noConnection, dest := h.src, dci := h.sci, sci := h.dci }
    (∀ payload : List Byte, 1 ≤ payload.length → payload.length ≤ 240 →
      exec (.dataReceived h payload) s = .next (strays .data payload)) ∧
    exec (.readyReceived h) s = .next (strays .ready []) ∧ exec (.waitReceived h) s = .next (strays .wait []) ∧
    exec (.repeatReceived h) s = .next (strays .rept []) ∧ exec (.closeReceived h) s = .next (strays .close [])) ∧
  (∀ (s : State) (x : StrayReply),
    (s.turn.engine = .offline → s.offerStray x = s) ∧
    (s.turn.engine ≠ .offline → s.sched.strays.length < 8 →
      s.offerStray x = { s with sched := { s.sched with strays := s.sched.strays ++ [x] } }) ∧
    (s.turn.engine ≠ .offline → 8 ≤ s.sched.strays.length →
      s.offerStray x = { s with stats := s.stats.strayNotMade }))

/-! ### Transmission -/

/-- R153, R31, R71, R18, R52: the end of a transmission of an entry's frame or of a stray reply, detached or not. What
it does at its origin comes first, and then what `ended` says of the record, the frame count and the turn, in every
state of the line engine. HOLDING, the frame is counted. Outside sole mode the turn ends at the budget and with a hold
timer that expired during the transmission, and goes on otherwise (R127). In sole mode the budget only restarts the
count, and an expired hold timer makes a probe or a renewal (R133). STOPPING sends its last TURN or, in sole mode,
becomes OFFLINE, and counts no frame (R139, R140). A frame whose entry has left the state that owes it while it was on
the line changes nothing of the entry (the example of R71, R18), but that an OPEN or DRAINING entry judges its answer
timer (R44). When the turn goes on, or sole mode is renewed, the scheduler is offered the line in this same report and
chooses (step 5 of R153, R144, `SchedulerChoosesByClass`). What is said of a transmission that ends OFFLINE, WAITING or
HANDING, in which no run has an entry's frame or a stray reply on the line, is the model's too (DESIGN CHOICE, log entry
16). -/
def Obligations.EndOfTransmissionAtTheOrigin : Prop :=
  ∀ (s : State) (x : TxRecord), s.sched.tx = some x →
    let more := s.turn.frameCount + 1
    let spent := s.config.params.turnBudget ≤ more
    let sole := s.turn.list.any (·.present) = false
    let cleared := fun t : State => ({ t with sched := { t.sched with tx := none } } : State)
    let counts := fun (n : Nat) (t : State) => ({ cleared t with turn := { s.turn with frameCount := n } } : State)
    ∀ ended : State → State,
    ((s.turn.engine = .holding ∧ ¬ sole ∧ ¬ spent ∧ s.turn.holdTimer ≠ none ∧
        ended = fun t => (counts more t).schedule) ∨
      (s.turn.engine = .holding ∧ ¬ sole ∧ (spent ∨ s.turn.holdTimer = none) ∧
        ended = fun t => (counts more t).endTurn) ∨
      (s.turn.engine = .holding ∧ sole ∧ s.turn.holdTimer ≠ none ∧
        ended = fun t => (counts (if spent then 0 else more) t).schedule) ∨
      (s.turn.engine = .holding ∧ sole ∧ s.turn.holdTimer = none ∧
        ended = fun t => (counts (if spent then 0 else more) t).renewSoleTurn.schedule) ∨
      (s.turn.engine = .stopping ∧ sole ∧ ended = fun t => (cleared t).goOffline) ∨
      (s.turn.engine = .stopping ∧ ∃ a : Byte, s.turn.successor s.config.station = some a ∧
        ended = fun t =>
          { t with
            line := { s.line with receiving := false }
            stats := if s.line.receiving then s.stats.checkError else s.stats
            turn := { s.turn with target := some a }
            sched :=
              { t.sched with
                tx :=
                  some
                    { origin := .turn a
                      frame :=
                        { dest := a, src := s.config.station, kind := .turn, dci := 0xFF, sci := 0xFF, seq := 0,
                          payload := [] }
                      sn := none, discharged := {}, detached := false } } }) ∨
      ((s.turn.engine = .offline ∨ s.turn.engine = .waiting ∨ s.turn.engine = .handing) ∧ ended = cleared)) →
    let running := fun c : ConnEntry => { c with answerTimer := c.answerTime, answerPhase := 0 }
    (x.origin = .stray →
      exec .endOfTransmission s =
        .next (ended { s with sched := { s.sched with strays := s.sched.strays.drop 1 } })) ∧
    (∀ e : EntryIdx, x.origin = .entry e →
      let c := s.entry e
      let live := c.state = .opened ∨ c.state = .draining
      let becomes := fun d : ConnEntry => exec .endOfTransmission s = .next (ended (s.setEntry e d))
      (x.detached = true → exec .endOfTransmission s = .next (ended s)) ∧
      (x.detached = false → live → x.frame.kind = .data →
        becomes (if c.flags.queryDue then c else running c).settleTimer) ∧
      (x.detached = false → live → (x.frame.kind = .ready ∨ x.frame.kind = .wait) →
        x.discharged.queryDue = true →
        let d : ConnEntry := { c with flags := { c.flags with queryOutstanding := true } }
        becomes (if c.flags.queryDue then d else running d).settleTimer) ∧
      (x.detached = false → live → (x.frame.kind = .ready ∨ x.frame.kind = .wait) →
        x.discharged.queryDue = false → becomes c.settleTimer) ∧
      (x.detached = false → live → x.frame.kind ≠ .data → x.frame.kind ≠ .ready → x.frame.kind ≠ .wait →
        x.frame.kind ≠ .accept → becomes c.settleTimer) ∧
      (x.detached = false → live → x.frame.kind = .accept →
        becomes ({ c with controlDue := .none } : ConnEntry).settleTimer) ∧
      (x.detached = false → c.state = .opening → x.frame.kind = .opening →
        becomes (running { c with controlDue := .none })) ∧
      (x.detached = false → c.state = .closing → x.frame.kind = .close →
        becomes (running { c with controlDue := .none })) ∧
      (x.detached = false → (c.state = .ended ∨ (c.state = .closing ∧ x.frame.kind ≠ .close)) →
        (∀ m ∈ c.unacked, some m.sn ≠ x.sn) → exec .endOfTransmission s = .next (ended s)) ∧
      (x.detached = false → (c.state = .free ∨ (c.state = .opening ∧ x.frame.kind ≠ .opening)) →
        exec .endOfTransmission s = .next (ended s)) ∧
      (∀ (sn : Seq) (m : SentMsg) (p : Port), x.detached = false → x.frame.kind = .data → x.sn = some sn →
        (c.state = .closing ∨ c.state = .ended) → c.owner = some p → c.unacked = [m] → m.sn = sn →
        let left := s.setEntry e { c with unacked := [] }
        (c.orphan = true → exec .endOfTransmission s = .next (ended (left.release p m.msg.handle))) ∧
        (c.orphan = false → ∃ t, exec .endOfTransmission s = .next (ended t) ∧
          t.told p e =
            s.told p e ++ [.unsent m.msg.tag m.msg.handle m.msg.length] ++
              (match c.state, c.endReason with
              | .ended, some why => [Notice.ended why]
              | _, _ => []) ∧
          t.entry e = { c with unacked := [], notices := (t.entry e).notices } ∧
          s.tellsOnly t p e)))

/-- R153 step 4, R127, R129, R133, R139: what the turn controller makes of the end of a transmission whose origin is a
detached entry frame, which has no other effect, or a TURN (the other origins are stated just above). R140: what the
line engine's becoming OFFLINE does: every CLOSING entry returns to FREE with no event, a frame of one that is still on
the line is detached, the timers stop, the stray replies are gone, and STOPPED is told to every port. When the turn goes
on, or sole mode is renewed, the scheduler chooses in this same report (step 5 of R153, R144,
`SchedulerChoosesByClass`). That an end of a transmission with no frame on the line changes nothing is the model's
reading (DEDUCED, log entry 9). What is said of a TURN that ends OFFLINE, WAITING or HOLDING, which no run reaches, is
the model's too (DESIGN CHOICE, log entry 16). -/
def Obligations.EndOfTransmissionAndTheTurn : Prop :=
  (∀ s : State,
    s.goOffline =
      ({ s with
          entries := s.entries.map fun c => if c.state = .closing then {} else c
          turn :=
            { s.turn with
              engine := .offline, frameCount := 0, target := none, kind := none, attempt := none, lostTimer := none,
              holdTimer := none, responseTimer := none }
          sched :=
            { s.sched with
              strays := []
              tx := s.sched.tx.map fun x =>
                match x.origin with
                | .entry e => if (s.entry e).state = .closing then { x with detached := true } else x
                | .stray => x
                | .turn _ => x } } : State).lineEvent .stopped) ∧
  (∀ s : State, s.sched.tx = none → exec .endOfTransmission s = .next s) ∧
  ∀ (s : State) (x : TxRecord), s.sched.tx = some x →
    let clear : State := { s with sched := { s.sched with tx := none } }
    let counted : State := { clear with turn := { s.turn with frameCount := s.turn.frameCount + 1 } }
    let next := fun t : State => exec .endOfTransmission s = .next t
    let spent := s.config.params.turnBudget ≤ s.turn.frameCount + 1
    let sole := s.turn.list.any (·.present) = false
    (∀ e : EntryIdx, x.origin = .entry e → x.detached = true →
      (s.turn.engine = .holding → ¬ sole → (spent ∨ s.turn.holdTimer = none) → next counted.endTurn) ∧
      (s.turn.engine = .holding → ¬ sole → ¬ spent → s.turn.holdTimer ≠ none → next counted.schedule) ∧
      (s.turn.engine = .holding → sole → s.turn.holdTimer ≠ none →
        next (if spent then { counted with turn := { s.turn with frameCount := 0 } } else counted).schedule) ∧
      (s.turn.engine = .holding → sole → s.turn.holdTimer = none →
        next
          (if spent then { counted with turn := { s.turn with frameCount := 0 } }
            else counted).renewSoleTurn.schedule) ∧
      (s.turn.engine = .stopping → sole → next clear.goOffline) ∧
      (s.turn.engine = .stopping → ∀ a : Byte, s.turn.successor s.config.station = some a →
        ∃ t, next t ∧ t.turn = { s.turn with target := some a } ∧
          (∃ y, t.sched.tx = some y ∧ y.origin = .turn a ∧
            y.frame = { dest := a, src := s.config.station, kind := .turn, dci := 0xFF, sci := 0xFF, seq := 0, payload := [] }) ∧
          t.entries = s.entries ∧ t.pool = s.pool ∧ t.ports = s.ports ∧ t.listen = s.listen)) ∧
    (∀ a : Byte, x.origin = .turn a →
      (s.turn.engine = .handing →
        next { clear with turn := { s.turn with responseTimer := some (10 * s.config.params.turnResponse) } }) ∧
      (s.turn.engine = .stopping → next clear.goOffline) ∧
      ((s.turn.engine = .offline ∨ s.turn.engine = .waiting) → next clear) ∧
      (s.turn.engine = .holding → next clear.schedule))

/-- R154, R138, R32, R18, R52: a transmit fault. It restores what an entry's frame discharged and marks its message
again; a deferred message of an entry that has left OPEN and DRAINING leaves the list as at the end of the transmission;
a stray reply stays. In HOLDING and HANDING the line engine becomes WAITING, from HANDING without its handover, and in
STOPPING OFFLINE (R140, `goOffline`, spelled out with the end of a transmission), with a TX_FAULT event before. That a
transmit fault with no frame on the line changes nothing is the model's reading (DEDUCED, log entry 9). -/
def Obligations.TransmitFaultRestores : Prop :=
  (∀ s : State, s.sched.tx = none → exec .transmitFault s = .next s) ∧
  ∀ (s : State) (x : TxRecord), s.sched.tx = some x →
    let lost := some (100 * s.config.params.lostBase + s.config.station.toNat * (10 * s.config.params.claimSlot))
    let waiting : TurnController :=
      { s.turn with engine := .waiting, lostTimer := lost, holdTimer := none, responseTimer := none }
    let cleared := fun t : State => ({ t with sched := { t.sched with tx := none } } : State)
    ∀ faulted : State → State,
    ((s.turn.engine = .holding ∧
        faulted = fun t => ({ cleared t with turn := waiting } : State).lineEvent .txFault) ∨
      (s.turn.engine = .handing ∧
        faulted = fun t =>
          ({ cleared t with turn := { waiting with target := none, kind := none, attempt := none } } :
            State).lineEvent .txFault) ∨
      (s.turn.engine = .stopping ∧ faulted = fun t => ((cleared t).lineEvent .txFault).goOffline)) →
    (x.origin = .stray → exec .transmitFault s = .next (faulted s)) ∧
    (∀ a : Byte, x.origin = .turn a → exec .transmitFault s = .next (faulted s)) ∧
    (∀ e : EntryIdx, x.origin = .entry e →
      let c := s.entry e
      let d := x.discharged
      (x.detached = true ∨ c.state = .free ∨ c.state = .opening ∨
          ((c.state = .closing ∨ c.state = .ended) ∧ ∀ m ∈ c.unacked, some m.sn ≠ x.sn) →
        exec .transmitFault s = .next (faulted s)) ∧
      (x.detached = false → (c.state = .opened ∨ c.state = .draining) →
        exec .transmitFault s =
          .next (faulted
            (s.setEntry e
              { c with
                flags :=
                  { c.flags with
                    ackDue := c.flags.ackDue || d.ackDue, answerOwed := c.flags.answerOwed || d.answerOwed,
                    statusDue := c.flags.statusDue || d.statusDue, queryDue := c.flags.queryDue || d.queryDue,
                    repeatDue := c.flags.repeatDue || d.repeatDue }
                unacked :=
                  c.unacked.map fun m => if some m.sn = x.sn then { m with needsTx := true } else m }))) ∧
      (∀ (sn : Seq) (m : SentMsg) (p : Port), x.detached = false → x.sn = some sn →
        (c.state = .closing ∨ c.state = .ended) → c.owner = some p → c.unacked = [m] → m.sn = sn →
        let left := s.setEntry e { c with unacked := [] }
        (c.orphan = true → exec .transmitFault s = .next (faulted (left.release p m.msg.handle))) ∧
        (c.orphan = false → ∃ t, exec .transmitFault s = .next (faulted t) ∧
          t.told p e =
            s.told p e ++ [.unsent m.msg.tag m.msg.handle m.msg.length] ++
              (match c.state, c.endReason with
              | .ended, some why => [Notice.ended why]
              | _, _ => []) ∧
          t.entry e = { c with unacked := [], notices := (t.entry e).notices } ∧
          s.tellsOnly t p e)))

/-- R158, R184: LDE is asserted for the whole of a transmission, and LTX carries the frame's header and payload and then
its two check bytes, bit 7 of each byte first (R196). A frame that starts asserts LDE; every command but the end of its
transmission, a transmit fault and RESET leaves it, its bytes and its bits as they are, and so does the part while it
idles; a fault and RESET release LDE, and so does the end of the transmission, unless the turn controller starts a TURN
or, in HOLDING, the scheduler its next frame at once (R153). LDE and LTX are computed from the frame in transmission
(DESIGN CHOICE, log entry 14). The premise on the turn response timer is the promise of the line that it runs only while
no frame is in transmission. -/
def Obligations.TransmissionHoldsTheLine : Prop :=
  (∀ s : State, s.lde = false → s.ltx = none ∧ s.ltxBits = none) ∧
  (∀ (s : State) (o : Origin) (f : Frame) (sn : Option Seq) (d : Discharged), s.resetLow = false →
    let t := s.startFrame o f sn d
    let header := [f.dest, f.src, byte (16 * f.kind.code), f.dci, f.sci, f.seq, byte f.payload.length]
    let check := checkSequence (header ++ f.payload)
    let bytes := header ++ f.payload ++ [check.extractLsb' 0 8, check.extractLsb' 8 8]
    t.lde = true ∧ t.ltx = some bytes ∧
      t.ltxBits = some (bytes.flatMap fun b => [7, 6, 5, 4, 3, 2, 1, 0].map fun i => b.getLsbD i)) ∧
  (∀ (s t : State) (i : Instr), s.lde = true → s.turn.responseTimer = none → exec i s = .next t →
    i ≠ .endOfTransmission → i ≠ .transmitFault → i ≠ .resetAsserted →
    t.lde = true ∧ t.ltx = s.ltx ∧ t.ltxBits = s.ltxBits) ∧
  (∀ s t : State, s.lde = true → s.turn.responseTimer = none → s.pending = [] → step s = .next t →
    t.lde = true ∧ t.ltx = s.ltx ∧ t.ltxBits = s.ltxBits) ∧
  (∀ s t : State, s.resetLow = false → exec .resetAsserted s = .next t → t.lde = false) ∧
  (∀ s t : State, s.sched.tx ≠ none → exec .transmitFault s = .next t → t.lde = false) ∧
  (∀ (s t : State) (x : TxRecord), s.sched.tx ≠ none → exec .endOfTransmission s = .next t → t.sched.tx = some x →
    (∃ a : Byte, x.origin = .turn a) ∨
      (s.turn.engine = .holding ∧ t.turn.engine = .holding ∧ x.detached = false))

/-! ### The timers and the end of a turn -/

/-- R45, R10, R14, R44: the expiry of a running answer timer, by the entry's state and its retry count. A stopped timer
does not expire. For what the entry then has to send the scheduler chooses if it is offered the line (R144,
`SchedulerChoosesByClass`). -/
def Obligations.AnswerTimerExpires : Prop :=
  ∀ (s : State) (e : EntryIdx),
    let c := s.entry e
    let spent := c.retryLimit = some c.retryCount
    let again := fun d : ConnEntry =>
      exec (.answerTimerExpiry e) s =
        .next
          (s.setEntry e { d with answerTimer := none, answerPhase := 0, retryCount := c.retryCount + 1 }).schedule
    (c.answerTimer = none → exec (.answerTimerExpiry e) s = .next s) ∧
    (c.answerTimer ≠ none →
      ((c.state = .opening ∨ c.state = .opened ∨ c.state = .draining) → spent →
        exec (.answerTimerExpiry e) s = .next (s.endEntry e .noAnswer)) ∧
      (c.state = .closing → spent → exec (.answerTimerExpiry e) s = .next (s.endCloseExchange e true)) ∧
      (c.state = .opening → ¬ spent → again { c with controlDue := .sendOpen }) ∧
      (c.state = .closing → ¬ spent → again { c with controlDue := .sendClose }) ∧
      ((c.state = .opened ∨ c.state = .draining) → ¬ spent →
        again { c with flags := { c.flags with queryDue := true } }))

/-- R125 to R127, R131 to R133: the expiries of the three line timers. A normal handover that fails after its target's
record was removed is counted, and no event tells of the target. A turn that begins or is renewed offers the line in the
same event (R144, `SchedulerChoosesByClass`). That a commanded expiry of a timer that does not run, or runs in another
state of the line engine, changes nothing is the model's choice (DESIGN CHOICE, log entry 3). The first clause, what one
tick of 10 µs does, is the model's choice as well (DESIGN CHOICE, log entry 3): the running timers come down, an answer
timer by a millisecond at every hundredth tick, and those that run out at this tick expire, in the order lost, hold,
turn response and then the answer timers by entry index, each by its own expiry on what the ones before have left. -/
def Obligations.LineTimersExpire : Prop :=
  (∀ s : State,
    let down := fun t : Option Nat => t.map fun n => if 10 < n then n - 10 else n
    let counted : State :=
      { s with
        turn :=
          { s.turn with
            lostTimer := down s.turn.lostTimer, holdTimer := down s.turn.holdTimer,
            responseTimer := down s.turn.responseTimer }
        entries := s.entries.map fun c =>
          match c.answerTimer with
          | none => c
          | some n =>
            if n ≤ 1 ∧ 99 ≤ c.answerPhase then c
            else if c.answerPhase < 99 then { c with answerPhase := c.answerPhase + 1 }
            else { c with answerTimer := some (n - 1), answerPhase := 0 } }
    let due := fun t : Option Nat => ∃ n, t = some n ∧ n ≤ 10
    let answerDue := fun c : ConnEntry => (∃ n, c.answerTimer = some n ∧ n ≤ 1) ∧ 99 ≤ c.answerPhase
    let expires := fun (runsOut : Prop) (i : Instr) (t u : State) =>
      (runsOut → exec i t = .next u) ∧ (¬ runsOut → u = t)
    ∃ run : Nat → State, run 0 = counted ∧
      expires (due s.turn.lostTimer) .lostTimerExpiry (run 0) (run 1) ∧
      expires (due s.turn.holdTimer) .holdTimerExpiry (run 1) (run 2) ∧
      expires (due s.turn.responseTimer) .turnResponseTimerExpiry (run 2) (run 3) ∧
      (∀ e : EntryIdx, expires (answerDue (s.entry e)) (.answerTimerExpiry e) (run (3 + e.val)) (run (4 + e.val))) ∧
      s.tick = run 35) ∧
  ∀ s : State,
    let more := if s.turn.rotation < 255 then s.turn.rotation + 1 else 255
    let hold := some (100 * s.config.params.holdLimit)
    let sole := s.turn.list.any (·.present) = false
    (s.turn.engine = .waiting → s.turn.lostTimer ≠ none →
      exec .lostTimerExpiry s =
        .next
          ((({ s with
              turn :=
                { s.turn with
                  engine := .holding, frameCount := 0, holdTimer := hold, rotation := more, lostTimer := none } } :
            State).lineEvent .claimed).schedule)) ∧
    (s.turn.engine ≠ .waiting ∨ s.turn.lostTimer = none → exec .lostTimerExpiry s = .next s) ∧
    (s.turn.engine ≠ .holding ∨ s.turn.holdTimer = none → exec .holdTimerExpiry s = .next s) ∧
    (s.turn.engine ≠ .handing ∨ s.turn.responseTimer = none → exec .turnResponseTimerExpiry s = .next s) ∧
    (s.turn.engine = .holding → s.turn.holdTimer ≠ none →
      let stopped : State := { s with turn := { s.turn with holdTimer := none } }
      (s.sched.tx ≠ none → exec .holdTimerExpiry s = .next stopped) ∧
      (s.sched.tx = none → ¬ sole → exec .holdTimerExpiry s = .next stopped.endTurn) ∧
      (s.sched.tx = none → sole → s.turn.nextProbe s.config.station = none →
        exec .holdTimerExpiry s =
          .next ({ s with turn := { s.turn with frameCount := 0, holdTimer := hold } } : State).schedule) ∧
      (s.sched.tx = none → sole → ∀ a : Byte, s.turn.nextProbe s.config.station = some a →
        exec .holdTimerExpiry s = .next (stopped.beginProbe a))) ∧
    (s.turn.engine = .handing → s.turn.responseTimer ≠ none →
      let stopped : State := { s with turn := { s.turn with responseTimer := none } }
      (∀ a : Byte, s.turn.kind = some .normal → s.turn.target = some a → s.turn.attempt = some 1 →
        exec .turnResponseTimerExpiry s =
          .next (({ s with turn := { s.turn with responseTimer := none, attempt := some 2 } } : State).sendTurn a)) ∧
      (∀ a b : Byte, s.turn.kind = some .normal → s.turn.target = some a → s.turn.attempt = some 2 →
        (∃ x ∈ s.turn.list, x.address = a) →
        let list := s.turn.list.map fun x => if x.address = a then { x with present := false } else x
        let silent : State :=
          ({ s with turn := { s.turn with list := list, responseTimer := none } } : State).lineEvent
            (.stationSilent a)
        let failed : State := { silent with stats := s.stats.handoverFailure }
        (({ s.turn with list := list } : TurnController).successor s.config.station = some b →
          exec .turnResponseTimerExpiry s = .next (failed.beginHandover .normal b)) ∧
        (list.any (·.present) = false →
          exec .turnResponseTimerExpiry s =
            .next
              ((({ failed with
                  turn :=
                    { s.turn with
                      list := list, engine := .holding, frameCount := 0, holdTimer := hold, responseTimer := none,
                      target := none, kind := none, attempt := none } } : State).lineEvent .sole).schedule))) ∧
      (∀ a b : Byte, s.turn.kind = some .normal → s.turn.target = some a → s.turn.attempt = some 2 →
        (∀ x ∈ s.turn.list, x.address ≠ a) →
        let failed : State := { stopped with stats := s.stats.handoverFailure }
        (s.turn.successor s.config.station = some b →
          exec .turnResponseTimerExpiry s = .next (failed.beginHandover .normal b)) ∧
        (sole →
          exec .turnResponseTimerExpiry s =
            .next
              ((({ failed with
                  turn :=
                    { s.turn with
                      engine := .holding, frameCount := 0, holdTimer := hold, responseTimer := none, target := none,
                      kind := none, attempt := none } } : State).lineEvent .sole).schedule))) ∧
      (∀ b : Byte, s.turn.kind = some .probe → s.turn.successor s.config.station = some b →
        exec .turnResponseTimerExpiry s = .next (stopped.beginHandover .normal b)) ∧
      (s.turn.kind = some .probe → sole →
        exec .turnResponseTimerExpiry s =
          .next
            ({ s with
              turn :=
                { s.turn with
                  engine := .holding, frameCount := 0, holdTimer := hold, responseTimer := none, target := none,
                  kind := none, attempt := none } } : State).schedule))

/-- R122, R123, R128, R129, R133: the successor, the next probe and the handover they make, for a turn list in order:
the successor is the nearest PRESENT station in ring order, the candidates are the SILENT stations strictly before it,
all of them in sole mode, and a probe has a target if and only if there is a candidate. -/
def Obligations.HandoverChoice : Prop :=
  ∀ (s : State), turnListOk s.config.station s.turn.list → s.config.station.toNat ≤ 62 →
    let own := s.config.station
    let ring := fun a : Byte => (a.toNat + 63 - own.toNat) % 63
    let present := fun a : Byte => ∃ x ∈ s.turn.list, x.address = a ∧ x.present = true
    let silent := fun a : Byte => ∃ x ∈ s.turn.list, x.address = a ∧ x.present = false
    (∀ a : Byte, s.turn.successor own = some a ↔ present a ∧ ∀ b : Byte, present b → ring a ≤ ring b) ∧
    (s.turn.successor own = none ↔ ∀ a : Byte, ¬ present a) ∧
    (∀ a n : Byte, s.turn.successor own = some n →
      (a ∈ s.turn.candidates own ↔ silent a ∧ ring a < ring n)) ∧
    (s.turn.successor own = none → ∀ a : Byte, a ∈ s.turn.candidates own ↔ silent a) ∧
    (s.turn.nextProbe own = none ↔ s.turn.candidates own = []) ∧
    (∀ a : Byte, s.turn.nextProbe own = some a → a ∈ s.turn.candidates own ∧
      (∀ b ∈ s.turn.candidates own,
        (s.turn.probeCursor.toNat < a.toNat → s.turn.probeCursor.toNat < b.toNat → a.toNat ≤ b.toNat) ∧
        (¬ s.turn.probeCursor.toNat < a.toNat → ¬ s.turn.probeCursor.toNat < b.toNat ∧ a.toNat ≤ b.toNat))) ∧
    (∀ a : Byte, s.config.params.probeInterval ≤ s.turn.rotation → s.turn.nextProbe own = some a →
      s.endTurn = s.beginProbe a) ∧
    (∀ a : Byte,
      s.beginProbe a =
        (({ s with turn := { s.turn with probeCursor := a, rotation := 0 } } : State).beginHandover .probe a)) ∧
    (∀ a : Byte, s.turn.nextProbe own = some a → s.renewSoleTurn = s.beginProbe a) ∧
    (s.turn.nextProbe own = none →
      s.renewSoleTurn =
        { s with
          turn := { s.turn with frameCount := 0, holdTimer := some (100 * s.config.params.holdLimit) } }) ∧
    (∀ a : Byte, (s.turn.rotation < s.config.params.probeInterval ∨ s.turn.nextProbe own = none) →
      s.turn.successor own = some a → s.endTurn = s.beginHandover .normal a) ∧
    (∀ (k : HandoverKind) (a : Byte),
      s.beginHandover k a =
        { s with
          turn :=
            { s.turn with
              engine := .handing, target := some a, kind := some k, attempt := some 1, holdTimer := none,
              responseTimer := none }
          line := { s.line with receiving := false }
          stats := if s.line.receiving then s.stats.checkError else s.stats
          sched :=
            { s.sched with
              tx :=
                some
                  { origin := .turn a
                    frame :=
                      { dest := a, src := own, kind := .turn, dci := 0xFF, sci := 0xFF, seq := 0, payload := [] }
                    sn := none, discharged := {}, detached := false } } })

/-- R145, R26: what makes an entry a member of each class, and R46 and R51 when it is busy. R144 to R146, R26 to R30,
R148 to R151, R67, R68, R73: SCHEDULER_CHOICE, which is the choice `State.schedule` that the events of R144 make as
their last effect. A scheduler that is not offered the line does nothing; one that finds no class with a member ends the
turn outside sole mode; otherwise it starts one frame, from the first class with a member and the first member after the
class's pointer. When the line is offered, and when there is work. R147, R198: the kind and the reason byte of a stray
reply. R197: the sequence byte. That a commanded choice that is not offered does nothing, and one that is offered is
made again, is the model's choice (DESIGN CHOICE, log entry 12). R156, row 4: the CLOSE that a CONN.CLOSE ABORT made due
waits for one choice, in which the DATA class would have given the entry but for the abort and gives another member, or
starts as R145 has it: which of the two is a free value, `Config.abortedCloseWaits`, and the statement holds for each
(log entry 21). -/
def Obligations.SchedulerChoosesByClass : Prop :=
  (∀ c : ConnEntry,
    let f := c.flags
    let live := c.state = .opened ∨ c.state = .draining
    (c.inResponse = true ↔
      live ∧ (c.controlDue = .sendAccept ∨ f.repeatDue = true ∨ f.statusDue = true ∨ f.answerOwed = true ∨
        f.ackDue = true)) ∧
    (c.inInitiative = true ↔
      (c.state = .opening ∧ c.controlDue = .sendOpen) ∨ (c.state = .closing ∧ c.controlDue = .sendClose) ∨
        (live ∧ f.queryDue = true ∧ c.controlDue ≠ .sendAccept)) ∧
    (c.eligible = true ↔
      live ∧ c.controlDue = .none ∧ f.peerWaiting = false ∧
        ((∃ m ∈ c.unacked, m.needsTx = true) ∨
          (c.sendQueue ≠ [] ∧ c.unacked.length < c.window.getD 0))) ∧
    (∀ pr : Fin 4, c.inData pr = true ↔ c.eligible = true ∧ c.priority = some pr) ∧
    (c.busy = true ↔
      f.hostHold = true ∨ f.starved = true ∨ 4 ≤ (c.notices.filter Notice.isReceived).length)) ∧
  [StrayReason.normal, .noConnection, .noService, .full, .stale].map (fun why => (why.kind, why.code)) =
    [(.closed, 0), (.closed, 1), (.refuse, 1), (.refuse, 2), (.refuse, 3)] ∧
  (∀ (sn en : Seq) (q a : Bool),
    (seqByte sn en q a).toNat =
      32 * sn.toNat + 4 * en.toNat + (if q then 2 else 0) + (if a then 1 else 0)) ∧
  (∀ s : State,
    (s.offered = true ↔
      s.turn.engine = .holding ∧ s.sched.tx = none ∧ s.turn.frameCount < s.config.params.turnBudget ∧
        s.turn.holdTimer ≠ none) ∧
    (s.hasWork = true ↔
      s.sched.strays ≠ [] ∨ ∃ e : EntryIdx,
        (s.entry e).inResponse = true ∨ (s.entry e).inInitiative = true ∨ ∃ pr : Fin 4, (s.entry e).inData pr = true) ∧
    (s.turn.sole = true ↔ ∀ x ∈ s.turn.list, x.present = false)) ∧
  (∀ s : State, exec .schedulerChoice s = .next s.schedule) ∧
  ∀ s : State,
    let offered := s.turn.engine = .holding ∧ s.sched.tx = none ∧
      s.turn.frameCount < s.config.params.turnBudget ∧ s.turn.holdTimer ≠ none
    let first := fun (ptr : EntryIdx) (P : ConnEntry → Bool) (e : EntryIdx) =>
      P (s.entry e) = true ∧
        ∀ k : EntryIdx, P (s.entry k) = true → (e - (ptr + 1)).val ≤ (k - (ptr + 1)).val
    let starts := fun (sched : Scheduler) (entries : Vector ConnEntry 32) (x : TxRecord) =>
      exec .schedulerChoice s =
        .next
          { s with
            entries := entries, sched := { sched with tx := some x }, line := { s.line with receiving := false }
            stats := if s.line.receiving then s.stats.checkError else s.stats }
    let noResponse := ∀ e : EntryIdx, (s.entry e).inResponse = false
    let noInitiative := ∀ e : EntryIdx, (s.entry e).inInitiative = false
    let noData := fun pr : Fin 4 => ∀ e : EntryIdx, (s.entry e).inData pr = false
    let idle := s.sched.strays = [] ∧ noResponse ∧ noInitiative ∧ ∀ pr : Fin 4, noData pr
    let entryTx := fun (e : EntryIdx) (k : FrameKind) (dci seq : Byte) (payload : List Byte) (sn : Option Seq)
        (d : Discharged) =>
      ({ origin := .entry e
         frame :=
           { dest := (s.entry e).remoteStation.getD 0, src := s.config.station, kind := k, dci := dci,
             sci := byte e.val, seq := seq, payload := payload }
         sn := sn, discharged := d, detached := false } : TxRecord)
    let peer := fun e : EntryIdx => (s.entry e).remoteIndex.getD 0xFF
    -- the CLOSE of an aborted entry that row 4 of R156 lets wait
    let waits := fun e : EntryIdx =>
      (s.entry e).aborted = true ∧ (s.entry e).state = .closing ∧
      (∀ k : EntryIdx, k ≠ e → (s.entry k).inInitiative = false) ∧
      (∃ (pr : Fin 4) (k : EntryIdx), (s.entry k).inData pr = true) ∧
      ∃ pr : Fin 4, (s.entry e).priority = some pr ∧ (∀ q : Fin 4, pr < q → noData q) ∧
        let ptr := look s.sched.dataPtrs pr
        ∀ k : EntryIdx, (s.entry k).inData pr = true → (e - (ptr + 1)).val < (k - (ptr + 1)).val
    -- a READY or WAIT of an entry, and a DATA frame that carries its next new message
    let status := fun (sched : Scheduler) (e : EntryIdx) =>
      let c := s.entry e
      let f := c.flags
      starts sched
        (put s.entries e
          { c with flags := { f with ackDue := false, answerOwed := false, statusDue := false, queryDue := false } })
        (entryTx e (if c.busy then .wait else .ready) (peer e) (seqByte 0 c.vr f.queryDue f.answerOwed) [] none
          { ackDue := f.ackDue, answerOwed := f.answerOwed, statusDue := f.statusDue, queryDue := f.queryDue })
    let newData := fun (sched : Scheduler) (entries : Vector ConnEntry 32) (e : EntryIdx) =>
      let c := s.entry e
      (∀ m ∈ c.unacked, m.needsTx = false) → ∀ (m : Msg) (rest : List Msg), c.sendQueue = m :: rest →
      starts sched
        (put entries e
          { c with
            sendQueue := rest, vs := c.vs + 1
            unacked := c.unacked ++ [{ msg := m, sn := c.vs, needsTx := false }]
            flags := { c.flags with ackDue := false, answerOwed := false } })
        (entryTx e .data (peer e)
          (seqByte c.vs c.vr (decide (c.window.getD 0 ≤ c.unacked.length + 1) || rest.isEmpty) c.flags.answerOwed)
          ((List.range m.length).map fun i => s.pool.byteAt m.handle i) (some c.vs)
          { ackDue := c.flags.ackDue, answerOwed := c.flags.answerOwed })
    let markedData := fun (sched : Scheduler) (entries : Vector ConnEntry 32) (e : EntryIdx) =>
      let c := s.entry e
      ∀ (front back : List SentMsg) (m : SentMsg), c.unacked = front ++ m :: back → m.needsTx = true →
      (∀ k ∈ front, k.needsTx = false) →
      starts sched
        (put entries e
          { c with
            unacked := front ++ { m with needsTx := false } :: back
            flags := { c.flags with ackDue := false, answerOwed := false } })
        (entryTx e .data (peer e)
          (seqByte m.sn c.vr
            (decide (c.window.getD 0 ≤ c.unacked.length) || (!back.any (·.needsTx) && c.sendQueue.isEmpty))
            c.flags.answerOwed)
          ((List.range m.msg.length).map fun i => s.pool.byteAt m.msg.handle i) (some m.sn)
          { ackDue := c.flags.ackDue, answerOwed := c.flags.answerOwed })
    (¬ offered → exec .schedulerChoice s = .next s) ∧
    (offered → idle →
      exec .schedulerChoice s = .next (if s.turn.list.any (·.present) then s.endTurn else s)) ∧
    (offered → ∀ (x : StrayReply) (rest : List StrayReply), s.sched.strays = x :: rest →
      starts s.sched s.entries
        { origin := .stray
          frame :=
            { dest := x.dest, src := s.config.station, kind := x.reason.kind, dci := x.dci, sci := x.sci, seq := 0,
              payload := [byte x.reason.code] }
          sn := none, discharged := {}, detached := false }) ∧
    (offered → s.sched.strays = [] → ∀ e : EntryIdx, first s.sched.responsePtr ConnEntry.inResponse e →
      let sched := { s.sched with responsePtr := e }
      let c := s.entry e
      (c.controlDue = .sendAccept →
        starts sched s.entries (entryTx e .accept (peer e) 0 [byte (c.window.getD 0)] none {})) ∧
      (c.controlDue ≠ .sendAccept → c.flags.repeatDue = true →
        starts sched
          (put s.entries e { c with flags := { c.flags with repeatDue := false, ackDue := false } })
          (entryTx e .rept (peer e) (seqByte 0 c.vr false false) [] none
            { ackDue := c.flags.ackDue, repeatDue := true })) ∧
      (c.controlDue ≠ .sendAccept → c.flags.repeatDue = false →
        (c.flags.statusDue = true ∨ c.eligible = false ∨ c.busy = true) → status sched e) ∧
      (c.controlDue ≠ .sendAccept → c.flags.repeatDue = false → c.flags.statusDue = false →
        c.eligible = true → c.busy = false → newData sched s.entries e ∧ markedData sched s.entries e)) ∧
    (offered → s.sched.strays = [] → noResponse →
      ∀ e : EntryIdx, first s.sched.initiativePtr ConnEntry.inInitiative e →
      let sched := { s.sched with initiativePtr := e }
      let c := s.entry e
      let passed := put s.entries e { c with aborted := false }
      (c.state = .opening →
        starts sched s.entries
          (entryTx e .opening 0xFF 0 [c.service.getD 0, byte (c.window.getD 0)] none {})) ∧
      (c.state = .closing → (waits e → Config.abortedCloseWaits = false) →
        starts sched passed (entryTx e .close (peer e) 0 [] none {})) ∧
      (waits e → Config.abortedCloseWaits = true → ∀ (pr : Fin 4) (k : EntryIdx), (∀ q : Fin 4, pr < q → noData q) →
        first (look s.sched.dataPtrs pr) (ConnEntry.inData pr) k →
        let passing := { s.sched with dataPtrs := put s.sched.dataPtrs pr k }
        newData passing passed k ∧ markedData passing passed k) ∧
      ((c.state = .opened ∨ c.state = .draining) → status sched e)) ∧
    (offered → s.sched.strays = [] → noResponse → noInitiative →
      ∀ (pr : Fin 4) (e : EntryIdx), (∀ k : Fin 4, pr < k → noData k) →
      first (look s.sched.dataPtrs pr) (ConnEntry.inData pr) e →
      let sched := { s.sched with dataPtrs := put s.sched.dataPtrs pr e }
      newData sched s.entries e ∧ markedData sched s.entries e)

/-! ### Transactions as bits -/

/-- R171 to R173, R196, R199, R200: the bits of every command that is a host transaction, bit 7 of each byte first, are
read back as that command, with every argument at every value a byte can have. -/
def Obligations.TransactionsRoundTrip : Prop :=
  (∀ (bytes : List Byte) (part : List Bool), part.length < 8 →
    bitsOf bytes = (bytes.flatMap fun b => [7, 6, 5, 4, 3, 2, 1, 0].map fun i => b.getLsbD i) ∧
      bytesOf (bitsOf bytes ++ part) = bytes) ∧
  ∀ (i : Instr) (w : Clocked), i.wf = true → encodeTransaction i = some w → decodeTransaction w.port w.sdi = i

/-! ### Promises that every step keeps -/

/-- The pool's promises: the memory keeps its canonical form inside the 192 buffers, the quotas stay in their bounds
(R84), the free count covers the unused reserves (the reserve law of R85), and no held set has a handle twice (R82). -/
def Obligations.EveryStepKeepsThePool : Prop :=
  ∀ s t : State, step s = .next t →
    (s.pool.memoryOk → t.pool.memoryOk) ∧ (s.pool.quotasOk → t.pool.quotasOk) ∧
      (s.pool.reserveLaw → t.pool.reserveLaw) ∧
      ((∀ p : Port, heldOk (s.account p).held) → ∀ p : Port, heldOk (t.account p).held)

/-- The ports' promises: at most 48 records in a queue and the 48th an OVERFLOW record (R97), OVERFLOW records with the
alerts mark and a count of 1 to 255 (R101, R104), and no DROP filter on a held kind (R101). -/
def Obligations.EveryStepKeepsTheQueues : Prop :=
  ∀ s t : State, step s = .next t →
    ((∀ p : Port, queueOk (s.port p).queue) → ∀ p : Port, queueOk (t.port p).queue) ∧
    ((∀ p : Port, overflowOk (s.port p).queue) → ∀ p : Port, overflowOk (t.port p).queue) ∧
    ((∀ p : Port, heldFiltersOk (s.port p).filters) → ∀ p : Port, heldFiltersOk (t.port p).filters)

/-- The line's promises: the turn list sorted, bounded and without the own address (R118), a frame on the line only in
HOLDING, HANDING or STOPPING and only TURN frames in HANDING (R117), and at most 8 stray replies, none while OFFLINE
(R147, R148). The turn response timer runs in HANDING alone, and only while no frame is in transmission (R117, R129). No
step leaves a scheduler that is offered the line with a choice to make (R144, R127, R133): what is still offered is a
turn of sole mode with nothing to send. -/
def Obligations.EveryStepKeepsTheLine : Prop :=
  ∀ s t : State, step s = .next t →
    (turnListOk s.config.station s.turn.list → turnListOk t.config.station t.turn.list) ∧
    (transmitsOk s → transmitsOk t) ∧ (handingSendsTurn s → handingSendsTurn t) ∧ (straysOk s → straysOk t) ∧
    (handingWaits s → handingWaits t) ∧ (settled s → settled t)

/-- The promises about the listen table and about single entries: the listen table in its bounds and without a key twice
(R54), a FREE entry at its values after reset (R2, R17), and the bounds of an entry's messages and notices (R4). Each is
kept from itself alone. -/
def Obligations.EveryStepKeepsTheTables : Prop :=
  ∀ s t : State, step s = .next t →
    (listenOk s.listen → listenOk t.listen) ∧ (freeEntriesOk s → freeEntriesOk t) ∧
    ((∀ e : EntryIdx, (s.entry e).boundsOk) → ∀ e : EntryIdx, (t.entry e).boundsOk)

/-- The promises about the connection table: each entry as its state says (R2, R7, R8, R12 to R18, R24), no remote twice
among the entries that are OPEN, DRAINING or CLOSING (R5), and none of those while the line engine is OFFLINE (R140).
The premises are promises that other statements keep. -/
def Obligations.EveryStepKeepsTheConnections : Prop :=
  ∀ s t : State, step s = .next t → listenOk s.listen → transmitsOk s → handingWaits s →
    ConnectionsOk s → ConnectionsOk t

/-- R82, R83: each of the 192 buffers is in exactly one place, and each port's charge is the number of its buffers. The
premises are promises that other statements keep. -/
def Obligations.EveryStepKeepsEachBufferInOnePlace : Prop :=
  ∀ s t : State, step s = .next t → listenOk s.listen → transmitsOk s → handingWaits s → ConnectionsOk s →
    onePlace s → chargesOk s → onePlace t ∧ chargesOk t

/-- The promises hold right after reset. -/
def Obligations.ResetKeepsThePromises : Prop :=
  State.reset.pool.memoryOk ∧ State.reset.pool.quotasOk ∧ State.reset.pool.reserveLaw ∧
  (∀ p : Port, queueOk (State.reset.port p).queue ∧ overflowOk (State.reset.port p).queue ∧
    heldFiltersOk (State.reset.port p).filters) ∧
  turnListOk State.reset.config.station State.reset.turn.list ∧ transmitsOk State.reset ∧
  handingSendsTurn State.reset ∧ straysOk State.reset ∧ handingWaits State.reset ∧ settled State.reset ∧ listenOk State.reset.listen ∧
  freeEntriesOk State.reset ∧ (∀ e : EntryIdx, (State.reset.entry e).boundsOk) ∧ ConnectionsOk State.reset ∧
  onePlace State.reset ∧ chargesOk State.reset ∧ ∀ p : Port, heldOk (State.reset.account p).held
end

