-- ==== Sys2Proof/Laws/Bits.lean ====
section
/-! SUPPORT. Bits on a wire: the bytes of the bits of bytes are those bytes, and a part of a byte behind them is dropped. -/

namespace Sys2Proof.Machine

@[simp] theorem zeroBits_length (n : Nat) : (zeroBits n).length = n := by simp [zeroBits]

@[simp] theorem bitsOf_nil : bitsOf [] = [] := rfl

theorem bitsOf_cons (b : Byte) (bytes : List Byte) :
    bitsOf (b :: bytes) =
      b.getLsbD 7 :: b.getLsbD 6 :: b.getLsbD 5 :: b.getLsbD 4 :: b.getLsbD 3 :: b.getLsbD 2 :: b.getLsbD 1 ::
        b.getLsbD 0 :: bitsOf bytes := rfl

@[simp] theorem bitsOf_append (xs ys : List Byte) : bitsOf (xs ++ ys) = bitsOf xs ++ bitsOf ys := by
  simp [bitsOf]

@[simp] theorem bitsOf_length (bytes : List Byte) : (bitsOf bytes).length = 8 * bytes.length := by
  induction bytes with
  | nil => rfl
  | cons b bs ih => simp only [bitsOf_cons, List.length_cons, ih]; omega

/-- R196: the byte of a byte's own bits, bit 7 first, is the byte. -/
@[simp] theorem byteOf_bits (b : Byte) :
    byteOf (b.getLsbD 7) (b.getLsbD 6) (b.getLsbD 5) (b.getLsbD 4) (b.getLsbD 3) (b.getLsbD 2) (b.getLsbD 1)
      (b.getLsbD 0) = b := by
  apply BitVec.eq_of_getLsbD_eq
  intro i hi
  simp only [byteOf, BitVec.getLsbD_append, BitVec.getLsbD_ofBool]
  interval_cases i <;> rfl

/-- The complete bytes of bits that begin with the bits of bytes begin with those bytes. -/
@[simp] theorem bytesOf_append (bytes : List Byte) (sdi : List Bool) :
    bytesOf (bitsOf bytes ++ sdi) = bytes ++ bytesOf sdi := by
  induction bytes with
  | nil => rfl
  | cons b bs ih => exact congrArg₂ List.cons (byteOf_bits b) ih

/-- What is sent in bits is read back. -/
@[simp] theorem bytesOf_bitsOf (bytes : List Byte) : bytesOf (bitsOf bytes) = bytes := by
  rw [← List.append_nil (bitsOf bytes), bytesOf_append]
  exact List.append_nil bytes

/-- As many complete bytes as eights of bits. -/
theorem bytesOf_length : (sdi : List Bool) → (bytesOf sdi).length = sdi.length / 8
  | _ :: _ :: _ :: _ :: _ :: _ :: _ :: _ :: rest => by
    show (bytesOf rest).length + 1 = (rest.length + 8) / 8
    rw [bytesOf_length rest]
    omega
  | [] => rfl
  | [_] => by simp [bytesOf]
  | [_, _] => by simp [bytesOf]
  | [_, _, _] => by simp [bytesOf]
  | [_, _, _, _] => by simp [bytesOf]
  | [_, _, _, _, _] => by simp [bytesOf]
  | [_, _, _, _, _, _] => by simp [bytesOf]
  | [_, _, _, _, _, _, _] => by simp [bytesOf]

end Sys2Proof.Machine
end

