-- ==== Sys2Proof/Laws/Memory.lean ====
section
/-! SUPPORT. The buffer memory: a byte reads as it was last written, and every operation keeps the canonical form and
the bounds of the pool. -/

namespace Sys2Proof.Machine

/-! ### The canonical form -/

theorem wfFrom_mono {low low' : Nat} (h : low' ≤ low) {m : Memory} (w : Memory.wfFrom low m = true) :
    Memory.wfFrom low' m = true := by
  cases m with
  | nil => rfl
  | cons cell rest =>
    simp only [Memory.wfFrom, Bool.and_eq_true, decide_eq_true_eq] at w ⊢
    exact ⟨⟨h.trans w.1.1, w.1.2⟩, w.2⟩

/-- A write at an address at or above the form's start keeps the form. -/
theorem wfFrom_write {low a : Nat} {b : Byte} {m : Memory} (w : Memory.wfFrom low m = true) (h : low ≤ a) :
    Memory.wfFrom low (m.write a b) = true := by
  induction m generalizing low with
  | nil =>
    by_cases hb : b = Memory.unlisted <;> simp [Memory.write, Memory.wfFrom, hb, h]
  | cons cell rest ih =>
    obtain ⟨k, v⟩ := cell
    simp only [Memory.wfFrom, Bool.and_eq_true, decide_eq_true_eq] at w
    obtain ⟨⟨hk, hv⟩, hrest⟩ := w
    unfold Memory.write
    split
    · next hlt =>
      split
      · simp [Memory.wfFrom, hk, hv, hrest]
      · next hb => simp [Memory.wfFrom, h, hb, hv, hrest, Nat.succ_le_of_lt hlt]
    · next hlt =>
      split
      · next heq =>
        subst heq
        split
        · exact wfFrom_mono (by omega) hrest
        · next hb => simp [Memory.wfFrom, h, hb, hrest]
      · next hne => simp [Memory.wfFrom, hk, hv, ih hrest (by omega)]

/-- A write of one byte keeps the canonical form. -/
theorem write_wf {m : Memory} (w : m.wf = true) (a : Nat) (b : Byte) : (m.write a b).wf = true :=
  wfFrom_write w (Nat.zero_le a)

/-- A write of several bytes keeps the canonical form. -/
theorem writeAll_wf {m : Memory} (w : m.wf = true) (a : Nat) (bytes : List Byte) :
    (m.writeAll a bytes).wf = true := by
  induction bytes generalizing m a with
  | nil => exact w
  | cons b bs ih => exact ih (write_wf w a b) (a + 1)

/-- A store into a buffer keeps the canonical form. -/
theorem store_wf {pool : Pool} (w : pool.mem.wf = true) (h : Handle) (offset : Nat) (bytes : List Byte) :
    (pool.store h offset bytes).mem.wf = true :=
  writeAll_wf w _ _

/-- The memory after device reset is in the canonical form. -/
theorem reset_wf : State.reset.pool.mem.wf = true := rfl

/-! ### Reading back -/

/-- An address below the form's start is not listed. -/
theorem read_below {low a : Nat} {m : Memory} (w : Memory.wfFrom low m = true) (h : a < low) :
    m.read a = Memory.unlisted := by
  induction m generalizing low with
  | nil => rfl
  | cons cell rest ih =>
    obtain ⟨k, v⟩ := cell
    simp only [Memory.wfFrom, Bool.and_eq_true, decide_eq_true_eq] at w
    rw [Memory.read, if_neg (by omega)]
    exact ih w.2 (by omega)

/-- A byte written is read back, and every other address reads as before. -/
theorem read_write {m : Memory} {low : Nat} (w : Memory.wfFrom low m = true) (a k : Nat) (b : Byte) :
    (m.write a b).read k = if k = a then b else m.read k := by
  induction m generalizing low with
  | nil =>
    by_cases hb : b = Memory.unlisted <;> by_cases hk : k = a <;> simp [Memory.write, Memory.read, hb, hk]
  | cons cell rest ih =>
    obtain ⟨j, v⟩ := cell
    simp only [Memory.wfFrom, Bool.and_eq_true, decide_eq_true_eq] at w
    obtain ⟨-, hrest⟩ := w
    have below := fun (x : Nat) (hx : x < j + 1) => read_below hrest hx
    unfold Memory.write
    split
    · next hlt =>
      by_cases hb : b = Memory.unlisted <;> by_cases hk : k = a
      · subst hk
        simp [hb, Memory.read, Nat.ne_of_lt hlt, below k (by omega)]
      · simp [hb, hk]
      · simp [hb, hk, Memory.read]
      · simp [hb, hk, Memory.read]
    · next hlt =>
      split
      · next heq =>
        subst heq
        by_cases hb : b = Memory.unlisted <;> by_cases hk : k = a
        · subst hk
          simp [hb, below k (by omega)]
        · simp [hb, hk, Memory.read]
        · simp [hb, hk, Memory.read]
        · simp [hb, hk, Memory.read]
      · next hne =>
        rw [Memory.read, ih hrest, Memory.read]
        by_cases hk : k = a
        · subst hk
          simp [hne]
        · simp [hk]

/-- Several bytes written are read back at their addresses, and every other address reads as before. -/
theorem read_writeAll {m : Memory} (w : m.wf = true) (a k : Nat) (bytes : List Byte) :
    (m.writeAll a bytes).read k =
      if a ≤ k ∧ k < a + bytes.length then bytes[k - a]?.getD 0 else m.read k := by
  induction bytes generalizing m a with
  | nil => simp [Memory.writeAll]
  | cons b bs ih =>
    rw [Memory.writeAll, ih (write_wf w a b), read_write w]
    by_cases h : k = a
    · subst h
      simp
    · by_cases h1 : a + 1 ≤ k ∧ k < a + 1 + bs.length
      · have h2 : a ≤ k ∧ k < a + (bs.length + 1) := by omega
        have h3 : k - a = (k - (a + 1)) + 1 := by omega
        simp [h1, h2, h3]
      · have h2 : ¬ (a ≤ k ∧ k < a + (b :: bs).length) := by simp only [List.length_cons]; omega
        rw [if_neg h1, if_neg h, if_neg h2]

/-- The bytes read in a row are those at the addresses one after the other. -/
theorem readAll_eq (m : Memory) (a n : Nat) : m.readAll a n = (List.range n).map fun i => m.read (a + i) := by
  induction n generalizing a with
  | zero => rfl
  | succ n ih =>
    rw [Memory.readAll, ih, List.range_succ_eq_map, List.map_cons, List.map_map]
    congr 1
    apply List.map_congr_left
    intro i _
    simp [Nat.add_assoc, Nat.add_comm 1 i]

/-- The bytes of a buffer from an offset on are its bytes one after the other. -/
theorem bytesAt_eq (pool : Pool) (h : Handle) (offset n : Nat) :
    pool.bytesAt h offset n = (List.range n).map fun i => pool.byteAt h (offset + i) := by
  simp [Pool.bytesAt, Pool.byteAt, readAll_eq, bufferAddress, Nat.add_assoc]

/-! ### The bounds of the pool -/

/-- A write lists no address but its own and those listed before. -/
theorem mem_write {m : Memory} {a : Nat} {b : Byte} {cell : Host.Cell} (h : cell ∈ m.write a b) :
    cell ∈ m ∨ cell = (a, b) := by
  induction m with
  | nil =>
    simp only [Memory.write] at h
    split at h <;> simp_all
  | cons head rest ih =>
    obtain ⟨k, v⟩ := head
    unfold Memory.write at h
    split at h
    · split at h <;> simp_all
      tauto
    · split at h
      · split at h <;> simp_all
        tauto
      · simp only [List.mem_cons] at h ⊢
        rcases h with h | h
        · exact .inl (.inl h)
        · exact (ih h).imp .inr id

/-- A write below a bound keeps every listed address below it. -/
theorem writeAll_bound {m : Memory} {n : Nat} (hm : ∀ cell ∈ m, cell.1 < n) (a : Nat) (bytes : List Byte)
    (h : a + bytes.length ≤ n) : ∀ cell ∈ m.writeAll a bytes, cell.1 < n := by
  induction bytes generalizing m a with
  | nil => exact hm
  | cons b bs ih =>
    simp only [List.length_cons] at h
    refine ih (fun cell hc => ?_) (a + 1) (by omega)
    rcases mem_write hc with hc | rfl
    · exact hm cell hc
    · simp only
      omega

/-- A store that stays inside its buffer keeps the memory's form and bounds (R80). -/
theorem store_memoryOk {pool : Pool} (w : pool.memoryOk) (h : Handle) (offset : Nat) (bytes : List Byte)
    (hb : offset + bytes.length ≤ 240) : (pool.store h offset bytes).memoryOk := by
  refine ⟨store_wf w.1 h offset bytes, writeAll_bound w.2 _ _ ?_⟩
  simp only [bufferAddress, Config.bufferBytes, Config.buffers]
  omega

end Sys2Proof.Machine
end

