-- ==== Sys2Proof/Laws/State.lean ====
section
/-! SUPPORT. Reading back what an update wrote: tables, the state's fields after each setter, and ports and entries
after each other's updates. -/

namespace Sys2Proof

@[simp] theorem look_put_same {α : Type} {n : Nat} (t : Vector α n) (i : Fin n) (a : α) :
    look (put t i a) i = a := by
  simp [look, put]

theorem look_put_other {α : Type} {n : Nat} (t : Vector α n) {i j : Fin n} (a : α) (h : i ≠ j) :
    look (put t i a) j = look t j := by
  simp [look, put, Fin.val_ne_of_ne h]

theorem look_put {α : Type} {n : Nat} (t : Vector α n) (i j : Fin n) (a : α) :
    look (put t i a) j = if i = j then a else look t j := by
  split
  · next h => subst h; simp
  · next h => exact look_put_other t a h

@[simp] theorem put_put {α : Type} {n : Nat} (t : Vector α n) (i : Fin n) (a b : α) :
    put (put t i a) i b = put t i b := by
  simp [put]

@[simp] theorem put_look {α : Type} {n : Nat} (t : Vector α n) (i : Fin n) : put t i (look t i) = t := by
  simp [put, look]

theorem put_comm {α : Type} {n : Nat} (t : Vector α n) {i j : Fin n} (a b : α) (h : i ≠ j) :
    put (put t i a) j b = put (put t j b) i a := by
  simp only [put]
  exact Vector.set_comm a b (Fin.val_ne_of_ne h)

theorem table_ext {α : Type} {n : Nat} {t u : Vector α n} (h : ∀ i, look t i = look u i) : t = u := by
  apply Vector.ext
  intro i hi
  exact h ⟨i, hi⟩

@[simp] theorem look_replicate {α : Type} {n : Nat} (a : α) (i : Fin n) : look (Vector.replicate n a) i = a := by
  simp [look]

@[simp] theorem look_map {α β : Type} {n : Nat} (f : α → β) (t : Vector α n) (i : Fin n) :
    look (t.map f) i = f (look t i) := by
  simp [look]

namespace Machine

variable (s : State) (p q : Port) (e k : EntryIdx) (ps : PortState) (c : ConnEntry)

/-! ### Setting a port -/

@[simp] theorem setPort_pending : (s.setPort p ps).pending = s.pending := rfl
@[simp] theorem setPort_resetLow : (s.setPort p ps).resetLow = s.resetLow := rfl
@[simp] theorem setPort_entries : (s.setPort p ps).entries = s.entries := rfl
@[simp] theorem setPort_listen : (s.setPort p ps).listen = s.listen := rfl
@[simp] theorem setPort_pool : (s.setPort p ps).pool = s.pool := rfl
@[simp] theorem setPort_turn : (s.setPort p ps).turn = s.turn := rfl
@[simp] theorem setPort_sched : (s.setPort p ps).sched = s.sched := rfl
@[simp] theorem setPort_line : (s.setPort p ps).line = s.line := rfl
@[simp] theorem setPort_stats : (s.setPort p ps).stats = s.stats := rfl
@[simp] theorem setPort_config : (s.setPort p ps).config = s.config := rfl
@[simp] theorem setPort_ports : (s.setPort p ps).ports = put s.ports p ps := rfl
@[simp] theorem setPort_entry : (s.setPort p ps).entry e = s.entry e := rfl
@[simp] theorem setPort_account : (s.setPort p ps).account q = s.account q := rfl

@[simp] theorem port_setPort_same : (s.setPort p ps).port p = ps := by simp [State.port, State.setPort]

theorem port_setPort_other {p q : Port} (h : p ≠ q) : (s.setPort p ps).port q = s.port q := by
  simp [State.port, State.setPort, look_put_other _ _ h]

@[simp] theorem setPort_setPort (ps' : PortState) : (s.setPort p ps).setPort p ps' = s.setPort p ps' := by
  simp [State.setPort]

@[simp] theorem setPort_port : s.setPort p (s.port p) = s := by simp [State.setPort, State.port]

@[simp] theorem modPort_eq (f : PortState → PortState) : s.modPort p f = s.setPort p (f (s.port p)) := rfl

/-! ### Setting an entry -/

@[simp] theorem setEntry_pending : (s.setEntry e c).pending = s.pending := rfl
@[simp] theorem setEntry_resetLow : (s.setEntry e c).resetLow = s.resetLow := rfl
@[simp] theorem setEntry_ports : (s.setEntry e c).ports = s.ports := rfl
@[simp] theorem setEntry_listen : (s.setEntry e c).listen = s.listen := rfl
@[simp] theorem setEntry_pool : (s.setEntry e c).pool = s.pool := rfl
@[simp] theorem setEntry_turn : (s.setEntry e c).turn = s.turn := rfl
@[simp] theorem setEntry_sched : (s.setEntry e c).sched = s.sched := rfl
@[simp] theorem setEntry_line : (s.setEntry e c).line = s.line := rfl
@[simp] theorem setEntry_stats : (s.setEntry e c).stats = s.stats := rfl
@[simp] theorem setEntry_config : (s.setEntry e c).config = s.config := rfl
@[simp] theorem setEntry_port : (s.setEntry e c).port p = s.port p := rfl
@[simp] theorem setEntry_account : (s.setEntry e c).account p = s.account p := rfl

@[simp] theorem entry_setEntry_same : (s.setEntry e c).entry e = c := by simp [State.entry, State.setEntry]

theorem entry_setEntry_other {e k : EntryIdx} (h : e ≠ k) : (s.setEntry e c).entry k = s.entry k := by
  simp [State.entry, State.setEntry, look_put_other _ _ h]

@[simp] theorem setEntry_setEntry (c' : ConnEntry) : (s.setEntry e c).setEntry e c' = s.setEntry e c' := by
  simp [State.setEntry]

@[simp] theorem setEntry_entry : s.setEntry e (s.entry e) = s := by simp [State.setEntry, State.entry]

@[simp] theorem modEntry_eq (f : ConnEntry → ConnEntry) : s.modEntry e f = s.setEntry e (f (s.entry e)) := rfl

/-! ### The other setters -/

variable (pool : Pool) (t : TurnController) (sch : Scheduler) (n : Counters)

@[simp] theorem withPool_pending : (s.withPool pool).pending = s.pending := rfl
@[simp] theorem withPool_resetLow : (s.withPool pool).resetLow = s.resetLow := rfl
@[simp] theorem withPool_entries : (s.withPool pool).entries = s.entries := rfl
@[simp] theorem withPool_listen : (s.withPool pool).listen = s.listen := rfl
@[simp] theorem withPool_pool : (s.withPool pool).pool = pool := rfl
@[simp] theorem withPool_ports : (s.withPool pool).ports = s.ports := rfl
@[simp] theorem withPool_turn : (s.withPool pool).turn = s.turn := rfl
@[simp] theorem withPool_sched : (s.withPool pool).sched = s.sched := rfl
@[simp] theorem withPool_line : (s.withPool pool).line = s.line := rfl
@[simp] theorem withPool_stats : (s.withPool pool).stats = s.stats := rfl
@[simp] theorem withPool_config : (s.withPool pool).config = s.config := rfl
@[simp] theorem withPool_port : (s.withPool pool).port p = s.port p := rfl
@[simp] theorem withPool_entry : (s.withPool pool).entry e = s.entry e := rfl

@[simp] theorem withTurn_pending : (s.withTurn t).pending = s.pending := rfl
@[simp] theorem withTurn_resetLow : (s.withTurn t).resetLow = s.resetLow := rfl
@[simp] theorem withTurn_entries : (s.withTurn t).entries = s.entries := rfl
@[simp] theorem withTurn_listen : (s.withTurn t).listen = s.listen := rfl
@[simp] theorem withTurn_pool : (s.withTurn t).pool = s.pool := rfl
@[simp] theorem withTurn_ports : (s.withTurn t).ports = s.ports := rfl
@[simp] theorem withTurn_turn : (s.withTurn t).turn = t := rfl
@[simp] theorem withTurn_sched : (s.withTurn t).sched = s.sched := rfl
@[simp] theorem withTurn_line : (s.withTurn t).line = s.line := rfl
@[simp] theorem withTurn_stats : (s.withTurn t).stats = s.stats := rfl
@[simp] theorem withTurn_config : (s.withTurn t).config = s.config := rfl
@[simp] theorem withTurn_port : (s.withTurn t).port p = s.port p := rfl
@[simp] theorem withTurn_entry : (s.withTurn t).entry e = s.entry e := rfl

@[simp] theorem withSched_pending : (s.withSched sch).pending = s.pending := rfl
@[simp] theorem withSched_resetLow : (s.withSched sch).resetLow = s.resetLow := rfl
@[simp] theorem withSched_entries : (s.withSched sch).entries = s.entries := rfl
@[simp] theorem withSched_listen : (s.withSched sch).listen = s.listen := rfl
@[simp] theorem withSched_pool : (s.withSched sch).pool = s.pool := rfl
@[simp] theorem withSched_ports : (s.withSched sch).ports = s.ports := rfl
@[simp] theorem withSched_turn : (s.withSched sch).turn = s.turn := rfl
@[simp] theorem withSched_sched : (s.withSched sch).sched = sch := rfl
@[simp] theorem withSched_line : (s.withSched sch).line = s.line := rfl
@[simp] theorem withSched_stats : (s.withSched sch).stats = s.stats := rfl
@[simp] theorem withSched_config : (s.withSched sch).config = s.config := rfl
@[simp] theorem withSched_port : (s.withSched sch).port p = s.port p := rfl
@[simp] theorem withSched_entry : (s.withSched sch).entry e = s.entry e := rfl

@[simp] theorem withStats_pending : (s.withStats n).pending = s.pending := rfl
@[simp] theorem withStats_resetLow : (s.withStats n).resetLow = s.resetLow := rfl
@[simp] theorem withStats_entries : (s.withStats n).entries = s.entries := rfl
@[simp] theorem withStats_listen : (s.withStats n).listen = s.listen := rfl
@[simp] theorem withStats_pool : (s.withStats n).pool = s.pool := rfl
@[simp] theorem withStats_ports : (s.withStats n).ports = s.ports := rfl
@[simp] theorem withStats_turn : (s.withStats n).turn = s.turn := rfl
@[simp] theorem withStats_sched : (s.withStats n).sched = s.sched := rfl
@[simp] theorem withStats_line : (s.withStats n).line = s.line := rfl
@[simp] theorem withStats_stats : (s.withStats n).stats = n := rfl
@[simp] theorem withStats_config : (s.withStats n).config = s.config := rfl
@[simp] theorem withStats_port : (s.withStats n).port p = s.port p := rfl
@[simp] theorem withStats_entry : (s.withStats n).entry e = s.entry e := rfl

@[simp] theorem withPending_pending (cs : List Instr) : (s.withPending cs).pending = cs := rfl

end Machine

end Sys2Proof
end

