-- ==== Sys2Proof/Laws/Ops.lean ====
section
/-! SUPPORT. What each shared operation can do, said once: the pool, the events and notices, the passages of an entry,
and the turn. -/

namespace Sys2Proof.Machine

/-! ### Nothing but entries, ports and the pool -/

/-- Everything but the entries, the ports and the pool is the same. -/
structure Aside (s t : State) : Prop where
  pending : t.pending = s.pending
  resetLow : t.resetLow = s.resetLow
  listen : t.listen = s.listen
  turn : t.turn = s.turn
  sched : t.sched = s.sched
  line : t.line = s.line
  stats : t.stats = s.stats
  config : t.config = s.config

theorem Aside.rfl {s : State} : Aside s s := by constructor <;> exact Eq.refl _

theorem Aside.trans {s t u : State} (h : Aside s t) (k : Aside t u) : Aside s u where
  pending := k.pending.trans h.pending
  resetLow := k.resetLow.trans h.resetLow
  listen := k.listen.trans h.listen
  turn := k.turn.trans h.turn
  sched := k.sched.trans h.sched
  line := k.line.trans h.line
  stats := k.stats.trans h.stats
  config := k.config.trans h.config

theorem setPort_aside (s : State) (p : Port) (ps : PortState) : Aside s (s.setPort p ps) := by
  constructor <;> rfl

theorem setEntry_aside (s : State) (e : EntryIdx) (c : ConnEntry) : Aside s (s.setEntry e c) := by
  constructor <;> rfl

/-- A fold of operations that leave everything else alone does so too. -/
theorem foldl_aside {α : Type} {f : State → α → State} (h : ∀ s a, Aside s (f s a)) (s : State) (xs : List α) :
    Aside s (xs.foldl f s) := by
  induction xs generalizing s with
  | nil => exact Aside.rfl
  | cons x xs ih => exact (h s x).trans (ih (f s x))

/-! ### The buffer pool -/

/-- R86, R89: an allocation takes the head of the free list and charges its port, and R85 allowed it. -/
theorem allocate_eq {pool pool' : Pool} {p : Port} {h : Handle} (a : pool.allocate p = some (h, pool')) :
    pool.canAllocate p = true ∧ ∃ rest, pool.freeList = h :: rest ∧
      pool' =
        { pool with
          freeList := rest
          accounts := put pool.accounts p { pool.account p with charge := (pool.account p).charge + 1 } } := by
  unfold Pool.allocate at a
  split at a
  · cases a
  · next k rest hk =>
    split at a
    · next hc => cases a; exact ⟨hc, rest, hk, rfl⟩
    · cases a

/-- R85, R89: with a buffer free and the allocation allowed, the head is given. -/
theorem allocate_cons {pool : Pool} {p : Port} {h : Handle} {rest : List Handle} (hf : pool.freeList = h :: rest)
    (hc : pool.canAllocate p = true) :
    pool.allocate p =
      some (h, { pool with
        freeList := rest
        accounts := put pool.accounts p { pool.account p with charge := (pool.account p).charge + 1 } }) := by
  simp only [Pool.allocate, hf, hc, if_true]
  rfl

/-- R85: an allocation that is not allowed gives nothing. -/
theorem allocate_none {pool : Pool} {p : Port} (hc : pool.canAllocate p = false) : pool.allocate p = none := by
  unfold Pool.allocate
  split <;> simp [hc]

@[simp] theorem release_mem (pool : Pool) (p : Port) (h : Handle) : (pool.release p h).mem = pool.mem := rfl

@[simp] theorem release_freeList (pool : Pool) (p : Port) (h : Handle) :
    (pool.release p h).freeList = pool.freeList ++ [h] := rfl

@[simp] theorem release_account (pool : Pool) (p : Port) (h : Handle) :
    (pool.release p h).account p = { pool.account p with charge := (pool.account p).charge - 1 } := by
  simp [Pool.release, Pool.modAccount, Pool.account]

theorem release_account_other (pool : Pool) {p q : Port} (h : Handle) (hq : p ≠ q) :
    (pool.release p h).account q = pool.account q := by
  simp [Pool.release, Pool.modAccount, Pool.account, look_put_other _ _ hq]

/-- R87: a release leaves everything but the entries and the pool alone. -/
theorem release_aside (s : State) (p : Port) (h : Handle) : Aside s (s.release p h) := by
  constructor <;> rfl

@[simp] theorem release_ports (s : State) (p : Port) (h : Handle) : (s.release p h).ports = s.ports := rfl

@[simp] theorem release_pool (s : State) (p : Port) (h : Handle) : (s.release p h).pool = s.pool.release p h := rfl

@[simp] theorem release_entry (s : State) (p : Port) (h : Handle) (e : EntryIdx) :
    (s.release p h).entry e = (s.entry e).reconsider (s.pool.release p h) := by
  simp [State.release, State.entry]

/-- R88: an entry that is not starved is not re-evaluated. -/
theorem reconsider_fed (pool : Pool) {c : ConnEntry} (h : c.flags.starved = false) : c.reconsider pool = c := by
  unfold ConnEntry.reconsider
  split <;> simp [h]

/-- A re-evaluation changes nothing but flags and the answer timer. -/
theorem reconsider_fields (pool : Pool) (c : ConnEntry) :
    (c.reconsider pool).state = c.state ∧ (c.reconsider pool).owner = c.owner ∧
      (c.reconsider pool).orphan = c.orphan ∧ (c.reconsider pool).notices = c.notices ∧
      (c.reconsider pool).unacked = c.unacked ∧ (c.reconsider pool).sendQueue = c.sendQueue := by
  unfold ConnEntry.reconsider ConnEntry.settleTimer ConnEntry.endOfBusy ConnEntry.stopTimer
  split
  · split
    · split <;> split <;> exact ⟨rfl, rfl, rfl, rfl, rfl, rfl⟩
    · exact ⟨rfl, rfl, rfl, rfl, rfl, rfl⟩
  · exact ⟨rfl, rfl, rfl, rfl, rfl, rfl⟩

theorem releaseAll_aside (s : State) (p : Port) (hs : List Handle) : Aside s (s.releaseAll p hs) :=
  foldl_aside (fun s h => release_aside s p h) s hs

@[simp] theorem releaseAll_ports (s : State) (p : Port) (hs : List Handle) :
    (s.releaseAll p hs).ports = s.ports := by
  induction hs generalizing s with
  | nil => rfl
  | cons h hs ih => exact ih (s.release p h)

/-- R87: several releases put the buffers at the tail of the free list, in order. -/
@[simp] theorem releaseAll_freeList (s : State) (p : Port) (hs : List Handle) :
    (s.releaseAll p hs).pool.freeList = s.pool.freeList ++ hs := by
  induction hs generalizing s with
  | nil => simp [State.releaseAll]
  | cons h hs ih =>
    have := ih (s.release p h)
    simpa [State.releaseAll] using this

@[simp] theorem releaseAll_mem (s : State) (p : Port) (hs : List Handle) :
    (s.releaseAll p hs).pool.mem = s.pool.mem := by
  induction hs generalizing s with
  | nil => rfl
  | cons h hs ih => exact ih (s.release p h)

/-! ### Events and notices -/

/-- R103: a droppable event changes a port's queue alone. -/
theorem offer_fields (ps : PortState) (b : EventBody) : ps.offer b = { ps with queue := (ps.offer b).queue } := by
  unfold PortState.offer PortState.countDrop PortState.takeIn
  split
  · rfl
  · split
    · rfl
    · split <;> rfl

/-- R97, R103, R104: an offer adds at most one record. -/
theorem offer_length (ps : PortState) (b : EventBody) :
    (ps.offer b).queue.length = ps.queue.length ∨ (ps.offer b).queue.length = ps.queue.length + 1 := by
  unfold PortState.offer PortState.countDrop PortState.takeIn
  split
  · exact .inl rfl
  · split
    · exact .inr (by simp)
    · split
      · next n m h =>
        have : ps.queue ≠ [] := by
          intro h0
          simp [h0] at h
        have := List.length_pos_of_ne_nil this
        exact .inl (by simp; omega)
      · exact .inr (by simp)

theorem lineEvent_eq (s : State) (c : LineCode) :
    s.lineEvent c = { s with ports := s.ports.map (·.offer (.line c)) } := rfl

@[simp] theorem lineEvent_port (s : State) (c : LineCode) (p : Port) :
    (s.lineEvent c).port p = (s.port p).offer (.line c) := by
  simp [State.lineEvent, State.port]

@[simp] theorem lineEvent_entries (s : State) (c : LineCode) : (s.lineEvent c).entries = s.entries := rfl
@[simp] theorem lineEvent_pool (s : State) (c : LineCode) : (s.lineEvent c).pool = s.pool := rfl

theorem lineEvent_aside (s : State) (c : LineCode) : Aside s (s.lineEvent c) := by
  constructor <;> rfl

/-- R7, R103: an entry's event goes to its owner's port, and an orphan makes none. -/
theorem entryEvent_cases (s : State) (e : EntryIdx) (b : EventBody) :
    s.entryEvent e b = s ∨
      ∃ p, (s.entry e).owner = some p ∧ (s.entry e).orphan = false ∧
        s.entryEvent e b = s.setPort p ((s.port p).offer b) := by
  simp only [State.entryEvent]
  split
  · next p ho =>
    split
    · exact .inl rfl
    · next hx => exact .inr ⟨p, ho, by simpa using hx, rfl⟩
  · exact .inl rfl

theorem entryEvent_aside (s : State) (e : EntryIdx) (b : EventBody) : Aside s (s.entryEvent e b) := by
  rcases entryEvent_cases s e b with h | ⟨p, -, -, h⟩ <;> rw [h]
  · exact Aside.rfl
  · exact setPort_aside s p _

/-- R105, R7: a notice of an orphan is not made. Any other joins the owner's queue at its tail, or the entry's list at
its tail. -/
theorem makeNotice_cases (s : State) (e : EntryIdx) (n : Notice) :
    s.makeNotice e n = s ∨
      (∃ p, (s.entry e).owner = some p ∧ (s.entry e).notices = [] ∧ (s.port p).queue.length < 47 ∧
        s.makeNotice e n = s.setPort p ((s.port p).takeIn (.held e n))) ∨
      s.makeNotice e n = s.setEntry e { s.entry e with notices := (s.entry e).notices ++ [n] } := by
  simp only [State.makeNotice]
  split
  · next p ho =>
    split
    · exact .inl rfl
    · split
      · next hr =>
        simp only [Bool.and_eq_true, List.isEmpty_iff, PortState.hasRoom, decide_eq_true_eq] at hr
        exact .inr (.inl ⟨p, ho, hr.1, hr.2, rfl⟩)
      · exact .inr (.inr rfl)
  · exact .inl rfl

theorem makeNotice_aside (s : State) (e : EntryIdx) (n : Notice) : Aside s (s.makeNotice e n) := by
  rcases makeNotice_cases s e n with h | ⟨p, -, -, -, h⟩ | h <;> rw [h]
  · exact Aside.rfl
  · exact setPort_aside s p _
  · exact setEntry_aside s e _

@[simp] theorem makeNotice_pool (s : State) (e : EntryIdx) (n : Notice) : (s.makeNotice e n).pool = s.pool := by
  rcases makeNotice_cases s e n with h | ⟨p, -, -, -, h⟩ | h <;> rw [h] <;> rfl

/-- A notice of an entry leaves every other entry alone. -/
theorem makeNotice_entry_other (s : State) {e k : EntryIdx} (n : Notice) (h : e ≠ k) :
    (s.makeNotice e n).entry k = s.entry k := by
  rcases makeNotice_cases s e n with h' | ⟨p, -, -, -, h'⟩ | h' <;> rw [h']
  · rfl
  · exact entry_setEntry_other s _ h

/-- A notice of an entry changes nothing of the entry but its notice list. -/
theorem makeNotice_entry (s : State) (e : EntryIdx) (n : Notice) :
    (s.makeNotice e n).entry e = { s.entry e with notices := ((s.makeNotice e n).entry e).notices } := by
  rcases makeNotice_cases s e n with h | ⟨p, -, -, -, h⟩ | h <;> rw [h]
  · rfl
  · simp

/-! ### The passages of an entry -/

/-- R17: an entry that returns to FREE has every field at its value after reset, and its frame is detached. -/
theorem freeEntry_eq (s : State) (e : EntryIdx) :
    s.freeEntry e =
      { s with
        entries := put s.entries e {}
        sched := { s.sched with tx := s.sched.tx.map (TxRecord.detachFrom e) } } := rfl

@[simp] theorem freeEntry_entry (s : State) (e : EntryIdx) : (s.freeEntry e).entry e = {} := by
  simp [State.freeEntry, State.entry]

theorem freeEntry_entry_other (s : State) {e k : EntryIdx} (h : e ≠ k) : (s.freeEntry e).entry k = s.entry k := by
  simp [State.freeEntry, State.entry, look_put_other _ _ h]

@[simp] theorem freeEntry_txNone (s : State) (e : EntryIdx) (h : s.sched.tx = none) :
    (s.freeEntry e).sched.tx = none := by
  simp [State.freeEntry, h]

/-- The messages that leave an entry leave everything but entries and ports alone. -/
theorem unsendMessages_aside (s : State) (e : EntryIdx) : Aside s (s.unsendMessages e) :=
  (setEntry_aside s e _).trans (foldl_aside (fun s _ => makeNotice_aside s e _) _ _)

theorem abortEntry_aside (s : State) (e : EntryIdx) : Aside s (s.abortEntry e) :=
  (setEntry_aside s e _).trans (unsendMessages_aside _ e)

theorem endEntry_aside (s : State) (e : EntryIdx) (r : EndReason) : Aside s (s.endEntry e r) := by
  have h := (setEntry_aside s e ((s.entry e).toEnded r)).trans (unsendMessages_aside _ e)
  unfold State.endEntry
  dsimp only
  split
  · exact h.trans (makeNotice_aside _ e _)
  · exact h

theorem foldl_makeNotice_pool (e : EntryIdx) (f : Msg → Notice) (ms : List Msg) (s : State) :
    (ms.foldl (fun s m => s.makeNotice e (f m)) s).pool = s.pool := by
  induction ms generalizing s with
  | nil => rfl
  | cons m ms ih => rw [List.foldl_cons, ih, makeNotice_pool]

/-- R83: a message that becomes a notice keeps its buffer. -/
@[simp] theorem unsendMessages_pool (s : State) (e : EntryIdx) : (s.unsendMessages e).pool = s.pool :=
  foldl_makeNotice_pool e _ _ _

@[simp] theorem abortEntry_pool (s : State) (e : EntryIdx) : (s.abortEntry e).pool = s.pool :=
  unsendMessages_pool _ e

@[simp] theorem endEntry_pool (s : State) (e : EntryIdx) (r : EndReason) : (s.endEntry e r).pool = s.pool := by
  unfold State.endEntry
  dsimp only
  split
  · rw [makeNotice_pool]
    exact unsendMessages_pool _ e
  · exact unsendMessages_pool _ e

/-! ### The stray reply list, the line and the turn -/

/-- R147: an offer to the stray reply list, by the line engine's state and the room. -/
theorem offerStray_cases (s : State) (r : StrayReply) :
    s.offerStray r = s ∨
      (s.turn.engine ≠ .offline ∧ s.sched.strays.length < 8 ∧
        s.offerStray r = s.withSched { s.sched with strays := s.sched.strays ++ [r] }) ∨
      s.offerStray r = s.withStats s.stats.strayNotMade := by
  unfold State.offerStray
  split
  · exact .inl rfl
  · next h =>
    split
    · next h' => exact .inr (.inl ⟨h, h', rfl⟩)
    · exact .inr (.inr rfl)

/-- R157: an abandoned reception changes the line interface and one counter alone. -/
theorem abandonReception_eq (s : State) :
    s.abandonReception =
      { s with
        line := { s.line with receiving := false }
        stats := if s.line.receiving then s.stats.checkError else s.stats } := by
  unfold State.abandonReception
  split
  · rfl
  · next h =>
    have h' : s.line = { s.line with receiving := false } := by
      cases hl : s.line
      simp_all
    rw [← h']

/-- R152: the start of a frame makes its record and abandons a reception. -/
theorem startFrame_eq (s : State) (o : Origin) (f : Frame) (sn : Option Seq) (d : Discharged) :
    s.startFrame o f sn d =
      { s with
        line := { s.line with receiving := false }
        stats := if s.line.receiving then s.stats.checkError else s.stats
        sched :=
          { s.sched with tx := some { origin := o, frame := f, sn := sn, discharged := d, detached := false } } } := by
  rw [State.startFrame, abandonReception_eq]
  rfl

/-- LDE and LTX depend on the frame in transmission and on RESET alone. -/
theorem lde_ltx_of_frame {s t : State} (h : t.sched.tx.map (·.frame) = s.sched.tx.map (·.frame))
    (hr : t.resetLow = s.resetLow) : t.lde = s.lde ∧ t.ltx = s.ltx ∧ t.ltxBits = s.ltxBits := by
  have hl : t.lde = s.lde := by
    have := congrArg Option.isSome h
    simp only [Option.isSome_map] at this
    rw [State.lde, State.lde, this, hr]
  have he : ∀ u : State, u.sched.tx.map (·.frame.encode) = (u.sched.tx.map (·.frame)).map Frame.encode :=
    fun u => by simp [Function.comp_def]
  have hx : t.ltx = s.ltx := by rw [State.ltx, State.ltx, hl, he, he, h]
  exact ⟨hl, hx, by rw [State.ltxBits, State.ltxBits, hx]⟩

@[simp] theorem startFrame_turn (s : State) (o : Origin) (f : Frame) (sn : Option Seq) (d : Discharged) :
    (s.startFrame o f sn d).turn = s.turn := by rw [startFrame_eq]

@[simp] theorem startFrame_pool (s : State) (o : Origin) (f : Frame) (sn : Option Seq) (d : Discharged) :
    (s.startFrame o f sn d).pool = s.pool := by rw [startFrame_eq]

@[simp] theorem startFrame_entries (s : State) (o : Origin) (f : Frame) (sn : Option Seq) (d : Discharged) :
    (s.startFrame o f sn d).entries = s.entries := by rw [startFrame_eq]

@[simp] theorem startFrame_ports (s : State) (o : Origin) (f : Frame) (sn : Option Seq) (d : Discharged) :
    (s.startFrame o f sn d).ports = s.ports := by rw [startFrame_eq]

@[simp] theorem enterWaiting_turn (s : State) :
    s.enterWaiting.turn =
      { s.turn with
        engine := .waiting, lostTimer := some s.config.lostTime, holdTimer := none, responseTimer := none } := rfl

/-- R128: a handover leaves the line engine in HANDING with its first TURN on the line. -/
theorem beginHandover_fields (s : State) (k : HandoverKind) (a : Byte) :
    (s.beginHandover k a).turn.engine = .handing ∧ (s.beginHandover k a).turn.target = some a ∧
      (s.beginHandover k a).turn.kind = some k ∧ (s.beginHandover k a).turn.list = s.turn.list ∧
      ∃ t, (s.beginHandover k a).sched.tx = some t ∧ t.origin = .turn a := by
  unfold State.beginHandover State.sendTurn
  rw [startFrame_eq]
  exact ⟨rfl, rfl, rfl, rfl, _, rfl, rfl⟩

/-- R128: the end of a turn is a probe, a handover to the successor, or, with no PRESENT station, nothing. -/
theorem endTurn_cases (s : State) :
    s.endTurn = s ∨ (∃ a, s.endTurn = s.beginProbe a) ∨ ∃ a, s.endTurn = s.beginHandover .normal a := by
  unfold State.endTurn
  dsimp only
  split
  · next a _ => exact .inr (.inl ⟨a, rfl⟩)
  · split
    · next a _ => exact .inr (.inr ⟨a, rfl⟩)
    · exact .inl rfl

/-- R140, R148: an OFFLINE line engine has no handover, no running timer and no stray reply. -/
theorem goOffline_fields (s : State) :
    s.goOffline.turn.engine = .offline ∧ s.goOffline.turn.target = none ∧ s.goOffline.turn.kind = none ∧
      s.goOffline.turn.attempt = none ∧ s.goOffline.turn.lostTimer = none ∧
      s.goOffline.turn.holdTimer = none ∧ s.goOffline.turn.responseTimer = none ∧
      s.goOffline.sched.strays = [] :=
  ⟨rfl, rfl, rfl, rfl, rfl, rfl, rfl, rfl⟩

/-! ### Searches over the entries -/

/-- The first entry in index order with a property is the lowest of those that have it. -/
theorem firstEntry {P : EntryIdx → Bool} {e : EntryIdx} :
    allEntries.find? P = some e ↔ P e = true ∧ ∀ k, k < e → P k = false := by
  rw [allEntries, List.find?_eq_some_iff_getElem]
  constructor
  · rintro ⟨h, i, hi, rfl, hj⟩
    refine ⟨h, fun k hk => ?_⟩
    have := hj k.val (by simpa [Fin.lt_def] using hk)
    simpa using this
  · rintro ⟨h, hk⟩
    refine ⟨h, e.val, by simp, by simp, fun j hj => ?_⟩
    have := hk ⟨j, by omega⟩ hj
    simpa using this

/-- R1: the lowest-numbered FREE entry. -/
theorem lowestFree_some {s : State} {e : EntryIdx} :
    s.lowestFree = some e ↔ (s.entry e).state = .free ∧ ∀ k, k < e → (s.entry k).state ≠ .free := by
  simp [State.lowestFree, firstEntry]

theorem lowestFree_none {s : State} : s.lowestFree = none ↔ ∀ k, (s.entry k).state ≠ .free := by
  simp [State.lowestFree, allEntries]

/-- R107, R146: the entry that a rotation chooses is the first with the property after the pointer. -/
theorem roundRobin_some {ptr : EntryIdx} {P : EntryIdx → Bool} {e : EntryIdx} :
    roundRobin ptr P = some e ↔ P e = true ∧ ∀ k, P k = true → (e - (ptr + 1)).val ≤ (k - (ptr + 1)).val := by
  have shift : ∀ k : EntryIdx, ptr + (k - (ptr + 1)) + 1 = k := fun k => by
    rw [add_right_comm, add_sub_cancel]
  rw [roundRobin, List.find?_map, Option.map_eq_some_iff]
  constructor
  · rintro ⟨a, ha, rfl⟩
    rw [firstEntry] at ha
    refine ⟨ha.1, fun k hk => ?_⟩
    have ha' : ptr + a + 1 - (ptr + 1) = a := by rw [add_right_comm, add_sub_cancel_left]
    rw [ha']
    by_contra hlt
    have := ha.2 (k - (ptr + 1)) (by rw [Fin.lt_def]; omega)
    simp [shift, hk] at this
  · rintro ⟨he, hk⟩
    refine ⟨e - (ptr + 1), firstEntry.2 ⟨by simpa [shift] using he, fun k hlt => ?_⟩, shift e⟩
    by_contra hP
    have := hk (ptr + k + 1) (by simpa using hP)
    have hk' : ptr + k + 1 - (ptr + 1) = k := by rw [add_right_comm, add_sub_cancel_left]
    rw [hk'] at this
    rw [Fin.lt_def] at hlt
    omega

theorem roundRobin_none {ptr : EntryIdx} {P : EntryIdx → Bool} :
    roundRobin ptr P = none ↔ ∀ k, P k = false := by
  rw [roundRobin, List.find?_eq_none]
  constructor
  · intro h k
    have := h (ptr + (k - (ptr + 1)) + 1) (List.mem_map.2 ⟨_, by simp [allEntries], rfl⟩)
    rw [add_right_comm, add_sub_cancel] at this
    simpa using this
  · intro h k _
    simp [h k]

/-! ### Two-byte values -/

/-- R196: a number's low byte, and then the byte above it. -/
theorem twoBytes_eq (n : Nat) : twoBytes n = [byte n, byte (n / 256)] := by
  simp only [twoBytes, halfBytes, lowByte, highByte, byte, List.cons.injEq, and_true]
  constructor <;> apply BitVec.eq_of_toNat_eq
  · simp [BitVec.extractLsb'_toNat]
  · simp [BitVec.extractLsb'_toNat, Nat.shiftRight_eq_div_pow]
    omega

end Sys2Proof.Machine
end

