-- ==== Sys2Proof/Laws/PerInstr.lean ====
section
/-! SUPPORT. One statement about every command, made constructor by constructor: what the first byte of its
transaction says (R171, R199). -/

namespace Sys2Proof.Laws

open Machine

/-- R171: a command that is a host transaction is clocked with a type byte first, unless it is one the port
ignores. -/
def OnTheWire.Statement (i : Instr) : Prop :=
  ∀ w : Clocked, encodeTransaction i = some w →
    (bytesOf w.sdi).head? = some requestType ∨ (bytesOf w.sdi).head? = some collectType ∨
      ∃ (p : Port) (sdi : List Bool), i = .ignoredTransaction p sdi

/-- A complete request record is clocked with the type byte of a REQUEST first. -/
theorem requestClocked_first (r : Req) (code : Byte) (args : List Byte) {w : Clocked}
    (h : some (requestClocked r code args) = some w) : (bytesOf w.sdi).head? = some requestType := by
  cases h
  simp [requestClocked]

theorem OnTheWire.bufGet (r : Req) :
    OnTheWire.Statement (.bufGet r) :=
  fun _ h => .inl (requestClocked_first _ _ _ h)

theorem OnTheWire.bufPut (r : Req) (handle : Byte) :
    OnTheWire.Statement (.bufPut r handle) :=
  fun _ h => .inl (requestClocked_first _ _ _ h)

theorem OnTheWire.bufWrite (r : Req) (handle offset count : Byte) :
    OnTheWire.Statement (.bufWrite r handle offset count) :=
  fun _ h => .inl (requestClocked_first _ _ _ h)

theorem OnTheWire.bufRead (r : Req) (handle offset count : Byte) :
    OnTheWire.Statement (.bufRead r handle offset count) :=
  fun _ h => .inl (requestClocked_first _ _ _ h)

theorem OnTheWire.connOpen (r : Req) (service station window priority retryLimit : Byte) (answerTime : Half) :
    OnTheWire.Statement (.connOpen r service station window priority retryLimit answerTime) :=
  fun _ h => .inl (requestClocked_first _ _ _ h)

theorem OnTheWire.connSend (r : Req) (entry handle length : Byte) (hostTag : Half) (notify : Byte) :
    OnTheWire.Statement (.connSend r entry handle length hostTag notify) :=
  fun _ h => .inl (requestClocked_first _ _ _ h)

theorem OnTheWire.connHold (r : Req) (entry : Byte) :
    OnTheWire.Statement (.connHold r entry) :=
  fun _ h => .inl (requestClocked_first _ _ _ h)

theorem OnTheWire.connResume (r : Req) (entry : Byte) :
    OnTheWire.Statement (.connResume r entry) :=
  fun _ h => .inl (requestClocked_first _ _ _ h)

theorem OnTheWire.connClose (r : Req) (entry form : Byte) :
    OnTheWire.Statement (.connClose r entry form) :=
  fun _ h => .inl (requestClocked_first _ _ _ h)

theorem OnTheWire.connRelease (r : Req) (entry : Byte) :
    OnTheWire.Statement (.connRelease r entry) :=
  fun _ h => .inl (requestClocked_first _ _ _ h)

theorem OnTheWire.connQuery (r : Req) (entry : Byte) :
    OnTheWire.Statement (.connQuery r entry) :=
  fun _ h => .inl (requestClocked_first _ _ _ h)

theorem OnTheWire.listenAdd (r : Req) (service stationMatch stationMask windowMax priority retryLimit : Byte)
    (answerTime : Half) (accepts : Byte) :
    OnTheWire.Statement (.listenAdd r service stationMatch stationMask windowMax priority retryLimit answerTime accepts) :=
  fun _ h => .inl (requestClocked_first _ _ _ h)

theorem OnTheWire.listenDrop (r : Req) (service stationMatch stationMask : Byte) :
    OnTheWire.Statement (.listenDrop r service stationMatch stationMask) :=
  fun _ h => .inl (requestClocked_first _ _ _ h)

theorem OnTheWire.listenList (r : Req) :
    OnTheWire.Statement (.listenList r) :=
  fun _ h => .inl (requestClocked_first _ _ _ h)

theorem OnTheWire.evtFetch (r : Req) (n : Byte) :
    OnTheWire.Statement (.evtFetch r n) :=
  fun _ h => .inl (requestClocked_first _ _ _ h)

theorem OnTheWire.evtFilter (r : Req) (kind filter : Byte) :
    OnTheWire.Statement (.evtFilter r kind filter) :=
  fun _ h => .inl (requestClocked_first _ _ _ h)

theorem OnTheWire.portInfo (r : Req) :
    OnTheWire.Statement (.portInfo r) :=
  fun _ h => .inl (requestClocked_first _ _ _ h)

theorem OnTheWire.portResetRequest (r : Req) :
    OnTheWire.Statement (.portResetRequest r) :=
  fun _ h => .inl (requestClocked_first _ _ _ h)

theorem OnTheWire.cfgTake (r : Req) :
    OnTheWire.Statement (.cfgTake r) :=
  fun _ h => .inl (requestClocked_first _ _ _ h)

theorem OnTheWire.cfgPass (r : Req) (heir : Byte) :
    OnTheWire.Statement (.cfgPass r heir) :=
  fun _ h => .inl (requestClocked_first _ _ _ h)

theorem OnTheWire.cfgStation (r : Req) (station : Byte) :
    OnTheWire.Statement (.cfgStation r station) :=
  fun _ h => .inl (requestClocked_first _ _ _ h)

theorem OnTheWire.cfgLine (r : Req)
    (bitRate turnResponse lostBase claimSlot turnBudget holdLimit probeInterval : Byte) :
    OnTheWire.Statement (.cfgLine r bitRate turnResponse lostBase claimSlot turnBudget holdLimit probeInterval) :=
  fun _ h => .inl (requestClocked_first _ _ _ h)

theorem OnTheWire.cfgRead (r : Req) :
    OnTheWire.Statement (.cfgRead r) :=
  fun _ h => .inl (requestClocked_first _ _ _ h)

theorem OnTheWire.cfgQuota (r : Req) (port reserve limit : Byte) :
    OnTheWire.Statement (.cfgQuota r port reserve limit) :=
  fun _ h => .inl (requestClocked_first _ _ _ h)

theorem OnTheWire.turnAdd (r : Req) (station : Byte) :
    OnTheWire.Statement (.turnAdd r station) :=
  fun _ h => .inl (requestClocked_first _ _ _ h)

theorem OnTheWire.turnRemove (r : Req) (station : Byte) :
    OnTheWire.Statement (.turnRemove r station) :=
  fun _ h => .inl (requestClocked_first _ _ _ h)

theorem OnTheWire.turnList (r : Req) :
    OnTheWire.Statement (.turnList r) :=
  fun _ h => .inl (requestClocked_first _ _ _ h)

theorem OnTheWire.lineStart (r : Req) :
    OnTheWire.Statement (.lineStart r) :=
  fun _ h => .inl (requestClocked_first _ _ _ h)

theorem OnTheWire.lineStop (r : Req) :
    OnTheWire.Statement (.lineStop r) :=
  fun _ h => .inl (requestClocked_first _ _ _ h)

theorem OnTheWire.lineStatus (r : Req) (clear : Byte) :
    OnTheWire.Statement (.lineStatus r clear) :=
  fun _ h => .inl (requestClocked_first _ _ _ h)

theorem OnTheWire.unknownRequest (r : Req) (code : Byte) :
    OnTheWire.Statement (.unknownRequest r code) :=
  fun _ h => .inl (requestClocked_first _ _ _ h)

theorem OnTheWire.truncatedRequest (port : Port) (sdi : List Bool) :
    OnTheWire.Statement (.truncatedRequest port sdi) :=
  fun _ h => by cases h; exact .inl (by simp)

theorem OnTheWire.collect (port : Port) (sdi : List Bool) :
    OnTheWire.Statement (.collect port sdi) :=
  fun _ h => by cases h; exact .inr (.inl (by simp))

theorem OnTheWire.ignoredTransaction (port : Port) (sdi : List Bool) :
    OnTheWire.Statement (.ignoredTransaction port sdi) :=
  fun _ _ => .inr (.inr ⟨_, _, rfl⟩)

theorem OnTheWire.prstnAsserted (port : Port) :
    OnTheWire.Statement (.prstnAsserted port) :=
  fun _ h => by cases h

theorem OnTheWire.prstnReleased (port : Port) :
    OnTheWire.Statement (.prstnReleased port) :=
  fun _ h => by cases h

theorem OnTheWire.resetAsserted :
    OnTheWire.Statement .resetAsserted :=
  fun _ h => by cases h

theorem OnTheWire.resetReleased :
    OnTheWire.Statement .resetReleased :=
  fun _ h => by cases h

theorem OnTheWire.frameStart :
    OnTheWire.Statement .frameStart :=
  fun _ h => by cases h

theorem OnTheWire.frameEnd (status : FrameStatus) (bytes : List Byte) :
    OnTheWire.Statement (.frameEnd status bytes) :=
  fun _ h => by cases h

theorem OnTheWire.dataReceived (h : RxHead) (payload : List Byte) :
    OnTheWire.Statement (.dataReceived h payload) :=
  fun _ h => by cases h

theorem OnTheWire.readyReceived (h : RxHead) :
    OnTheWire.Statement (.readyReceived h) :=
  fun _ h => by cases h

theorem OnTheWire.waitReceived (h : RxHead) :
    OnTheWire.Statement (.waitReceived h) :=
  fun _ h => by cases h

theorem OnTheWire.repeatReceived (h : RxHead) :
    OnTheWire.Statement (.repeatReceived h) :=
  fun _ h => by cases h

theorem OnTheWire.openReceived (h : RxHead) (service window : Byte) :
    OnTheWire.Statement (.openReceived h service window) :=
  fun _ h => by cases h

theorem OnTheWire.acceptReceived (h : RxHead) (window : Byte) :
    OnTheWire.Statement (.acceptReceived h window) :=
  fun _ h => by cases h

theorem OnTheWire.refuseReceived (h : RxHead) (reason : Byte) :
    OnTheWire.Statement (.refuseReceived h reason) :=
  fun _ h => by cases h

theorem OnTheWire.closeReceived (h : RxHead) :
    OnTheWire.Statement (.closeReceived h) :=
  fun _ h => by cases h

theorem OnTheWire.closedReceived (h : RxHead) (reason : Byte) :
    OnTheWire.Statement (.closedReceived h reason) :=
  fun _ h => by cases h

theorem OnTheWire.turnReceived (h : RxHead) :
    OnTheWire.Statement (.turnReceived h) :=
  fun _ h => by cases h

theorem OnTheWire.endOfTransmission :
    OnTheWire.Statement .endOfTransmission :=
  fun _ h => by cases h

theorem OnTheWire.transmitFault :
    OnTheWire.Statement .transmitFault :=
  fun _ h => by cases h

theorem OnTheWire.answerTimerExpiry (entry : EntryIdx) :
    OnTheWire.Statement (.answerTimerExpiry entry) :=
  fun _ h => by cases h

theorem OnTheWire.lostTimerExpiry :
    OnTheWire.Statement .lostTimerExpiry :=
  fun _ h => by cases h

theorem OnTheWire.holdTimerExpiry :
    OnTheWire.Statement .holdTimerExpiry :=
  fun _ h => by cases h

theorem OnTheWire.turnResponseTimerExpiry :
    OnTheWire.Statement .turnResponseTimerExpiry :=
  fun _ h => by cases h

theorem OnTheWire.schedulerChoice :
    OnTheWire.Statement .schedulerChoice :=
  fun _ h => by cases h

theorem OnTheWire.noticeAdmission (port : Port) :
    OnTheWire.Statement (.noticeAdmission port) :=
  fun _ h => by cases h

theorem OnTheWire.lineReturnsToIdle :
    OnTheWire.Statement .lineReturnsToIdle :=
  fun _ h => by cases h

theorem OnTheWire.selectFalls (fall : Clocked) : OnTheWire.Statement (.selectFalls fall) :=
  fun _ h => by cases h

end Sys2Proof.Laws
end

