-- ==== Sys2Proof/Laws/Scheduling.lean ====
section
/-! SUPPORT. What the scheduler's choice can do, said once: it starts one frame, ends the turn, or does nothing, and when it
has been made nothing is left to choose. -/

namespace Sys2Proof.Machine

/-! ### What the choice changes -/

/-- The part is the same but for the entries, the frame on the line and the scheduler's pointers, the turn, a reception
that a frame abandons, and its count. -/
structure OnTheLine (s t : State) : Prop where
  pending : t.pending = s.pending
  resetLow : t.resetLow = s.resetLow
  listen : t.listen = s.listen
  pool : t.pool = s.pool
  ports : t.ports = s.ports
  config : t.config = s.config

theorem OnTheLine.rfl {s : State} : OnTheLine s s := by constructor <;> exact Eq.refl _

theorem OnTheLine.trans {s t u : State} (h : OnTheLine s t) (k : OnTheLine t u) : OnTheLine s u where
  pending := k.pending.trans h.pending
  resetLow := k.resetLow.trans h.resetLow
  listen := k.listen.trans h.listen
  pool := k.pool.trans h.pool
  ports := k.ports.trans h.ports
  config := k.config.trans h.config

theorem startFrame_onTheLine (s : State) (o : Origin) (f : Frame) (sn : Option Seq) (d : Discharged) :
    OnTheLine s (s.startFrame o f sn d) := by
  rw [startFrame_eq]
  constructor <;> rfl

theorem giveFrame_onTheLine (s : State) (e : EntryIdx) (c : ConnEntry) (f : Frame) (sn : Option Seq)
    (d : Discharged) : OnTheLine s (s.giveFrame e c f sn d) := by
  have h : OnTheLine s (s.setEntry e c) := by constructor <;> rfl
  exact h.trans (startFrame_onTheLine _ _ _ _ _)

theorem giveData_onTheLine (s : State) (e : EntryIdx) : OnTheLine s (s.giveData e) := by
  unfold State.giveData
  split
  · exact OnTheLine.rfl
  · exact giveFrame_onTheLine _ _ _ _ _ _

theorem giveResponse_onTheLine (s : State) (e : EntryIdx) : OnTheLine s (s.giveResponse e) := by
  unfold State.giveResponse
  dsimp only
  repeat' split
  all_goals first | exact giveData_onTheLine s e | exact giveFrame_onTheLine _ _ _ _ _ _

theorem giveInitiative_onTheLine (s : State) (e : EntryIdx) : OnTheLine s (s.giveInitiative e) := by
  unfold State.giveInitiative
  split <;> first | exact OnTheLine.rfl | exact giveFrame_onTheLine _ _ _ _ _ _

/-- R148 to R151: the frame of a choice changes nothing beside the line and the entry that gives it. -/
theorem startChoice_onTheLine (s : State) (c : Choice) : OnTheLine s (s.startChoice c) := by
  have h : OnTheLine s (s.withSched (s.sched.moveTo c)) := by constructor <;> rfl
  refine h.trans ?_
  cases c with
  | stray r => exact startFrame_onTheLine _ _ _ _ _
  | response e => exact giveResponse_onTheLine _ e
  | initiative e => exact giveInitiative_onTheLine _ e
  | data p e => exact giveData_onTheLine _ e
  | passing e p k =>
    refine OnTheLine.trans ?_ (giveData_onTheLine _ k)
    constructor <;> rfl

theorem beginHandover_onTheLine (s : State) (k : HandoverKind) (a : Byte) : OnTheLine s (s.beginHandover k a) := by
  unfold State.beginHandover State.sendTurn
  rw [startFrame_eq]
  constructor <;> rfl

theorem endTurn_onTheLine (s : State) : OnTheLine s s.endTurn := by
  rcases endTurn_cases s with h | ⟨a, h⟩ | ⟨a, h⟩ <;> rw [h]
  · exact OnTheLine.rfl
  · have hp : OnTheLine s (s.withTurn { s.turn with probeCursor := a, rotation := 0 }) := by constructor <;> rfl
    exact hp.trans (beginHandover_onTheLine _ _ a)
  · exact beginHandover_onTheLine s _ a

/-- R144: the choice starts one frame, or ends the turn, or does nothing. -/
theorem schedule_cases (s : State) :
    ((s.offered = false ∨ (s.choose = none ∧ s.turn.sole = true)) ∧ s.schedule = s) ∨
      (s.offered = true ∧ s.choose = none ∧ s.turn.sole = false ∧ s.schedule = s.endTurn) ∨
      ∃ c, s.offered = true ∧ s.choose = some c ∧ s.schedule = s.startChoice c := by
  unfold State.schedule
  cases ho : s.offered with
  | false => exact .inl ⟨.inl rfl, rfl⟩
  | true =>
    cases hc : s.choose with
    | some c => exact .inr (.inr ⟨c, rfl, rfl, rfl⟩)
    | none =>
      cases hs : s.turn.sole with
      | true => exact .inl ⟨.inr ⟨rfl, rfl⟩, rfl⟩
      | false => exact .inr (.inl ⟨rfl, rfl, rfl, rfl⟩)

/-- The choice changes nothing beside the line and the entry that gives a frame. -/
theorem schedule_onTheLine (s : State) : OnTheLine s s.schedule := by
  rcases schedule_cases s with ⟨-, h⟩ | ⟨-, -, -, h⟩ | ⟨c, -, -, h⟩ <;> rw [h]
  · exact OnTheLine.rfl
  · exact endTurn_onTheLine s
  · exact startChoice_onTheLine s c

@[simp] theorem schedule_ports (s : State) : s.schedule.ports = s.ports := (schedule_onTheLine s).ports
@[simp] theorem schedule_port (s : State) (p : Port) : s.schedule.port p = s.port p := by simp [State.port]
@[simp] theorem schedule_pool (s : State) : s.schedule.pool = s.pool := (schedule_onTheLine s).pool
@[simp] theorem schedule_account (s : State) (p : Port) : s.schedule.account p = s.account p := by
  simp [State.account]
@[simp] theorem schedule_listen (s : State) : s.schedule.listen = s.listen := (schedule_onTheLine s).listen
@[simp] theorem schedule_config (s : State) : s.schedule.config = s.config := (schedule_onTheLine s).config
@[simp] theorem schedule_pending (s : State) : s.schedule.pending = s.pending := (schedule_onTheLine s).pending
@[simp] theorem schedule_resetLow (s : State) : s.schedule.resetLow = s.resetLow := (schedule_onTheLine s).resetLow

/-- A scheduler that is not offered the line does nothing. -/
theorem schedule_quiet {s : State} (h : s.offered = false) : s.schedule = s := by simp [State.schedule, h]

/-! ### Nothing is left to choose -/

/-- A choice that has been made leaves nothing to choose. -/
theorem schedule_of_settled {s : State} (h : settled s) : s.schedule = s := by
  cases ho : s.offered with
  | false => exact schedule_quiet ho
  | true =>
    obtain ⟨hw, hs⟩ := h ho
    simp only [State.hasWork, Option.isSome_eq_false_iff, Option.isNone_iff_eq_none] at hw
    simp [State.schedule, ho, hw, hs]

/-- A port's change offers nothing and makes no work. -/
theorem schedule_setPort_settled {s : State} (p : Port) (ps : PortState) (h : settled s) :
    (s.setPort p ps).schedule = s.setPort p ps := schedule_of_settled h

/-! ### Every choice starts a frame -/

/-- A frame is in transmission. -/
def State.sends (s : State) : Prop := s.sched.tx.isSome = true

theorem startFrame_sends (s : State) (o : Origin) (f : Frame) (sn : Option Seq) (d : Discharged) :
    (s.startFrame o f sn d).sends := by
  rw [startFrame_eq]
  exact rfl

/-- R30: an entry of the DATA class has a message to send. -/
theorem takeMessage_isSome {c : ConnEntry} (h : c.eligible = true) : ∃ x, c.takeMessage = some x := by
  have marked : ∀ list : List SentMsg, list.any (·.needsTx) = true → ∃ x, takeMarked list = some x := by
    intro list hm
    induction list with
    | nil => simp at hm
    | cons m rest ih =>
      unfold takeMarked
      split
      · exact ⟨_, rfl⟩
      · next hn =>
        obtain ⟨x, hx⟩ := ih (by simpa [hn] using hm)
        exact ⟨_, by rw [hx]; rfl⟩
  unfold ConnEntry.takeMessage
  cases hm : takeMarked c.unacked with
  | some x => exact ⟨_, rfl⟩
  | none =>
    cases hq : c.sendQueue with
    | cons m rest => exact ⟨_, rfl⟩
    | nil =>
      exfalso
      simp only [ConnEntry.eligible, ConnEntry.marked, Bool.and_eq_true, Bool.or_eq_true, hq, List.isEmpty_nil,
        Bool.not_true, Bool.false_eq_true, false_and, or_false] at h
      obtain ⟨x, hx⟩ := marked _ h.2
      rw [hm] at hx
      cases hx

theorem giveData_sends {s : State} {e : EntryIdx} (h : (s.entry e).eligible = true) : (s.giveData e).sends := by
  obtain ⟨⟨m, sn, c⟩, hx⟩ := takeMessage_isSome h
  unfold State.giveData
  rw [hx]
  exact startFrame_sends _ _ _ _ _

theorem giveResponse_sends (s : State) (e : EntryIdx) : (s.giveResponse e).sends := by
  unfold State.giveResponse
  dsimp only
  split
  · exact startFrame_sends _ _ _ _ _
  · split
    · exact startFrame_sends _ _ _ _ _
    · split
      · exact startFrame_sends _ _ _ _ _
      · split
        · next h => exact giveData_sends (by simp only [Bool.and_eq_true] at h; exact h.1)
        · exact startFrame_sends _ _ _ _ _

theorem giveInitiative_sends {s : State} {e : EntryIdx} (h : (s.entry e).inInitiative = true) :
    (s.giveInitiative e).sends := by
  unfold State.giveInitiative
  split
  all_goals first
    | exact startFrame_sends _ _ _ _ _
    | (next hs => simp [ConnEntry.inInitiative, ConnEntry.live, hs] at h)

/-- R145: what a choice is chosen for. -/
def State.chosenFor (s : State) : Choice → Prop
  | .stray _ => True
  | .response _ => True
  | .initiative e => (s.entry e).inInitiative = true
  | .data _ e => (s.entry e).eligible = true
  | .passing e _ k => ((s.modEntry e ConnEntry.settleAbort).entry k).eligible = true

/-- R151: the entry that the DATA class gives has eligible DATA at the priority given, and no higher priority has any. -/
theorem chooseDataClass_some {s : State} {p : Fin 4} {e : EntryIdx} (h : s.chooseDataClass = some (p, e)) :
    s.chooseData p = some e ∧ ∀ q : Fin 4, p < q → s.chooseData q = none := by
  unfold State.chooseDataClass at h
  have all : ∀ q : Fin 4, q = 0 ∨ q = 1 ∨ q = 2 ∨ q = 3 := by decide
  cases h3 : s.chooseData 3 <;> cases h2 : s.chooseData 2 <;> cases h1 : s.chooseData 1 <;>
    cases h0 : s.chooseData 0 <;> simp [List.findSome?, h3, h2, h1, h0] at h <;>
    (obtain ⟨rfl, rfl⟩ := h
     refine ⟨by assumption, fun q hq => ?_⟩
     rcases all q with rfl | rfl | rfl | rfl <;> first | assumption | exact absurd hq (by decide))

theorem chooseDataClass_none {s : State} :
    s.chooseDataClass = none ↔ ∀ q : Fin 4, s.chooseData q = none := by
  have all : ∀ P : Fin 4 → Prop, (∀ q, P q) ↔ P 3 ∧ P 2 ∧ P 1 ∧ P 0 := fun P =>
    ⟨fun h => ⟨h 3, h 2, h 1, h 0⟩, fun ⟨h3, h2, h1, h0⟩ q => by
      have : q = 0 ∨ q = 1 ∨ q = 2 ∨ q = 3 := by revert q; decide
      rcases this with rfl | rfl | rfl | rfl <;> assumption⟩
  rw [all]
  simp [State.chooseDataClass]

/-- R145, R156 row 4: the choice from the initiative class or the DATA class. -/
theorem chooseUnprompted_some {s : State} {c : Choice} (h : s.chooseUnprompted = some c) :
    (∃ e, s.chooseInitiative = some e ∧ c = .initiative e) ∨
      (∃ p e, s.chooseInitiative = none ∧ s.chooseDataClass = some (p, e) ∧ c = .data p e) ∨
      ∃ e p k, s.chooseInitiative = some e ∧ s.chooseDataClass = some (p, k) ∧ s.abortedInPlace e p = true ∧
        Config.abortedCloseWaits = true ∧ c = .passing e p k := by
  unfold State.chooseUnprompted at h
  split at h
  · next e p k he hk =>
    split at h
    · next hp =>
      simp only [Bool.and_eq_true] at hp
      exact .inr (.inr ⟨e, p, k, he, hk, hp.1, hp.2, (Option.some.inj h).symm⟩)
    · exact .inl ⟨e, he, (Option.some.inj h).symm⟩
  · next e he _ => exact .inl ⟨e, he, (Option.some.inj h).symm⟩
  · next p k he hk => exact .inr (.inl ⟨p, k, he, hk, (Option.some.inj h).symm⟩)
  · cases h

/-- A mark of the model's own makes no DATA eligible. -/
@[simp] theorem settleAbort_eligible (c : ConnEntry) : c.settleAbort.eligible = c.eligible := rfl

theorem choose_for {s : State} {c : Choice} (h : s.choose = some c) : s.chosenFor c := by
  have data : ∀ p e, s.chooseDataClass = some (p, e) → (s.entry e).eligible = true := by
    intro p e he
    have := (roundRobin_some.1 (chooseDataClass_some he).1).1
    simp only [ConnEntry.inData, Bool.and_eq_true] at this
    exact this.1
  unfold State.choose at h
  simp only [Option.orElse_eq_some, Option.map_eq_some_iff] at h
  rcases h with ⟨r, -, rfl⟩ | ⟨-, ⟨e, -, rfl⟩ | ⟨-, h⟩⟩
  · trivial
  · trivial
  · rcases chooseUnprompted_some h with ⟨e, he, rfl⟩ | ⟨p, e, -, he, rfl⟩ | ⟨e, p, k, -, hk, -, -, rfl⟩
    · exact (roundRobin_some.1 he).1
    · exact data p e he
    · simp only [State.chosenFor, modEntry_eq]
      by_cases hek : e = k
      · subst hek
        simpa using data p e hk
      · simpa [entry_setEntry_other _ _ hek] using data p k hk

theorem startChoice_sends {s : State} {c : Choice} (h : s.choose = some c) : (s.startChoice c).sends := by
  have hf := choose_for h
  cases c with
  | stray r => exact startFrame_sends _ _ _ _ _
  | response e => exact giveResponse_sends _ e
  | initiative e => exact giveInitiative_sends (s := s.withSched (s.sched.moveTo (.initiative e))) hf
  | data p e => exact giveData_sends (s := s.withSched (s.sched.moveTo (.data p e))) hf
  | passing e p k =>
    exact giveData_sends
      (s := (s.withSched (s.sched.moveTo (.passing e p k))).modEntry e ConnEntry.settleAbort) hf

/-- R122: outside sole mode there is a successor. -/
theorem successor_isSome {t : TurnController} (own : Byte) (h : t.sole = false) : ∃ a, t.successor own = some a := by
  simp only [TurnController.sole, Bool.not_eq_false', List.any_eq_true] at h
  obtain ⟨r, hr, hp⟩ := h
  unfold TurnController.successor
  dsimp only
  split
  · exact ⟨_, rfl⟩
  · cases hl : (t.list.filter (·.present)).map (·.address) with
    | cons a _ => exact ⟨a, rfl⟩
    | nil =>
      have : r.address ∈ (t.list.filter (·.present)).map (·.address) :=
        List.mem_map.2 ⟨r, List.mem_filter.2 ⟨hr, hp⟩, rfl⟩
      rw [hl] at this
      cases this

theorem endTurn_sends {s : State} (h : s.turn.sole = false) : s.endTurn.sends := by
  obtain ⟨a, ha⟩ := successor_isSome s.config.station h
  unfold State.endTurn
  dsimp only
  split
  · exact startFrame_sends _ _ _ _ _
  · rw [ha]
    exact startFrame_sends _ _ _ _ _

/-- R144: after the choice, what is still offered is a turn of sole mode with nothing to send. -/
theorem schedule_settled (s : State) : settled s.schedule := by
  have quiet : ∀ t : State, t.sends → settled t := fun t ht ho => by
    simp only [State.offered, Bool.and_eq_true, Option.isNone_iff_eq_none] at ho
    simp [State.sends, ho.1.1.2] at ht
  rcases schedule_cases s with ⟨h, hs⟩ | ⟨-, -, h, hs⟩ | ⟨c, -, h, hs⟩ <;> rw [hs]
  · intro ho
    rcases h with h | ⟨hc, hsole⟩
    · rw [h] at ho
      cases ho
    · exact ⟨by simp [State.hasWork, hc], hsole⟩
  · exact quiet _ (endTurn_sends h)
  · exact quiet _ (startChoice_sends h)

end Sys2Proof.Machine
end

