-- ==== Sys2Proof/Laws/Transactions.lean ====
section
/-! SUPPORT. What a transaction can do, said once: a request that a port hears is served, with the reply of its block in
the slot, and a port that hears nothing takes nothing. -/

namespace Sys2Proof.Machine

/-- When the port hears, the bits clocked so far are none, and the fall of select leaves a transaction in progress with
select low. -/
theorem fall_hears {s : State} {p : Port} (h : s.hears p = true) (sdi : List Bool) :
    (s.port p).contradicts sdi = false ∧ ((s.port p).fall s.resetLow).inTransaction = true ∧
      ((s.port p).fall s.resetLow).selectLow = true := by
  simp only [State.hears, Bool.and_eq_true, Bool.not_eq_true', Bool.or_eq_true] at h
  obtain ⟨⟨hr, hi⟩, hs⟩ := h
  cases hl : (s.port p).selectLow <;>
    simp_all [PortState.fall, PortState.inTransaction, PortState.contradicts]

/-- A fall of select changes the select level, the transaction and the bits on SDI and SDO alone. -/
theorem fall_fields (low : Bool) (ps : PortState) :
    (ps.fall low).requestBytes = ps.requestBytes ∧ (ps.fall low).slot = ps.slot ∧
      (ps.fall low).collectPos = ps.collectPos ∧ (ps.fall low).inReset = ps.inReset ∧
      (ps.fall low).cutShort = ps.cutShort ∧ (ps.fall low).queue = ps.queue ∧
      (ps.fall low).filters = ps.filters ∧ (ps.fall low).admission = ps.admission := by
  unfold PortState.fall
  split
  · simp
  · split <;> simp

/-- R171, R172: a transaction clocked with the type byte of a REQUEST and whole bytes after it. -/
theorem clock_request (ps : PortState) (bytes : List Byte) :
    ps.clock (bitsOf (requestType :: bytes)) =
      { ps with
        transaction := .request, requestBytes := bytes, collectPos := 0, sdi := bitsOf (requestType :: bytes)
        sdo := List.replicate (8 * (bytes.length + 1)) false } := by
  simp only [PortState.clock, bytesOf_bitsOf, if_true, bitsOf_length, List.length_cons, zeroBits]

/-- A REQUEST transaction clocked over a port that hears leaves the part as at its rise of select. -/
theorem clocked_taking {s : State} {p : Port} (bytes : List Byte) (h : s.hears p = true) :
    s.setPort p (PortState.clock (bitsOf (requestType :: bytes)) ((s.port p).fall s.resetLow)) = s.taking p bytes := by
  obtain ⟨h1, h2, h3, h4, h5, h6, h7, h8⟩ := fall_fields s.resetLow (s.port p)
  have hsel := (fall_hears h []).2.2
  simp only [State.taking, modPort_eq, clock_request]
  congr 1
  cases hf : (s.port p).fall s.resetLow
  simp_all

/-- The bits of a request record are those of its type byte and of its bytes. -/
theorem record_bits (r : Req) (code : Byte) (args : List Byte) :
    bitsOf ([requestType, code, r.tag] ++ args ++ r.rest) =
      bitsOf (requestType :: ([code, r.tag] ++ args ++ r.rest)) := rfl

/-- A transaction on a port that hears: the port clocks, takes, and select rises. -/
theorem transact_hears {s : State} {p : Port} (sdi : List Bool) (taken : State → State) (h : s.hears p = true) :
    s.transact p sdi taken =
      (taken (s.setPort p (((s.port p).fall s.resetLow).clock sdi))).modPort p PortState.rise := by
  obtain ⟨hc, hi, -⟩ := fall_hears h sdi
  simp [State.transact, hc, hi]

/-- A select low on a port with no transaction in progress, because its fall began none or because a reset ended it:
nothing is taken. If a port reset cut the transaction short, SDO keeps what it carried and carries zeros after it
(R171, R179, R180, R184). -/
theorem transact_deaf {s : State} {p : Port} (sdi : List Bool) (taken : State → State)
    (h : ((s.port p).selectLow = false ∧ (s.resetLow = true ∨ (s.port p).inReset = true)) ∨
      ((s.port p).selectLow = true ∧ (s.port p).transaction = .idle))
    (hc : (s.port p).contradicts sdi = false) :
    s.transact p sdi taken =
      s.modPort p fun ps =>
        { ps with
          selectLow := false, cutShort := false, transaction := .idle, requestBytes := [], collectPos := 0, sdi := []
          sdo := if ps.cutShort then ps.sdo ++ List.replicate (sdi.length - ps.sdo.length) false else ps.sdo } := by
  obtain ⟨x, hf⟩ : ∃ x, (s.port p).fall s.resetLow = { s.port p with selectLow := true, transaction := .idle, sdi := x } := by
    rcases h with ⟨hs, h | h⟩ | ⟨hs, ht⟩
    · exact ⟨[], by simp [PortState.fall, hs, h]⟩
    · exact ⟨[], by simp [PortState.fall, hs, h]⟩
    · refine ⟨(s.port p).sdi, ?_⟩
      cases hp : s.port p
      simp_all [PortState.fall]
  simp only [State.transact, hc, modPort_eq, port_setPort_same, hf]
  simp only [PortState.inTransaction, PortState.clockNothing]
  cases (s.port p).cutShort <;> cases (s.port p).slot <;> simp [PortState.rise, zeroBits]

@[simp] theorem taking_slot (s : State) (p : Port) (bytes : List Byte) :
    ((s.taking p bytes).port p).slot = (s.port p).slot := by simp [State.taking]

@[simp] theorem taking_transaction (s : State) (p : Port) (bytes : List Byte) :
    ((s.taking p bytes).port p).transaction = .request := by simp [State.taking]

/-- The rise of select after a reply was placed, if the transaction was no COLLECT. -/
theorem place_rise (t : State) (p : Port) (st : Status) (tag : Byte) (lost : Bool) (results : List Byte)
    (h : (t.port p).transaction ≠ .collect) :
    (t.modPort p (·.place st tag lost results)).modPort p PortState.rise =
      t.replying p { status := st, tag := tag, lost := lost, results := results } := by
  simp [State.replying, PortState.place, PortState.rise, h]

/-- What an answer does at its port's transaction: nothing turns it into a COLLECT. -/
def Answer.keepsRequest (a : Answer) (p : Port) : Prop := (a.after.port p).transaction ≠ .collect

/-- A request that a port hears, without surplus bytes: the block answers on the part at the rise of select, and the
reply stands in the slot. -/
theorem request_hears {s : State} {r : Req} (code : Byte) (args : List Byte) (handle : State → Answer)
    (h : s.hears r.port = true) (hr : r.rest = [])
    (hk : (handle (s.taking r.port ([code, r.tag] ++ args ++ r.rest))).keepsRequest r.port) :
    s.request r code args handle =
      s.served r code args (handle (s.taking r.port ([code, r.tag] ++ args ++ r.rest))).status
        (handle (s.taking r.port ([code, r.tag] ++ args ++ r.rest))).results
        (fun t => (handle t).after) := by
  rw [State.request, transact_hears _ _ h]
  rw [record_bits, clocked_taking _ h]
  simp only [State.answer, hr, List.isEmpty_nil, Bool.not_true, Bool.false_eq_true, if_false, taking_slot]
  rw [place_rise _ _ _ _ _ _ (by rw [hr] at hk; exact hk)]
  simp only [State.served, hr]

/-- A request with surplus bytes is BAD_ARG (R173). -/
theorem request_surplus {s : State} {r : Req} (code : Byte) (args : List Byte) (handle : State → Answer)
    (h : s.hears r.port = true) (hr : r.rest ≠ []) :
    s.request r code args handle = s.refusing r code args .badArg := by
  have hr' : r.rest.isEmpty = false := by cases hh : r.rest <;> simp_all
  rw [State.request, transact_hears _ _ h]
  rw [record_bits, clocked_taking _ h]
  simp only [State.answer, hr', Bool.not_false, if_true, taking_slot, Answer.refuse]
  rw [place_rise _ _ _ _ _ _ (by simp)]
  simp [State.refusing, State.served]

/-- BUF.WRITE and the unknown codes take the bytes after the fixed arguments. -/
theorem requestWithData_hears {s : State} {r : Req} (code : Byte) (args : List Byte) (handle : State → Answer)
    (h : s.hears r.port = true)
    (hk : (handle (s.taking r.port ([code, r.tag] ++ args ++ r.rest))).keepsRequest r.port) :
    s.requestWithData r code args handle =
      s.served r code args (handle (s.taking r.port ([code, r.tag] ++ args ++ r.rest))).status
        (handle (s.taking r.port ([code, r.tag] ++ args ++ r.rest))).results
        (fun t => (handle t).after) := by
  rw [State.requestWithData, transact_hears _ _ h]
  rw [record_bits, clocked_taking _ h]
  simp only [State.answer, Bool.false_eq_true, if_false, taking_slot]
  rw [place_rise _ _ _ _ _ _ hk]
  simp only [State.served]

/-- A block's refusal, and nothing else changes. -/
theorem request_refuses {s : State} {r : Req} {code : Byte} {args : List Byte} {st : Status}
    {handle : State → Answer} (h : s.hears r.port = true) (hr : r.rest = [])
    (hh : handle (s.taking r.port ([code, r.tag] ++ args ++ r.rest)) =
      Answer.refuse st (s.taking r.port ([code, r.tag] ++ args ++ r.rest))) :
    s.request r code args handle = s.refusing r code args st := by
  rw [request_hears _ _ _ h hr (by rw [hh]; simp [Answer.keepsRequest, Answer.refuse])]
  simp only [State.refusing, State.served, hh, Answer.refuse, id]

/-- A block's OK, with the effect it has on the part at the rise of select. -/
theorem request_serves {s : State} {r : Req} {code : Byte} {args results : List Byte} {handle : State → Answer}
    (f : State → State) (h : s.hears r.port = true) (hr : r.rest = [])
    (hh : handle (s.taking r.port ([code, r.tag] ++ args ++ r.rest)) =
      Answer.ok results (f (s.taking r.port ([code, r.tag] ++ args ++ r.rest))))
    (hk : ((f (s.taking r.port ([code, r.tag] ++ args ++ r.rest))).port r.port).transaction ≠ .collect) :
    s.request r code args handle = s.served r code args .ok results f := by
  rw [request_hears _ _ _ h hr (by rw [hh]; simpa [Answer.keepsRequest, Answer.ok] using hk)]
  simp only [State.served, hh, Answer.ok]

/-- A refusal of BUF.WRITE or of an unknown code. -/
theorem requestWithData_refuses {s : State} {r : Req} {code : Byte} {args : List Byte} {st : Status}
    {handle : State → Answer} (h : s.hears r.port = true)
    (hh : handle (s.taking r.port ([code, r.tag] ++ args ++ r.rest)) =
      Answer.refuse st (s.taking r.port ([code, r.tag] ++ args ++ r.rest))) :
    s.requestWithData r code args handle = s.refusing r code args st := by
  rw [requestWithData_hears _ _ _ h (by rw [hh]; simp [Answer.keepsRequest, Answer.refuse])]
  simp only [State.refusing, State.served, hh, Answer.refuse, id]

/-- An OK of BUF.WRITE. -/
theorem requestWithData_serves {s : State} {r : Req} {code : Byte} {args results : List Byte}
    {handle : State → Answer} (f : State → State) (h : s.hears r.port = true)
    (hh : handle (s.taking r.port ([code, r.tag] ++ args ++ r.rest)) =
      Answer.ok results (f (s.taking r.port ([code, r.tag] ++ args ++ r.rest))))
    (hk : ((f (s.taking r.port ([code, r.tag] ++ args ++ r.rest))).port r.port).transaction ≠ .collect) :
    s.requestWithData r code args handle = s.served r code args .ok results f := by
  rw [requestWithData_hears _ _ _ h (by rw [hh]; simpa [Answer.keepsRequest, Answer.ok] using hk)]
  simp only [State.served, hh, Answer.ok]

variable (s : State) (p q : Port) (bytes : List Byte) (e : EntryIdx)

@[simp] theorem taking_entries : (s.taking p bytes).entries = s.entries := rfl
@[simp] theorem taking_entry : (s.taking p bytes).entry e = s.entry e := rfl
@[simp] theorem taking_listen : (s.taking p bytes).listen = s.listen := rfl
@[simp] theorem taking_pool : (s.taking p bytes).pool = s.pool := rfl
@[simp] theorem taking_account : (s.taking p bytes).account q = s.account q := rfl
@[simp] theorem taking_turn : (s.taking p bytes).turn = s.turn := rfl
@[simp] theorem taking_sched : (s.taking p bytes).sched = s.sched := rfl
@[simp] theorem taking_line : (s.taking p bytes).line = s.line := rfl
@[simp] theorem taking_stats : (s.taking p bytes).stats = s.stats := rfl
@[simp] theorem taking_config : (s.taking p bytes).config = s.config := rfl
@[simp] theorem taking_pending : (s.taking p bytes).pending = s.pending := rfl
@[simp] theorem taking_resetLow : (s.taking p bytes).resetLow = s.resetLow := rfl
@[simp] theorem taking_lowestFree : (s.taking p bytes).lowestFree = s.lowestFree := rfl
@[simp] theorem taking_hasRight : (s.taking p bytes).hasRight q = s.hasRight q := rfl
@[simp] theorem taking_hasWork : (s.taking p bytes).hasWork = s.hasWork := rfl
@[simp] theorem taking_queue : ((s.taking p bytes).port p).queue = (s.port p).queue := by simp [State.taking]
@[simp] theorem taking_filters : ((s.taking p bytes).port p).filters = (s.port p).filters := by simp [State.taking]
@[simp] theorem taking_admission : ((s.taking p bytes).port p).admission = (s.port p).admission := by
  simp [State.taking]

/-- Another port is as it was. -/
theorem taking_port_other {p q : Port} (h : p ≠ q) : (s.taking p bytes).port q = s.port q := by
  simp [State.taking, port_setPort_other _ _ h]

end Sys2Proof.Machine
end

