-- ==== Sys2Proof/Tests/Slice0.lean ====
section
/-! SUPPORT. Tests of single steps, with expected results worked out by hand from the manual, and for every statement
with hypotheses a state and operands that meet them, at the edges of their ranges. -/

namespace Sys2Proof.Tests

section

open Machine

-- The tests are evaluated one after the other: side by side they would need a thread and its stack each.
set_option Elab.async false

/-! ### Helpers -/

/-- The outcome is this next state. -/
def goesTo (o : Host.Outcome State Fault Refusal) (t : State) : Bool :=
  match o with
  | .next s => decide (s = t)
  | .fault _ => false
  | .refused _ => false

/-- The outcome is a next state with this property. -/
def goes (o : Host.Outcome State Fault Refusal) (P : State → Bool) : Bool :=
  match o with
  | .next s => P s
  | .fault _ => false
  | .refused _ => false

/-- A request record of a port with tag 42H and no surplus bytes. -/
def req (p : Port) : Req := { port := p, tag := 0x42, rest := [] }

/-- The part in a line engine state: station 5, two PRESENT stations and a SILENT one, the right with port 0. -/
def line (engine : LineState) : State :=
  { State.reset with
    turn :=
      { engine := engine,
        list :=
          [{ address := 3, present := true }, { address := 9, present := true }, { address := 20, present := false }],
        frameCount := 1, holdTimer := some 5000 }
    config := { rightHolder := some 0, station := 5 } }

/-- An OPEN entry of port 0 with entry 4 of station 9, window 2. -/
def conn : ConnEntry :=
  { state := .opened, owner := some 0, remoteStation := some 9, remoteIndex := some 4, service := some 7,
    window := some 2, priority := some 1, retryLimit := some 3, answerTime := some 100 }

/-- The holding part with one entry, number 2. -/
def at2 (c : ConnEntry) : State := (line .holding).setEntry 2 c

/-- The waiting part with one entry, number 2. -/
def waits2 (c : ConnEntry) : State := (line .waiting).setEntry 2 c

/-- A header from entry 4 of station 9 for entry 2. -/
def head (seq : Byte) : RxHead := { src := 9, dci := 2, sci := 4, seq := seq }

/-- A message of entry 2 in buffer 0. -/
def msg : Msg := { handle := 0, length := 3, tag := 0x1234, notify := true }

/-- The pool with buffer 0 charged to port 0, and held by it or not. -/
def charged (held : List Handle) : Pool :=
  { State.reset.pool with
    freeList := (List.finRange 192).drop 1, accounts := put State.reset.pool.accounts 0 { charge := 1, held := held } }

/-- A frame of an entry or of another origin on the line. -/
def onLine (o : Origin) (k : FrameKind) (sn : Option Seq) (d : Discharged) : TxRecord :=
  { origin := o, frame := { dest := 9, src := 5, kind := k, dci := 4, sci := 2, seq := 0, payload := [] }, sn := sn,
    discharged := d, detached := false }

/-- The part with a frame on the line. -/
def sends (s : State) (t : TxRecord) : State := { s with sched := { s.sched with tx := some t } }

/-- A queue of so many records. -/
def records (n : Nat) : List EventRecord := List.replicate n { body := .opened 0, alerts := false }

/-! ### WellFormed: an ill-formed command for each check -/

theorem test_wf_known_code : (Instr.unknownRequest (req 0) 0x10).wf = false := by decide +kernel

theorem test_wf_unknown_code : (Instr.unknownRequest (req 0) 0x83).wf = true := by decide +kernel

theorem test_wf_ignored :
    (Instr.ignoredTransaction 0 (bitsOf [0xA5])).wf = false ∧
      (Instr.ignoredTransaction 0 (bitsOf [0x5A, 0])).wf = false ∧
      (Instr.ignoredTransaction 0 (bitsOf [0x5B, 0xA5])).wf = true ∧ (Instr.ignoredTransaction 0 []).wf = true ∧
      (Instr.ignoredTransaction 0 ((bitsOf [0xA5]).take 7)).wf = true := by
  decide +kernel

theorem test_wf_truncated :
    (Instr.truncatedRequest 0 (bitsOf [0x11, 0x42, 7])).wf = false ∧
      (Instr.truncatedRequest 0 (bitsOf [0x11, 0x42])).wf = true ∧
      (Instr.truncatedRequest 0 (bitsOf [0x11, 0x42, 7] ++ [true])).wf = true := by decide +kernel

theorem test_wf_source :
    (Instr.turnReceived { head 0 with src := 0 }).wf = false ∧
      (Instr.turnReceived { head 0 with src := 63 }).wf = false ∧
      (Instr.turnReceived { head 0 with src := 62 }).wf = true := by decide +kernel

theorem test_wf_payload :
    (Instr.dataReceived (head 0) []).wf = false ∧
      (Instr.dataReceived (head 0) (List.replicate 241 0)).wf = false ∧
      (Instr.dataReceived (head 0) (List.replicate 240 0)).wf = true := by decide +kernel

theorem test_wf_frameEnd :
    (Instr.frameEnd .truncated (List.replicate 257 0)).wf = false ∧
      (Instr.frameEnd .cutOff (List.replicate 255 0)).wf = false ∧
      (Instr.frameEnd .cutOff (List.replicate 256 0)).wf = true := by decide +kernel

/-! ### Records and frames as bytes -/

/-- The two examples under R197. -/
theorem test_seqByte_examples : seqByte 3 5 true false = 0x76 ∧ seqByte 0 4 false true = 0x11 := by decide +kernel

/-- R197 and the worked example of Section 11.1: 49 bytes, with the header written out. -/
theorem test_frame_example :
    (Frame.encode
      { dest := 21, src := 9, kind := .data, dci := 7, sci := 4, seq := 0x76,
        payload := List.replicate 40 0xAB }).take 8 = [0x15, 9, 0x10, 7, 4, 0x76, 40, 0xAB] ∧
      (Frame.encode
        { dest := 21, src := 9, kind := .data, dci := 7, sci := 4, seq := 0x76,
          payload := List.replicate 40 0xAB }).length = 49 := by decide +kernel

/-- R161 with no byte and with one: FFFFH, and eight steps on the byte FFH, each of which only shifts. -/
theorem test_check_register : checkSequence [] = 0xFFFF ∧ checkSequence [0xFF] = 0xFF00 := by decide +kernel

/-- R161: its parameters are those of the published CRC-16/CMS, whose value over the digits 1 to 9 is AEE7H. -/
theorem test_check_digits :
    checkSequence [0x31, 0x32, 0x33, 0x34, 0x35, 0x36, 0x37, 0x38, 0x39] = 0xAEE7 := by decide +kernel

/-- R198, R160 check 5: the codes that name no kind, and the low bits of the kind byte. -/
theorem test_kind_codes :
    FrameKind.ofByte 0x50 = none ∧ FrameKind.ofByte 0x00 = none ∧ FrameKind.ofByte 0xD0 = none ∧
      FrameKind.ofByte 0x11 = none ∧ FrameKind.ofByte 0xF0 = some .turn := by decide +kernel

/-- R175, R199: a NONE reply is 13, 0, 0, 0. -/
theorem test_none_reply : Reply.absent.encode = [13, 0, 0, 0] := by decide +kernel

/-- R202: an UNSENT record with the alerts mark and a LINE record of STATION_SILENT, byte by byte. -/
theorem test_event_records :
    EventRecord.encode { body := .held 2 (.unsent 0x1234 7 40), alerts := true } =
        [3, 1, 2, 7, 40, 0x34, 0x12, 0, 0, 0, 0, 0] ∧
      EventRecord.encode { body := .line (.stationSilent 20), alerts := false } =
        [12, 0, 0xFF, 0, 0, 0, 0, 8, 20, 0, 0, 0] ∧
      EventRecord.encode { body := .closed 31 true, alerts := true } = [7, 3, 31, 0, 0, 0, 0, 0, 0, 0, 0, 0] := by
  decide +kernel

/-- R196: bit 7 of a byte comes first: the type bytes of R199, written out bit by bit. -/
theorem test_bit_order :
    bitsOf [0xA5] = [true, false, true, false, false, true, false, true] ∧
      bitsOf [0x5A] = [false, true, false, true, true, false, true, false] ∧
      bytesOf [true, false, false, false, false, false, true, true, true] = [0x83] := by decide +kernel

/-- R199, R200: a record of each family of requests, written out from the tables. -/
theorem test_decode_requests :
    decodeTransaction 1 (bitsOf [0xA5, 0x12, 0x42, 7, 0, 2, 0xAA, 0xBB]) =
        .bufWrite { port := 1, tag := 0x42, rest := [0xAA, 0xBB] } 7 0 2 ∧
      decodeTransaction 0 (bitsOf [0xA5, 0x20, 0x42, 7, 9, 2, 1, 3, 0x64, 0x01]) =
        .connOpen (req 0) 7 9 2 1 3 0x0164 ∧
      decodeTransaction 0 (bitsOf [0xA5, 0x30, 0x42, 7, 16, 1, 4, 0, 3, 5, 0, 255]) =
        .listenAdd (req 0) 7 16 1 4 0 3 5 255 ∧
      decodeTransaction 2 (bitsOf [0xA5, 0x40, 0x42, 8]) = .evtFetch (req 2) 8 ∧
      decodeTransaction 3 (bitsOf [0xA5, 0x51, 0x42]) = .portResetRequest (req 3) ∧
      decodeTransaction 0 (bitsOf [0xA5, 0x63, 0x42, 4, 2, 1, 1, 32, 255, 16]) = .cfgLine (req 0) 4 2 1 1 32 255 16 ∧
      decodeTransaction 0 (bitsOf [0xA5, 0x71, 0x42, 9]) = .turnRemove (req 0) 9 ∧
      decodeTransaction 0 (bitsOf [0xA5, 0x82, 0x42, 1]) = .lineStatus (req 0) 1 := by decide +kernel

/-- R171 to R173: an unknown code, a record without its argument, a record that ends inside a byte, a COLLECT and a type
byte that names nothing. -/
theorem test_decode_others :
    decodeTransaction 0 (bitsOf [0xA5, 0x83, 0x42, 1]) = .unknownRequest { port := 0, tag := 0x42, rest := [1] } 0x83 ∧
      decodeTransaction 0 (bitsOf [0xA5, 0x11, 0x42]) = .truncatedRequest 0 (bitsOf [0x11, 0x42]) ∧
      decodeTransaction 0 (bitsOf [0xA5, 0x10, 0x42] ++ [true]) =
        .truncatedRequest 0 (bitsOf [0x10, 0x42] ++ [true]) ∧
      decodeTransaction 0 (bitsOf [0x5A, 0, 0, 0, 0]) = .collect 0 (bitsOf [0, 0, 0, 0]) ∧
      decodeTransaction 0 (bitsOf [0x00, 0x10]) = .ignoredTransaction 0 (bitsOf [0, 0x10]) ∧
      decodeTransaction 0 (bitsOf [0xA5] |>.take 7) = .ignoredTransaction 0 (bitsOf [0xA5] |>.take 7) := by decide +kernel

/-- No row of the table gives bits: no word spells a command, and the part is left alone. -/
theorem test_no_table_word : decodeTableWord 8 0xA5 = none ∧ State.reset.withFetchWord 8 0xA5 = State.reset :=
  ⟨rfl, rfl⟩

/-! ### The manual's examples of single decisions -/

/-- Section 6.3: station 50, successor 5, SILENT records 2, 40 and 57: the candidates are 2 and 57, taken in turn. -/
theorem test_probe_example :
    let t : TurnController :=
      { list :=
          [{ address := 2, present := false }, { address := 5, present := true }, { address := 40, present := false },
            { address := 57, present := false }] }
    t.successor 50 = some 5 ∧ t.candidates 50 = [2, 57] ∧ t.nextProbe 50 = some 2 ∧
      ({ t with probeCursor := 2 } : TurnController).nextProbe 50 = some 57 ∧
      ({ t with probeCursor := 57 } : TurnController).nextProbe 50 = some 2 := by decide +kernel

/-- R55: match 16 with mask 1 takes stations 16 and 17, mask 63 every station, mask 0 the one. -/
theorem test_listen_match :
    let l := fun (m k : Byte) =>
      ({ owner := 0, service := 7, stationMatch := m, stationMask := k, windowMax := 1, priority := 0,
         retryLimit := 1, answerTime := 5, accepts := 0 } : ListenEntry)
    (l 16 1).matches 17 7 = true ∧ (l 17 1).matches 16 7 = true ∧ (l 16 1).matches 18 7 = false ∧
      (l 16 63).matches 62 7 = true ∧ (l 16 0).matches 16 7 = true ∧ (l 16 0).matches 17 7 = false ∧
      (l 16 63).matches 62 8 = false := by decide +kernel

/-- R104 and the end of Section 5.5: the 48th record is an OVERFLOW record, the next drop counts in it. -/
theorem test_overflow :
    let full : PortState := { PortState.afterReset false false with queue := records 47 }
    ((full.offer (.starved 3)).queue.length = 48 ∧
      (full.offer (.starved 3)).queue.getLast? = some { body := .overflow 1, alerts := true }) ∧
      ((full.offer (.starved 3)).offer (.starved 4)).queue.getLast? =
        some { body := .overflow 2, alerts := true } := by decide +kernel

/-- R87, R89: buffers leave at the head and come back at the tail of the free list, in order of release. -/
theorem test_free_list_order :
    goes (exec (.bufGet (req 0)) State.reset) (fun s =>
      goes (exec (.bufPut (req 0) 0) s) fun t =>
        decide (t.pool.freeList.head? = some 1) && decide (t.pool.freeList.getLast? = some 0)) = true := by
  decide +kernel

/-- R45, R125, log entry 3: the last 10 µs of a timer run it out, and no tick before them. -/
theorem test_tick :
    let c := fun phase : Nat => waits2 { conn with answerTimer := some 1, answerPhase := phase, flags := { peerWaiting := true } }
    let lost := fun n : Nat => { line .waiting with turn := { (line .waiting).turn with lostTimer := some n } }
    goes (step (c 99)) (fun t => decide ((t.entry 2).answerTimer = none ∧ (t.entry 2).retryCount = 1)) = true ∧
      goes (step (c 98)) (fun t => decide ((t.entry 2).answerTimer = some 1 ∧ (t.entry 2).answerPhase = 99)) = true ∧
      goes (step (lost 10)) (fun t => decide (t.turn.engine = .handing)) = true ∧
      goes (step (lost 20)) (fun t => decide (t.turn.lostTimer = some 10)) = true := by decide +kernel

/-- R144, R153 step 5, R156 row 5: the choice is made in the event that offers the line. In sole mode a message is on the
line at once when CONN.SEND is taken, and so is the OPEN of CONN.OPEN. A claimed turn sends at once. -/
theorem test_choice_within_the_event :
    let sole : State := { at2 conn with turn := { (at2 conn).turn with list := [] }, pool := charged [0] }
    let lost : State := { line .waiting with turn := { (line .waiting).turn with lostTimer := some 1 } }
    let kind := fun (i : Instr) (s : State) (k : FrameKind) =>
      goes (exec i s) (fun t => decide (t.sched.tx.map (·.frame.kind) = some k)) = true
    kind (.connSend (req 0) 2 0 3 0 1) sole .data ∧ kind (.connOpen (req 0) 7 9 2 1 3 100) sole .opening ∧
      kind (.connClose (req 0) 2 1) sole .close ∧
      kind .lostTimerExpiry (lost.setEntry 2 { conn with sendQueue := [msg] }) .data ∧
      kind .lostTimerExpiry lost .turn := by decide +kernel

/-- The part while a stray reply is on the line, with two connections that have DATA to send, and what a CONN.CLOSE ABORT of
the first makes of it. -/
def abortAside (other : Fin 4) (flags : Flags) : State :=
  let two :=
    (at2 { conn with sendQueue := [msg], flags := flags }).setEntry 3
      { conn with remoteIndex := some 9, priority := some other, sendQueue := [msg] }
  match exec (.connClose (req 0) 2 1) (sends two (onLine .stray .closed none {})) with
  | .next t => t.clearTx
  | .fault _ => two
  | .refused _ => two

/-- R156, row 4, and R145: after the abort the DATA class would have given entry 2, which is the only one that owes a CLOSE,
so that the free value decides whether entry 3 gives DATA first. Behind an entry of a higher priority, entry 2 would not have
been chosen, and its CLOSE is taken, and so it is if entry 2 owed a response or a query at the abort. -/
theorem test_choice_after_abort :
    let s := abortAside 0 {}
    ((s.entry 2).aborted = true ∧ s.offered = true ∧
        s.choose = (if Config.abortedCloseWaits then some (.passing 2 0 3) else some (.initiative 2))) ∧
      (let data := s.startChoice (.passing 2 0 3);
        data.sched.tx.map (·.origin) = some (.entry 3) ∧ data.sched.tx.map (·.frame.kind) = some .data ∧
          (data.entry 2).aborted = false ∧ (data.entry 2).controlDue = .sendClose) ∧
      (let close := s.startChoice (.initiative 2);
        close.sched.tx.map (·.origin) = some (.entry 2) ∧ close.sched.tx.map (·.frame.kind) = some .close ∧
          (close.entry 2).aborted = false) ∧
      (abortAside 3 {}).choose = some (.initiative 2) ∧
      (abortAside 0 { ackDue := true }).choose = some (.initiative 2) ∧
      (abortAside 0 { queryDue := true }).choose = some (.initiative 2) := by
  have hi : (abortAside 0 {}).chooseInitiative = some 2 := by decide +kernel
  have hd : (abortAside 0 {}).chooseDataClass = some (0, 3) := by decide +kernel
  have ha : (abortAside 0 {}).abortedInPlace 2 0 = true := by decide +kernel
  have hs : (abortAside 0 {}).sched.strays = [] := by decide +kernel
  have hr : (abortAside 0 {}).chooseResponse = none := by decide +kernel
  refine ⟨⟨by decide +kernel, by decide +kernel, ?_⟩, by decide +kernel, by decide +kernel,
    by decide +kernel, by decide +kernel, by decide +kernel⟩
  simp [State.choose, State.chooseUnprompted, hi, hd, ha, hs, hr]

/-! ### States and operands that meet each statement's hypotheses -/

/-- StepRunsFrontCommand: a command in front; idle in RESET, and with nothing and with a turn to time. -/
theorem meets_StepRunsFrontCommand :
    (State.reset.withPending [.frameStart, .lostTimerExpiry]).pending = .frameStart :: [.lostTimerExpiry] ∧
      ({ State.reset with resetLow := true } : State).resetLow = true ∧ State.reset.pending = [] ∧
      goes (step (line .holding)) (fun t => decide (t.turn.holdTimer = some 4990)) = true ∧
      goesTo (step State.reset) State.reset = true := by decide +kernel

/-- DeviceReset: RESET falls. -/
theorem meets_DeviceReset : (line .holding).resetLow = false ∧
    goesTo (exec .resetAsserted { line .holding with resetLow := true }) { line .holding with resetLow := true } = true ∧
    goes (exec .resetAsserted (line .holding)) (fun t => decide (t.turn = {} ∧ t.resetLow = true)) = true := by
  decide +kernel

/-- BufGetTakesTheHead: below the reserve, below the limit with a spare count of 1, at the limit, and above the reserve
with a spare count of 0. -/
theorem meets_BufGetTakesTheHead :
    let pool := fun (charge free : Nat) =>
      { State.reset with
        pool :=
          { State.reset.pool with
            freeList := (List.finRange 192).take free
            accounts := put State.reset.pool.accounts 0 { charge := charge } } }
    (pool 15 177).hears 0 = true ∧ (pool 15 177).pool.canAllocate 0 = true ∧
      goes (exec (.bufGet (req 0)) (pool 16 49)) (fun t => decide ((t.account 0).held = [0])) = true ∧
      goesTo (exec (.bufGet (req 0)) (pool 16 48)) ((pool 16 48).refusing (req 0) 0x10 [] .noBuffer) = true ∧
      goesTo (exec (.bufGet (req 0)) (pool 96 96)) ((pool 96 96).refusing (req 0) 0x10 [] .noBuffer) = true := by
  decide +kernel

/-- BufPutReleases: a handle beyond the pool, one not held, and one held. -/
theorem meets_BufPutReleases :
    let s := { State.reset with pool := charged [0] }
    s.hears 0 = true ∧ goesTo (exec (.bufPut (req 0) 192) s) (s.refusing (req 0) 0x11 [192] .badArg) = true ∧
      goesTo (exec (.bufPut (req 0) 191) s) (s.refusing (req 0) 0x11 [191] .badHandle) = true ∧
      goes (exec (.bufPut (req 0) 0) s)
        (fun t => decide (t.pool.freeList.length = 192 ∧ t.account 0 = {})) = true := by decide +kernel

/-- EntryChecksAfterAnEvent: an entry that is fed, starved without and with an allocation, with a timer to stop and
without. -/
theorem meets_EntryChecksAfterAnEvent :
    let starved : ConnEntry := { conn with flags := { starved := true, busyAnnounced := true } }
    let full : Pool := { State.reset.pool with freeList := [] , accounts := Vector.replicate 4 { charge := 96 } }
    conn.flags.starved = false ∧ starved.flags.starved = true ∧ full.canAllocate 0 = false ∧
      starved.reconsider full = starved ∧ State.reset.pool.canAllocate 0 = true ∧
      (starved.reconsider State.reset.pool).flags = { statusDue := true } ∧
      (({ starved with answerTimer := some 5 } : ConnEntry).reconsider State.reset.pool).answerTimer = none ∧
      (({ starved with owner := none } : ConnEntry).reconsider State.reset.pool).flags.starved = true ∧
      ({ conn with answerTimer := some 5, state := .draining } : ConnEntry).settleTimer.answerTimer = none ∧
      ({ conn with answerTimer := some 5, flags := { peerWaiting := true } } : ConnEntry).settleTimer.answerTimer =
        some 5 := by decide +kernel

/-- BufWriteAndBufReadUseTheirSpan: the last byte of a buffer, one byte too many, no byte, 65 bytes, a buffer not held. -/
theorem meets_BufWriteAndBufReadUseTheirSpan :
    let s := { State.reset with pool := charged [0] }
    let full := { s with pool := { s.pool with mem := [(239, 9)] } }
    let r := fun n : Nat => { req 0 with rest := List.replicate n 7 }
    s.hears 0 = true ∧ s.pool.mem.wf = true ∧
      goesTo (exec (.bufRead (req 0) 0 238 2) full) (full.served (req 0) 0x13 [0, 238, 2] .ok [0, 9] id) = true ∧
      goesTo (exec (.bufRead (req 0) 0 239 2) s) (s.refusing (req 0) 0x13 [0, 239, 2] .badArg) = true ∧
      goesTo (exec (.bufRead (req 0) 191 0 64) s) (s.refusing (req 0) 0x13 [191, 0, 64] .badHandle) = true ∧
      goes (exec (.bufWrite (r 1) 0 239 1) s)
        (fun t => decide (t.pool.byteAt 0 239 = 7 ∧ t.pool.byteAt 0 238 = 0 ∧ t.pool.byteAt 1 0 = 0)) = true ∧
      goes (exec (.bufWrite (r 64) 0 176 64) s) (fun t => decide (t.pool.mem.length = 64)) = true ∧
      goesTo (exec (.bufWrite (r 2) 0 239 2) s) (s.refusing (r 2) 0x12 [0, 239, 2] .badArg) = true ∧
      goesTo (exec (.bufWrite (r 0) 0 0 0) s) (s.refusing (r 0) 0x12 [0, 0, 0] .badArg) = true ∧
      goesTo (exec (.bufWrite (r 65) 0 0 65) s) (s.refusing (r 65) 0x12 [0, 0, 65] .badArg) = true ∧
      goesTo (exec (.bufWrite (r 1) 1 0 1) s) (s.refusing (r 1) 0x12 [1, 0, 1] .badHandle) = true := by
  decide +kernel

/-- ConnOpenTakesLowestFree: each refusal at the edge of its range, and the entry taken. -/
theorem meets_ConnOpenTakesLowestFree :
    let s := waits2 conn
    let full := { s with entries := Vector.replicate 32 conn }
    let off := line .stopping
    let args := fun (st w : Byte) => [7, st, w, 3, 15, 0xFF, 0x0F]
    s.hears 0 = true ∧ (s.entry 0).state = .free ∧
      goesTo (exec (.connOpen (req 0) 7 63 4 3 15 4095) s) (s.refusing (req 0) 0x20 (args 63 4) .badArg) = true ∧
      goesTo (exec (.connOpen (req 0) 7 5 4 3 15 4095) s) (s.refusing (req 0) 0x20 (args 5 4) .badArg) = true ∧
      goesTo (exec (.connOpen (req 0) 7 62 5 3 15 4095) s) (s.refusing (req 0) 0x20 (args 62 5) .badArg) = true ∧
      goesTo (exec (.connOpen (req 0) 7 62 4 3 15 4095) off)
        (off.refusing (req 0) 0x20 (args 62 4) .offline) = true ∧
      goesTo (exec (.connOpen (req 0) 7 62 4 3 15 4095) full)
        (full.refusing (req 0) 0x20 (args 62 4) .tableFull) = true ∧
      goes (exec (.connOpen (req 0) 7 62 4 3 15 4095) s)
        (fun t => decide (t.entry 0 = ConnEntry.opening 0 7 62 4 3 15 4095)) = true := by decide +kernel

/-- ConnSendQueuesTheMessage: each refusal, with 16 messages and with 15, and the message queued. -/
theorem meets_ConnSendQueuesTheMessage :
    let s := fun (c : ConnEntry) => { at2 c with pool := charged [0] }
    let many := fun n : Nat => { conn with sendQueue := List.replicate n msg }
    let args : List Byte := [2, 0, 240, 0x34, 0x12, 1]
    let send := Instr.connSend (req 0) 2 0 240 0x1234 1
    (s conn).hears 0 = true ∧
      goesTo (exec (.connSend (req 0) 2 0 241 0x1234 1) (s conn))
        ((s conn).refusing (req 0) 0x21 [2, 0, 241, 0x34, 0x12, 1] .badArg) = true ∧
      goesTo (exec send (s { conn with owner := some 1 }))
        ((s { conn with owner := some 1 }).refusing (req 0) 0x21 args .notOwner) = true ∧
      goesTo (exec send (s { conn with state := .draining }))
        ((s { conn with state := .draining }).refusing (req 0) 0x21 args .badState) = true ∧
      goesTo (exec send (s (many 16))) ((s (many 16)).refusing (req 0) 0x21 args .queueFull) = true ∧
      goesTo (exec send (at2 (many 15))) ((at2 (many 15)).refusing (req 0) 0x21 args .badHandle) = true ∧
      goes (exec send (s (many 15)))
        (fun t => decide ((t.entry 2).sendQueue.getLast? = some { msg with length := 240 } ∧
          (t.account 0).held = [])) = true := by decide +kernel

/-- ConnHoldAndResume: an entry beyond the table, one that is CLOSING, and hold set and not. -/
theorem meets_ConnHoldAndResume :
    let c : ConnEntry := { conn with state := .draining, unacked := [{ msg := msg, sn := 0, needsTx := false }] }
    let held := { c with flags := { hostHold := true, busyAnnounced := true } }
    let closing := at2 { conn with state := .closing }
    (at2 c).hears 0 = true ∧
      goesTo (exec (.connHold (req 0) 32) (at2 c)) ((at2 c).refusing (req 0) 0x22 [32] .badArg) = true ∧
      goesTo (exec (.connResume (req 0) 32) (at2 c)) ((at2 c).refusing (req 0) 0x23 [32] .badArg) = true ∧
      goesTo (exec (.connHold (req 0) 2) closing) (closing.refusing (req 0) 0x22 [2] .badState) = true ∧
      goesTo (exec (.connResume (req 0) 2) closing) (closing.refusing (req 0) 0x23 [2] .badState) = true ∧
      goesTo (exec (.connHold (req 0) 2) (at2 held)) ((at2 held).served (req 0) 0x22 [2] .ok [] id) = true ∧
      goes (exec (.connHold (req 0) 2) (at2 c))
        (fun t => decide ((t.entry 2).flags = { hostHold := true, busyAnnounced := true })) = true ∧
      goes (exec (.connHold (req 0) 2) (waits2 c))
        (fun t => decide ((t.entry 2).flags = { hostHold := true, busyAnnounced := true, statusDue := true })) =
          true ∧
      goesTo (exec (.connResume (req 0) 2) (at2 c)) ((at2 c).served (req 0) 0x23 [2] .ok [] id) = true ∧
      goes (exec (.connResume (req 0) 2) (waits2 held))
        (fun t => decide ((t.entry 2).flags = { statusDue := true })) = true ∧
      goes (exec (.connResume (req 0) 2) (at2 held))
        (fun t => decide (t.sched.tx.map (·.frame.kind) = some .ready)) = true := by decide +kernel

/-- ConnCloseByState: entry 32, form 2, and each state of the entry with both forms. -/
theorem meets_ConnCloseByState :
    let kept := { conn with sendQueue := [msg] }
    let opening := { conn with state := .opening, remoteIndex := none }
    let draining := { kept with state := .draining }
    let code := fun (c : ConnEntry) (form : Byte) (n : Byte) =>
      goes (exec (.connClose (req 0) 2 form) (at2 c))
        (fun t => decide (((t.port 0).slot.map (·.results)) = some [n])) = true
    (at2 conn).hears 0 = true ∧
      goesTo (exec (.connClose (req 0) 32 1) (at2 conn)) ((at2 conn).refusing (req 0) 0x24 [32, 1] .badArg) = true ∧
      goesTo (exec (.connClose (req 0) 31 2) (at2 conn)) ((at2 conn).refusing (req 0) 0x24 [31, 2] .badArg) = true ∧
      code opening 0 0 ∧ code opening 1 0 ∧ code kept 0 3 ∧ code conn 0 4 ∧
      code draining 0 3 ∧ code draining 1 4 ∧ code kept 1 4 ∧
      goesTo (exec (.connClose (req 0) 2 0) (at2 { conn with state := .closing }))
        ((at2 { conn with state := .closing }).refusing (req 0) 0x24 [2, 0] .badState) = true ∧
      goesTo (exec (.connClose (req 0) 2 1) (at2 { conn with state := .ended }))
        ((at2 { conn with state := .ended }).refusing (req 0) 0x24 [2, 1] .badState) = true := by decide +kernel

/-- LeavingUnsendsInOrder: an entry with a message on the line, one unacknowledged and one in its send queue. -/
theorem meets_LeavingUnsendsInOrder :
    let c :=
      { conn with
        unacked := [{ msg := msg, sn := 0, needsTx := false }, { msg := { msg with handle := 1 }, sn := 1, needsTx := false }]
        sendQueue := [{ msg with handle := 2 }] }
    let s := sends (at2 c) (onLine (.entry 2) .data (some 1) {})
    (s.entry 2).owner = some 0 ∧ (s.entry 2).orphan = false ∧
      (s.abortEntry 2).told 0 2 = [.unsent 0x1234 0 3, .unsent 0x1234 2 3] ∧
      ((s.abortEntry 2).entry 2).unacked.length = 1 ∧
      ((at2 c).endEntry 2 .badAck).told 0 2 =
        [.unsent 0x1234 0 3, .unsent 0x1234 1 3, .unsent 0x1234 2 3, .ended .badAck] ∧
      (s.abortEntry 2).pool = s.pool ∧ (s.abortEntry 2).entry 3 = s.entry 3 ∧ (s.abortEntry 2).port 1 = s.port 1 := by
  decide +kernel

/-- ConnReleaseFreesEnded: each refusal, and the release. -/
theorem meets_ConnReleaseFreesEnded :
    let past := { conn with state := .ended, endReason := some .badAck }
    let late := { past with notices := [.ended .badAck] }
    let out := fun (c : ConnEntry) (e : Byte) (st : Status) =>
      goesTo (exec (.connRelease (req 0) e) (at2 c)) ((at2 c).refusing (req 0) 0x25 [e] st) = true
    (at2 past).hears 0 = true ∧ out past 32 .badArg ∧ out past 31 .notOwner ∧ out conn 2 .badState ∧
      out late 2 .badState ∧
      goes (exec (.connRelease (req 0) 2) (at2 past)) (fun t => decide (t.entry 2 = {})) = true := by
  decide +kernel

/-- ConnQueryReports: an entry beyond the table, and a report written out (R201). -/
theorem meets_ConnQueryReports :
    (at2 conn).hears 3 = true ∧
      goesTo (exec (.connQuery (req 3) 32) (at2 conn)) ((at2 conn).refusing (req 3) 0x26 [32] .badArg) = true ∧
      goesTo (exec (.connQuery (req 3) 2) (at2 { conn with answerTimer := some 258, vs := 7 }))
        ((at2 { conn with answerTimer := some 258, vs := 7 }).served (req 3) 0x26 [2] .ok
          [2, 0, 0, 9, 4, 7, 2, 1, 3, 100, 0, 7, 0, 0, 0, 2, 1, 0, 0, 0, 0, 0, 0] id) = true := by decide +kernel

/-- RequestsNeedOwnershipAndRight: another port's entry, a FREE entry and an orphan; port 1, without the right. -/
theorem meets_RequestsNeedOwnershipAndRight :
    let out := fun (s : State) (p : Port) (e : Byte) =>
      goesTo (exec (.connHold (req p) e) s) (s.refusing (req p) 0x22 [e] .notOwner) = true
    (at2 conn).hears 1 = true ∧ (line .holding).config.rightHolder ≠ some 1 ∧
      goesTo (exec (.turnAdd (req 1) 62) (line .holding)) ((line .holding).refusing (req 1) 0x70 [62] .noRight) =
        true ∧
      out (at2 conn) 1 2 ∧ out (at2 conn) 0 3 ∧
      out (at2 { conn with orphan := true, state := .closing }) 0 2 := by decide +kernel

/-- A listen entry of port 1 for service 7 and every station. -/
def offer (accepts : Nat) : ListenEntry :=
  { owner := 1, service := 7, stationMatch := 9, stationMask := 63, windowMax := 1, priority := 2, retryLimit := 5,
    answerTime := 300, accepts := accepts }

/-- ListenAddAppends: a range, 16 entries and 15, a key that is there, and the entry appended. -/
theorem meets_ListenAddAppends :
    let s := fun n : Nat => { State.reset with listen := List.replicate n { offer 1 with service := 8 } }
    let add := Instr.listenAdd (req 0) 7 62 63 4 3 15 5 0
    let args : Byte → List Byte := fun m => [7, m, 63, 4, 3, 15, 5, 0, 0]
    (s 0).hears 0 = true ∧
      goesTo (exec (.listenAdd (req 0) 7 63 63 4 3 15 5 0) (s 0)) ((s 0).refusing (req 0) 0x30 (args 63) .badArg) =
        true ∧
      goesTo (exec add (s 16)) ((s 16).refusing (req 0) 0x30 (args 62) .tableFull) = true ∧
      goesTo (exec (.listenAdd (req 0) 8 9 63 4 3 15 5 0) (s 1))
        ((s 1).refusing (req 0) 0x30 [8, 9, 63, 4, 3, 15, 5, 0, 0] .duplicate) = true ∧
      goes (exec add (s 15)) (fun t => decide (t.listen.length = 16)) = true := by decide +kernel

/-- ListenDropAndList: a range, a key not there, another port's entry, and the port's own. -/
theorem meets_ListenDropAndList :
    let s := { State.reset with listen := [{ offer 1 with service := 6, owner := 0 }, offer 9] }
    s.hears 0 = true ∧
      goesTo (exec (.listenDrop (req 1) 7 9 64) s) (s.refusing (req 1) 0x31 [7, 9, 64] .badArg) = true ∧
      goesTo (exec (.listenDrop (req 1) 7 8 63) s) (s.refusing (req 1) 0x31 [7, 8, 63] .notOwner) = true ∧
      goesTo (exec (.listenDrop (req 0) 7 9 63) s) (s.refusing (req 0) 0x31 [7, 9, 63] .notOwner) = true ∧
      goesTo (exec (.listenDrop (req 1) 7 9 63) s)
        (s.served (req 1) 0x31 [7, 9, 63] .ok [9] fun t => { t with listen := s.listen.take 1 }) = true ∧
      goesTo (exec (.listenList (req 1)) s)
        (s.served (req 1) 0x32 [] .ok [1, 1, 7, 9, 63, 1, 2, 5, 0x2C, 1, 9] id) = true := by decide +kernel

/-- EvtFetchTakesTheOldest: 0 and 9 records, none waiting, and a record whose buffer joins the held set, after which ATTN is
deasserted. -/
theorem meets_EvtFetchTakesTheOldest :
    let s :=
      { at2 conn with
        ports := put State.reset.ports 0
          { PortState.afterReset false false with
            queue := { body := .held 2 (.received 7 3), alerts := true } :: records 7 } }
    s.hears 0 = true ∧ goesTo (exec (.evtFetch (req 0) 0) s) (s.refusing (req 0) 0x40 [0] .badArg) = true ∧
      goesTo (exec (.evtFetch (req 0) 9) s) (s.refusing (req 0) 0x40 [9] .badArg) = true ∧
      goesTo (exec (.evtFetch (req 1) 8) s) (s.served (req 1) 0x40 [8] .ok [0, 0, 0, 0] id) = true ∧
      goes (exec (.evtFetch (req 0) 1) s)
        (fun t => decide ((s.port 0).attn = true ∧ (t.port 0).attn = false ∧ (t.port 0).queue = records 7 ∧
          (t.account 0).held = [7] ∧
          (t.port 0).slot.map (·.results) = some [1, 2, 1, 2, 7, 3, 0, 0, 0, 0, 0, 0, 0, 7, 0, 0])) = true := by
  decide +kernel

/-- EvtFilterSetsTheFilter: kinds 0 and 13, value 3, DROP on a held kind, and the filters of kinds 4 and 12. -/
theorem meets_EvtFilterSetsTheFilter :
    let bad := fun (k f : Byte) =>
      goesTo (exec (.evtFilter (req 0) k f) State.reset) (State.reset.refusing (req 0) 0x41 [k, f] .badArg) = true
    State.reset.hears 0 = true ∧ bad 0 0 ∧ bad 13 0 ∧ bad 5 3 ∧ bad 4 0 ∧
      goes (exec (.evtFilter (req 0) 4 1) State.reset) (fun t => decide (look (t.port 0).filters 3 = .queue)) =
        true ∧
      goes (exec (.evtFilter (req 0) 12 0) State.reset)
        (fun t => decide ((t.port 0).slot.map (·.results) = some [2])) = true := by decide +kernel

/-- EventAdmission: a filter DROP, room for the last record, no room with and without an OVERFLOW record at the tail; a
notice of an orphan, with room and without; a LINE event at a port whose queue has room and at one whose queue has none. -/
theorem meets_EventAdmission :
    let ps := fun q : List EventRecord => { PortState.afterReset false false with queue := q }
    let tail : EventRecord := { body := .overflow 255, alerts := true }
    (ps []).offer (.peerWait 2) = ps [] ∧
      ((ps (records 46)).offer (.opened 2)).queue.getLast? = some { body := .opened 2, alerts := true } ∧
      (ps (records 47 ++ [tail])).offer (.opened 2) = ps (records 47 ++ [tail]) ∧
      ((ps (records 47)).offer (.opened 2)).queue.length = 48 ∧
      (((at2 conn).lineEvent .sole).port 3).queue = [{ body := .line .sole, alerts := true }] ∧
      ((((at2 conn).setPort 2 (ps (records 47))).lineEvent .sole).port 2).queue.getLast? =
        some { body := .overflow 1, alerts := true } ∧
      (at2 { conn with orphan := true }).makeNotice 2 (.ended .protocol) = at2 { conn with orphan := true } ∧
      (((at2 conn).makeNotice 2 (.ended .protocol)).port 0).queue.length = 1 ∧
      ((((at2 conn).setPort 0 (ps (records 47))).makeNotice 2 (.ended .protocol)).entry 2).notices =
        [.ended .protocol] := by decide +kernel

/-- AdmissionGoesByRotation: a full queue, no notice, an entry next in rotation, and each clause of R108. -/
theorem meets_AdmissionGoesByRotation :
    let c := { conn with notices := [.ended .badAck, .received 7 3] }
    let s := (at2 c).setEntry 31 { c with notices := [.ended .noAnswer] }
    let full := s.setPort 0 { PortState.afterReset false false with queue := records 47 }
    let four := { conn with notices := List.replicate 4 (.received 7 3), flags := { busyAnnounced := true } }
    let closing := { conn with state := .closing, closeFinished := true, notices := [.ended .badAck] }
    full.admitOne 0 = full ∧ (at2 conn).admitOne 0 = at2 conn ∧ ((s.admitOne 0).port 0).admission = 2 ∧
      (((s.admitOne 0).admitOne 0).port 0).admission = 31 ∧ ((s.admitOne 0).entry 2).notices = [.received 7 3] ∧
      (((at2 four).admitOne 0).entry 2).flags = { statusDue := true } ∧
      ((at2 { four with notices := List.replicate 3 (.received 7 3) }).admitOne 0).entry 2 =
        { four with notices := List.replicate 2 (.received 7 3) } ∧
      ((at2 { four with notices := .arrived 9 7 :: four.notices }).admitOne 0).entry 2 = four ∧
      (((at2 closing).admitOne 0).entry 2) = {} ∧ ((((at2 closing).admitOne 0).port 0).queue.length = 2) := by
  decide +kernel

/-- NoticeAdmissionRunsToAStop: a queue with room for one of two notices, and one with room for both. -/
theorem meets_NoticeAdmissionRunsToAStop :
    let c := { conn with notices := [.ended .badAck, .received 7 3] }
    let s := (waits2 c).setPort 0 { PortState.afterReset false false with queue := records 46 }
    (s.port 0).queue.length = 46 ∧ goesTo (exec (.noticeAdmission 0) s) (s.admitOne 0) = true ∧
      goesTo (exec (.noticeAdmission 0) (waits2 c)) (((waits2 c).admitOne 0).admitOne 0) = true ∧
      goes (exec (.noticeAdmission 0) s)
        (fun t => decide ((t.port 0).queue.length = 47 ∧ (t.entry 2).notices = [.received 7 3])) = true := by
  decide +kernel

/-- PortResetByRequestAndByPin and PortResetLeaves: a port with an OPENING, an OPEN, an ENDED and a finished CLOSING entry,
a held buffer and the right, over its request and over PRSTn, which cuts a transaction short. The OPEN of the OPENING
entry is on the line, and an entry of port 1 is starved. -/
theorem meets_PortReset :
    let s :=
      { (((at2 { conn with sendQueue := [msg] }).setEntry 5 { conn with state := .opening }).setEntry 7
            { conn with state := .ended }).setEntry 9
          { conn with state := .closing, closeFinished := true, notices := [.unsent 0 2 3] } with
        pool :=
          { State.reset.pool with
            freeList := (List.finRange 192).drop 3
            accounts := put State.reset.pool.accounts 0 { charge := 3, held := [1] } }
        listen := [offer 1, { offer 1 with owner := 0 }] }
    let prstn := fun t : State => t.modPort 1 fun ps => { ps with inReset := true }
    s.hears 0 = true ∧ s.resetLow = false ∧ (s.port 0).inReset = false ∧
      goesTo (exec (.prstnAsserted 1) (prstn s)) (prstn s) = true ∧
      goesTo (exec (.prstnAsserted 1) { s with resetLow := true }) (prstn { s with resetLow := true }) = true ∧
      goes (exec (.portResetRequest (req 0)) s)
        (fun t => decide ((t.port 0).slot.map (·.results) = some [3, 3, 1, 1, 1])) = true ∧
      goes
        (exec (.prstnAsserted 0)
          ((sends s (onLine (.entry 5) .opening none {})).setEntry 11
            { conn with owner := some 1, flags := { starved := true, busyAnnounced := true } }))
        (fun t => decide (t.sched.tx.map (·.detached) = some true ∧ (t.entry 11).flags = { statusDue := true })) =
          true ∧
      goes (exec (.prstnAsserted 0) (sends s (onLine (.entry 2) .ready none {})))
        (fun t => decide (t.sched.tx.map (·.detached) = some false)) = true ∧
      goes (exec (.prstnAsserted 0) (s.modPort 0 fun ps => { ps with selectLow := true, transaction := .begun }))
        (fun t => decide ((t.port 0).inReset = true ∧ (t.port 0).cutShort = true ∧ (t.port 0).transaction = .idle ∧ (t.entry 2).state = .closing ∧ (t.entry 2).orphan = true ∧
          t.entry 5 = {} ∧ t.entry 7 = {} ∧ t.entry 9 = {} ∧ t.pool.freeList.drop 189 = [0, 2, 1] ∧
          (t.account 0).charge = 0 ∧ t.config.rightHolder = none ∧ t.listen = [offer 1])) = true := by decide +kernel

/-- OtherTransactions: a port that hears, with a surplus byte, an ignored transaction of two bytes, and a reply of four
bytes collected whole and not. -/
theorem meets_OtherTransactions :
    let s := State.reset.setPort 0
      { PortState.afterReset false false with slot := some { status := .ok, tag := 9, lost := false, results := [] } }
    let more := { req 0 with rest := [1] }
    s.hears 0 = true ∧ (s.port 0).selectLow = false ∧ knownRequest more 0x10 [] = some (.bufGet more) ∧
      goesTo (exec (.bufGet more) s) (s.refusing more 0x10 [] .badArg) = true ∧
      goes (exec (.ignoredTransaction 0 (bitsOf [0, 0xA5] ++ [true])) s)
        (fun t => decide ((t.port 0).sdo = List.replicate 17 false ∧ (t.port 0).slot.isSome = true)) = true ∧
      goes (exec (.collect 0 (bitsOf [1, 2, 3, 4])) s)
        (fun t => decide ((t.port 0).slot = none ∧ (t.port 0).sdo = bitsOf [0, 0, 9, 0, 0])) = true ∧
      goes (exec (.collect 0 ((bitsOf [1, 2, 3, 4]).take 31)) s)
        (fun t => decide ((t.port 0).slot.isSome = true ∧ (t.port 0).sdo = (bitsOf [0, 0, 9, 0, 0]).take 39)) =
          true ∧
      goes (exec (.truncatedRequest 0 (bitsOf [0x11] ++ [true])) s)
        (fun t => decide ((t.port 0).slot =
          some { status := .truncated, tag := 0, lost := true, results := [] })) = true ∧
      goes (exec (.selectFalls { port := 0, sdi := [] }) s)
        (fun t => decide ((t.port 0).transaction = .begun) && t.hears 0 && goesTo (exec (.selectFalls { port := 0, sdi := [] }) t) t) =
          true ∧
      goes (exec (.selectFalls { port := 0, sdi := bitsOf [0xA5, 0x51] ++ [false] }) s)
        (fun t => decide ((t.port 0).transaction = .request ∧ (t.port 0).requestBytes = [0x51]) &&
          goesTo (exec (.collect 0 []) t) t &&
          goes (exec (.portResetRequest (req 0)) s) fun u => goesTo (exec (.portResetRequest (req 0)) t) u) =
          true := by
  decide +kernel

/-- PortInResetTakesNothing: a request and a COLLECT over a port in reset and over a part in RESET, a request that a
port reset cut short, and a COLLECT that PRSTn meets after 12 bits of the reply, which it has sent (R179). -/
theorem meets_PortInResetTakesNothing :
    let s := State.reset.setPort 0 (PortState.afterReset true false)
    let r := { State.reset with resetLow := true }
    let cut := State.reset.setPort 0 { PortState.afterReset false true with cutShort := true }
    let full := State.reset.setPort 0
      { PortState.afterReset false false with slot := some { status := .ok, tag := 0xFF, lost := false, results := [] } }
    (cut.port 0).selectLow = true ∧ (cut.port 0).transaction = .idle ∧
      goesTo (exec (.bufGet (req 0)) cut)
        (State.reset.setPort 0 { PortState.afterReset false false with sdo := List.replicate 24 false }) = true ∧
      goes (exec (.selectFalls { port := 0, sdi := (bitsOf [0x5A, 1, 2]).take 20 }) full)
        (fun t => goes (exec (.prstnAsserted 0) t) fun u => goes (exec (.collect 0 (bitsOf [1, 2, 3, 4])) u) fun v =>
          decide ((u.port 0).sdo = (bitsOf [0, 0, 0xFF]).take 20 ∧ (v.port 0).slot = none ∧
            (v.port 0).sdo = (bitsOf [0, 0, 0xFF]).take 20 ++ List.replicate 20 false)) = true ∧
      (s.port 0).inReset = true ∧ (s.port 0).selectLow = false ∧ r.resetLow = true ∧
      (encodeTransaction (.cfgTake (req 0))).isSome = true ∧ goesTo (exec (.bufGet (req 0)) s) s = true ∧
      goesTo (exec (.collect 0 (bitsOf [0, 0, 0, 0])) r) r = true := by decide +kernel

/-- ConfigurationRightMoves: the right with no port, with the asking port and with another; heirs 3 and 4. -/
theorem meets_ConfigurationRightMoves :
    let none_ : State := { State.reset with config := { rightHolder := none } }
    State.reset.hears 0 = true ∧
      goes (exec (.cfgTake (req 2)) none_) (fun t => decide (t.config.rightHolder = some 2)) = true ∧
      goesTo (exec (.cfgTake (req 0)) State.reset) (State.reset.served (req 0) 0x60 [] .ok [1] id) = true ∧
      goesTo (exec (.cfgTake (req 1)) State.reset) (State.reset.refusing (req 1) 0x60 [] .noRight) = true ∧
      goesTo (exec (.cfgPass (req 0) 4) State.reset) (State.reset.refusing (req 0) 0x61 [4] .badArg) = true ∧
      goesTo (exec (.cfgPass (req 1) 3) State.reset) (State.reset.refusing (req 1) 0x61 [3] .noRight) = true ∧
      goes (exec (.cfgPass (req 0) 3) State.reset) (fun t => decide (t.config.rightHolder = some 3)) = true := by
  decide +kernel

/-- CfgStationSetsTheAddress: each refusal, and the address 62. -/
theorem meets_CfgStationSetsTheAddress :
    let out := fun (s : State) (p : Port) (a : Byte) (st : Status) =>
      goesTo (exec (.cfgStation (req p) a) s) (s.refusing (req p) 0x62 [a] st) = true
    (line .offline).hears 0 = true ∧ out (line .offline) 0 63 .badArg ∧ out (line .offline) 0 0 .badArg ∧
      out (line .offline) 1 62 .noRight ∧ out (line .waiting) 0 62 .badState ∧ out (line .offline) 0 9 .badArg ∧
      goesTo (exec (.cfgStation (req 0) 62) (line .offline))
        ((line .offline).served (req 0) 0x62 [62] .ok [5] fun t =>
          { t with config := { rightHolder := some 0, station := 62 } }) = true := by decide +kernel

/-- CfgLineReplacesAndCfgReadReports: each refusal, the same bit rate, and another while a frame is received. -/
theorem meets_CfgLineReplacesAndCfgReadReports :
    let s := { line .offline with line := { receiving := true } }
    let args : Byte → Byte → List Byte := fun rate budget => [rate, 2, 1, 1, budget, 1, 255]
    let set := fun (p : Port) (rate budget : Byte) => Instr.cfgLine (req p) rate 2 1 1 budget 1 255
    s.hears 0 = true ∧ goesTo (exec (set 0 2 33) s) (s.refusing (req 0) 0x63 (args 2 33) .badArg) = true ∧
      goesTo (exec (set 0 5 32) s) (s.refusing (req 0) 0x63 (args 5 32) .badArg) = true ∧
      goesTo (exec (set 1 2 32) s) (s.refusing (req 1) 0x63 (args 2 32) .noRight) = true ∧
      goesTo (exec (set 0 2 32) (line .waiting)) ((line .waiting).refusing (req 0) 0x63 (args 2 32) .badState) =
        true ∧
      goes (exec (set 0 2 32) s) (fun t => decide (t.line.receiving = true ∧ t.config.params.turnBudget = 32)) =
        true ∧
      goes (exec (set 0 4 32) s)
        (fun t => decide (t.line = { receiving := false, ignoring := true } ∧ t.stats.checkErrors = 1)) = true ∧
      goesTo (exec (.cfgRead (req 3)) s)
        (s.served (req 3) 0x65 [] .ok [0, 5, 2, 20, 20, 10, 8, 50, 16, 16, 96, 16, 96, 16, 96, 16, 96] id) = true := by
  decide +kernel

/-- CfgQuotaKeepsTheReserveLaw: a reserve above its limit, no right, a sum of 193 and of 192, and too few free. -/
theorem meets_CfgQuotaKeepsTheReserveLaw :
    let s := State.reset
    let few := { s with pool := { s.pool with freeList := (List.finRange 192).take 100 } }
    let out := fun (s : State) (p : Port) (q r l : Byte) (st : Status) =>
      goesTo (exec (.cfgQuota (req p) q r l) s) (s.refusing (req p) 0x64 [q, r, l] st) = true
    s.hears 0 = true ∧ out s 0 3 9 8 .badArg ∧ out s 0 4 8 8 .badArg ∧ out s 1 3 8 8 .noRight ∧
      out s 0 3 145 192 .badArg ∧ out few 0 3 53 192 .badArg ∧
      goes (exec (.cfgQuota (req 0) 3 144 192) s)
        (fun t => decide (t.account 3 = { reserve := 144, limit := 192 })) = true ∧
      goes (exec (.cfgQuota (req 0) 3 52 192) few) (fun t => decide ((t.account 3).reserve = 52)) = true := by
  decide +kernel

/-- TurnListChanges: each refusal, a record at its place, an addition that ends sole mode, and a removal. -/
theorem meets_TurnListChanges :
    let s := line .waiting
    let sole : State := { line .holding with turn := { (line .holding).turn with list := [] } }
    let full : State :=
      { s with
        turn :=
          { s.turn with list := (List.range 32).map fun n => { address := byte (n + 6), present := true } } }
    let out := fun (s : State) (a : Byte) (st : Status) =>
      goesTo (exec (.turnAdd (req 0) a) s) (s.refusing (req 0) 0x70 [a] st) = true
    s.hears 0 = true ∧ out s 0 .badArg ∧ out s 5 .badArg ∧ out s 9 .duplicate ∧ out full 62 .tableFull ∧
      goes (exec (.turnAdd (req 0) 4) s) (fun t => decide (t.turn.list.map (·.address) = [3, 4, 9, 20])) = true ∧
      goes (exec (.turnAdd (req 0) 4) sole)
        (fun t => decide (t.turn.engine = .handing ∧ t.turn.target = some 4)) = true ∧
      goesTo (exec (.turnRemove (req 0) 62) s) (s.refusing (req 0) 0x71 [62] .badArg) = true ∧
      goes (exec (.turnRemove (req 0) 9) s) (fun t => decide (t.turn.list.map (·.address) = [3, 20])) = true := by
  decide +kernel

/-- PortAndLineReports: a port with an entry, a waiting notice, a held buffer and the right; the line's reports, with
CLEAR and with a value that is no choice. -/
theorem meets_PortAndLineReports :
    let s := { line .holding with stats := { checkErrors := 258 } }
    let full := { at2 { conn with notices := [.ended .badAck] } with pool := charged [0] }
    s.hears 0 = true ∧
      goesTo (exec (.portInfo (req 0)) full)
        (full.served (req 0) 0x50 [] .ok [1, 16, 96, 5, 1, 0, 1, 0, 1, 0] id) = true ∧ goesTo (exec (.turnList (req 1)) s) (s.served (req 1) 0x72 [] .ok [3, 5, 3, 9, 0x94] id) =
        true ∧
      goes (exec (.lineStatus (req 0) 1) s)
        (fun t => decide (t.stats = {} ∧ (t.port 0).slot.map (·.results) =
          some [2, 5, 0, 3, 1, 1, 0, 0, 0, 0, 0, 0, 2, 1, 0, 0, 0, 0, 0, 0, 0, 0])) = true ∧
      goesTo (exec (.lineStatus (req 0) 2) s) (s.refusing (req 0) 0x82 [2] .badArg) = true := by decide +kernel

/-- LineStartJoinsTheRotation: not OFFLINE, no station address, and the lost time 2000 + 5 × 100 µs. -/
theorem meets_LineStartJoinsTheRotation :
    (line .offline).hears 0 = true ∧
      goesTo (exec (.lineStart (req 0)) (line .waiting)) ((line .waiting).refusing (req 0) 0x80 [] .badState) =
        true ∧
      goesTo (exec (.lineStart (req 0)) State.reset) (State.reset.refusing (req 0) 0x80 [] .badState) = true ∧
      goes (exec (.lineStart (req 0)) (line .offline))
        (fun t => decide (t.turn.engine = .waiting ∧ t.turn.lostTimer = some 2500 ∧ t.turn.frameCount = 0)) =
          true := by decide +kernel

/-- LineStopLeavesTheRotation: each state of the line engine, with and without a frame on the line and in sole mode. -/
theorem meets_LineStopLeavesTheRotation :
    let sole : State := { line .holding with turn := { (line .holding).turn with list := [] } }
    let busy := fun s : State => sends s (onLine (.turn 9) .turn none {})
    let stops := fun (s : State) (n : Byte) (e : LineState) =>
      goes (exec (.lineStop (req 0)) s)
        (fun t => decide (t.turn.engine = e ∧ (t.port 0).slot.map (·.results) = some [n])) = true
    let out := fun s : State => goesTo (exec (.lineStop (req 0)) s) (s.refusing (req 0) 0x81 [] .badState) = true
    (line .waiting).hears 0 = true ∧ out (line .offline) ∧ out (line .stopping) ∧ out (at2 conn) ∧
      stops (at2 { conn with state := .ended }) 4 .stopping ∧ stops (line .waiting) 0 .offline ∧
      stops (line .handing) 0 .offline ∧ stops (busy (line .handing)) 4 .stopping ∧
      stops (busy (line .holding)) 4 .stopping ∧ stops sole 0 .offline ∧
      (line .holding).turn.successor 5 = some 9 ∧
      goes (exec (.lineStop (req 0)) (line .holding)) (fun t => t.sched.tx.isSome) = true := by decide +kernel

/-- FrameStartByLineState: each state of the line engine, with a probe of a SILENT station and with a normal handover. -/
theorem meets_FrameStartByLineState :
    let hands := fun (k : HandoverKind) (a : Byte) =>
      { line .handing with
        turn := { (line .handing).turn with kind := some k, target := some a, responseTimer := some 10 } }
    (line .waiting).sched.tx = none ∧ (line .waiting).line = {} ∧
      goes (exec .frameStart (line .waiting)) (fun t => decide (t.turn.lostTimer = some 2500)) = true ∧
      goes (exec .frameStart (hands .probe 20))
        (fun t => decide (t.turn.engine = .waiting ∧ t.turn.sole = false ∧ t.turn.isSilent 20 = false ∧
          (t.port 3).queue.length = 1)) = true ∧
      goes (exec .frameStart (hands .probe 9))
        (fun t => decide (t.turn.engine = .waiting ∧ t.turn.target = none ∧ (t.port 3).queue = [])) = true ∧
      goes (exec .frameStart (line .handing)) (fun t => decide (t.turn = (line .handing).turn)) = true := by
  decide +kernel

/-- FrameEndCountsAndReports: a frame of 8 bytes, one cut off, one with kind 5 and one for another station; the last counts
of a counter; reports to a part that is in RESET, ignores the line, or receives already. -/
theorem meets_FrameEndCountsAndReports :
    let s := { line .waiting with line := { receiving := true } }
    let body : Byte → List Byte := fun kind => [9, 3, kind, 0, 0, 0, 0]
    let frame := fun kind : Byte => body kind ++ halfBytes (checkSequence (body kind))
    s.listening ∧ s.line.receiving = true ∧ checkFormat 5 (body 0x50) = .formatError ∧
      (∃ f, checkFormat 5 (body 0x20) = .good f ∧ f.dest ≠ 5) ∧
      ({ strays := 65534 } : Counters).stray.strays = 65535 ∧ ({ strays := 65535 } : Counters).stray.strays = 65535 ∧
      goes (exec (.frameEnd .good [1, 2, 3, 4, 5, 6, 7, 8]) s)
        (fun t => decide (t.stats = { checkErrors := 1 } ∧ t.line = {})) = true ∧
      goes (exec (.frameEnd .cutOff (List.replicate 256 0)) s)
        (fun t => decide (t.line.ignoring = true ∧ t.stats.checkErrors = 1)) = true ∧
      goes (exec (.frameEnd .good (frame 0x50)) s) (fun t => decide (t.stats = { formatErrors := 1 })) = true ∧
      goes (exec (.frameEnd .good (frame 0x20)) s) (fun t => decide (t = { s with line := {} })) = true ∧
      (let r := { s with resetLow := true }
        let g := { s with line := { ignoring := true } }
        goesTo (exec (.frameEnd .good (frame 0x50)) r) r = true ∧ goesTo (exec (.turnReceived (head 0)) g) g = true ∧
          goesTo (exec .frameStart g) g = true ∧ goesTo (exec .frameStart s) s = true) := by
  refine ⟨⟨by decide +kernel, by decide +kernel, by decide +kernel⟩, by decide +kernel, by decide +kernel,
    ⟨{ dest := 9, src := 3, kind := .ready, dci := 0, sci := 0, seq := 0, payload := [] }, by decide +kernel⟩, rfl, rfl,
    ?_⟩
  decide +kernel

/-- ReceptionsAreFrameEnds and TurnControllerTakesGoodFrames: a part that can hear station 9. -/
theorem meets_canHear : (waits2 conn).canHear (head 0) ∧ (at2 conn).canHear (head 0) ∧
    (line .offline).canHear (head 0) := by
  refine ⟨⟨⟨?_, ?_, ?_⟩, ?_, ?_, ?_⟩, ⟨⟨?_, ?_, ?_⟩, ?_, ?_, ?_⟩, ⟨⟨?_, ?_, ?_⟩, ?_, ?_, ?_⟩⟩ <;> decide +kernel

/-- ReceptionsAreFrameEnds: DATA of one byte and ACCEPT, as frames on the line and as receptions. -/
theorem meets_ReceptionsAreFrameEnds :
    let s := waits2 conn
    goesTo (exec (.frameEnd .good (s.frameFrom (head 0) .data [7]).encode) s)
        (match exec (.dataReceived (head 0) [7]) s with
          | .next t => t
          | _ => s) = true ∧
      goes (exec (.dataReceived (head 0) [7]) s) (fun t => decide (t ≠ s)) = true := by decide +kernel

/-- TurnControllerTakesGoodFrames: TURN in WAITING, HOLDING and OFFLINE, a READY in HOLDING and WAITING, a SILENT source
and one that is not; a TURN from station 3 to station 9 in HOLDING and WAITING. -/
theorem meets_TurnControllerTakesGoodFrames :
    let receiving := fun s : State => { s with line := { receiving := true } }
    let from20 : RxHead := { head 0 with src := 20 }
    let alone := fun s : State => { s with turn := { s.turn with list := [] } }
    let silent : State := { line .holding with turn := { (line .holding).turn with list := (line .holding).turn.list.drop 2 } }
    let pass : List Byte := [9, 3, 0xF0, 0xFF, 0xFF, 0, 0]
    let passed := Instr.frameEnd .good (pass ++ halfBytes (checkSequence pass))
    checkFormat 5 pass = .good { dest := 9, src := 3, kind := .turn, dci := 0xFF, sci := 0xFF, seq := 0, payload := [] } ∧
      goes (exec passed (receiving (line .holding)))
        (fun t => decide (t.turn.engine = .waiting ∧ t.turn.lostTimer = some 2500 ∧ t.stats = {} ∧
          (t.port 1).queue.map (·.body) = [.line (.duplicateTurn 3)])) = true ∧
      goesTo (exec passed (receiving (line .waiting))) (line .waiting) = true ∧
    (∀ x ∈ (line .waiting).turn.list, x.address = (9 : Byte) → x.present = true) ∧
      goes (exec (.turnReceived (head 0)) (receiving (alone (line .waiting))))
        (fun t => decide (t.turn.engine = .holding ∧ t.turn.rotation = 1 ∧ t.turn.lostTimer = none ∧
          t.turn.frameCount = 0 ∧ t.stats.framesForUs = 1)) = true ∧
      goes (exec (.turnReceived (head 0)) (receiving (alone (line .holding))))
        (fun t => decide (t.turn.engine = .holding ∧ t.turn.frameCount = 0 ∧
          (t.port 0).queue.map (·.body) = [.line (.duplicateTurn 9)])) = true ∧
      goes (exec (.turnReceived (head 0)) (receiving (line .waiting)))
        (fun t => decide (t.turn.engine = .handing ∧ t.turn.target = some 9 ∧ t.turn.rotation = 1)) = true ∧
      goes (exec (.turnReceived from20) (receiving (line .waiting)))
        (fun t => decide (t.turn.engine = .handing ∧ t.turn.isSilent 20 = false ∧
          (t.port 0).queue.map (·.body) = [.line (.stationPresent 20)])) = true ∧
      goes (exec (.turnReceived from20) (receiving silent))
        (fun t => decide (t.turn.engine = .handing ∧ t.turn.target = some 20 ∧ t.turn.rotation = 1 ∧
          (t.port 0).queue.map (·.body) = [.line (.stationPresent 20), .line (.duplicateTurn 20)])) = true ∧
      goes (exec (.turnReceived from20) (receiving (line .stopping)))
        (fun t => decide (t.turn.engine = .stopping ∧ t.turn.isSilent 20 = false)) = true ∧
      goes (exec (.turnReceived (head 0)) (receiving (line .offline)))
        (fun t => decide (t.turn = (line .offline).turn)) = true ∧
      ((receiving (line .holding)).reached ((line .holding).frameFrom (head 0) .ready [])).turn.engine = .waiting ∧
      (line .waiting).turn.isSilent 20 = true ∧
      goes (exec (.readyReceived from20) (line .waiting)) (fun t => decide (t.turn.isSilent 20 = false)) = true ∧
      (line .offline).hearStation 20 = line .offline := by decide +kernel

/-- A DRAINING entry whose last message has SN 7 and waits for its acknowledgement. -/
def draining : ConnEntry :=
  { conn with
    state := .draining, va := 7, vs := 0, unacked := [{ msg := msg, sn := 7, needsTx := false }],
    answerTimer := some 9 }

/-- DataIsAccepted: DATA of 240 bytes with SN equal to VR, at an entry with three notices, and DATA with A that
acknowledges the last message of a DRAINING entry. Its notice joins the queue with the alerts mark, and the list behind 47
records. -/
theorem meets_DataIsAccepted :
    let c := { conn with vr := 3, notices := List.replicate 3 (.received 7 3) }
    let s := waits2 c
    let h := head (seqByte 3 0 true false)
    let told := fun (k : RxHead) (s : State) (n : Nat) (b : Handle) =>
      goes (exec (.dataReceived k [7]) s) (fun t =>
        let v := (s.reached (s.frameFrom k .data [7])).acknowledge 2 (seqEN k.seq) n
        let c := (v.entry 2).answeredBy (seqA k.seq)
        let u := (({ v with pool := t.pool } : State).setEntry 2 c).makeNotice 2 (.received b 1)
        decide (t = u.setEntry 2 (t.entry 2) ∧ (t.entry 2).notices = (u.entry 2).notices)) = true
    told (head (seqByte 0 0 false true)) { waits2 draining with pool := charged [] } 1 1 ∧ told h s 0 0 ∧
      goes (exec (.dataReceived (head 0) [7]) (waits2 conn)) (fun t => decide ((t.port 0).queue =
        [{ body := .held 2 (.received 0 1), alerts := true }])) = true ∧
      goes (exec (.dataReceived (head 0) [7])
          ((waits2 conn).setPort 0 { PortState.afterReset false false with queue := records 47 }))
        (fun t => decide ((t.entry 2).notices = [.received 0 1])) = true ∧
      h.dci.toNat = 2 ∧ seqEN h.seq = c.va ∧ seqSN h.seq = c.vr ∧ c.busy = false ∧
      goes (exec (.dataReceived (head (seqByte 0 0 false true)) [7]) { waits2 draining with pool := charged [] })
        (fun t => decide ((t.entry 2).state = .closing ∧ (t.entry 2).controlDue = .sendClose ∧
          (t.entry 2).unacked = [] ∧ t.told 0 2 = [.received 1 1] ∧ t.pool.freeList.getLast? = some 0 ∧
          (t.account 0).charge = 1)) = true ∧
      s.pool.freeList = 0 :: (List.finRange 192).drop 1 ∧ s.pool.canAllocate 0 = true ∧
      goes (exec (.dataReceived h (List.replicate 240 7)) s)
        (fun t => decide ((t.entry 2).vr = 4 ∧ (t.entry 2).notices.length = 4 ∧ t.pool.byteAt 0 239 = 7 ∧
          t.pool.byteAt 1 0 = 0 ∧ (t.entry 2).flags =
            { ackDue := true, answerOwed := true, busyAnnounced := true, statusDue := true })) = true := by
  decide +kernel

/-- DataIsRefusedOrDiscarded: out of order, at a busy entry, with no allocation, and out of order at a DRAINING entry whose
last message it acknowledges. -/
theorem meets_DataIsRefusedOrDiscarded :
    let held := { conn with flags := { hostHold := true, repeatSent := true } }
    let poor := fun c : ConnEntry =>
      { waits2 c with pool := { State.reset.pool with accounts := Vector.replicate 4 { charge := 96 } } }
    let data := fun sn : Seq => Instr.dataReceived (head (seqByte sn 0 false false)) [7]
    goes (exec (data 1) { waits2 draining with pool := charged [] })
        (fun t => decide ((t.entry 2).state = .closing ∧ (t.entry 2).flags = {} ∧ t.told 0 2 = [])) = true ∧
      conn.busy = false ∧ held.busy = true ∧ (poor conn).pool.canAllocate 0 = false ∧
      goes (exec (data 1) (waits2 conn))
        (fun t => decide ((t.entry 2).flags = { repeatDue := true, repeatSent := true })) = true ∧
      goes (exec (data 0) (waits2 held))
        (fun t => decide ((t.entry 2).flags = { hostHold := true, busyAnnounced := true, statusDue := true })) =
          true ∧
      goes (exec (data 0) (poor conn))
        (fun t => decide ((t.entry 2).flags = { starved := true, busyAnnounced := true, statusDue := true })) =
          true := by decide +kernel

/-- TransferFramesAreTaken: a READY that acknowledges the one message, at an OPEN entry and a DRAINING one, a READY with A, a
WAIT at a stopped timer, a REPEAT, and an EN one beyond what was sent, in a READY and in DATA. -/
theorem meets_TransferFramesAreTaken :
    let sent : ConnEntry := { draining with state := .opened, retryCount := 2 }
    let s := { waits2 sent with pool := charged [] }
    (head (seqByte 0 0 false false)).dci.toNat = 2 ∧ sent.orphan = false ∧
      goes (exec (.readyReceived (head (seqByte 0 0 false false))) { waits2 draining with pool := charged [] })
        (fun t => decide ((t.entry 2).state = .closing ∧ (t.port 0).queue.map (·.body) = [.sent 2 0x1234])) = true ∧
      goes (exec (.readyReceived (head (seqByte 0 7 false true))) s)
        (fun t => (t.entry 2).marked && decide ((t.entry 2).answerTimer = some 100)) = true ∧
      goes (exec (.dataReceived (head (seqByte 0 1 false false)) [7]) s)
        (fun t => decide ((t.entry 2).endReason = some .badAck)) = true ∧
      goes (exec (.readyReceived (head (seqByte 0 0 false false))) s)
        (fun t => decide ((t.entry 2).unacked = [] ∧ (t.entry 2).va = 0 ∧ (t.entry 2).retryCount = 0 ∧
          (t.entry 2).answerTimer = none ∧ t.pool.freeList.getLast? = some 0 ∧ (t.account 0).charge = 0)) = true ∧
      goes (exec (.waitReceived (head (seqByte 0 7 false false))) (waits2 { sent with answerTimer := none }))
        (fun t => decide ((t.entry 2).flags = { peerWaiting := true } ∧ (t.entry 2).answerTimer = some 100)) = true ∧
      goes (exec (.repeatReceived (head (seqByte 0 7 false false))) s)
        (fun t => (t.entry 2).marked && decide ((t.entry 2).answerTimer = some 9)) = true ∧
      goes (exec (.readyReceived (head (seqByte 0 1 false false))) s)
        (fun t => decide ((t.entry 2).endReason = some .badAck)) = true := by decide +kernel

/-- OpenIsDecided: each outcome, with a window of 5, with the last accept and with 255. -/
theorem meets_OpenIsDecided :
    let s := fun (c : ConnEntry) (l : List ListenEntry) => { waits2 c with listen := l }
    let full := { s conn [offer 1] with entries := Vector.replicate 32 { conn with remoteIndex := some 30 } }
    let open_ := fun w : Byte => Instr.openReceived (head 0) 7 w
    let refuses := fun (t : State) (w : StrayReason) =>
      goes (exec (open_ 4) t)
        (fun t => decide (t.sched.strays = [{ reason := w, dest := 9, dci := 4, sci := 0xFF }])) = true
    goes (exec (open_ 4) (line .offline)) (fun t => decide (t.stats = { framesForUs := 1 })) = true ∧
      goes (exec (open_ 5) (line .offline)) (fun t => decide (t.stats = { framesForUs := 1 })) = true ∧
      goes (exec (open_ 5) (s {} [])) (fun t => decide (t.stats.formatErrors = 1)) = true ∧
      goes (exec (open_ 4) (s conn [])) (fun t => decide ((t.entry 2).controlDue = .sendAccept)) = true ∧
      refuses (s { conn with state := .ended } [offer 1]) .stale ∧ refuses (s {} []) .noService ∧
      refuses full .full ∧
      goes (exec (open_ 4) (s {} [offer 1]))
        (fun t => decide ((t.entry 0).window = some 1 ∧ (t.entry 0).owner = some 1 ∧ t.listen = [] ∧
          (t.port 1).queue.map (·.body) = [.held 0 (.arrived 9 7), .listenDone 0 7])) = true ∧
      goes (exec (open_ 4) (s {} [offer 255])) (fun t => decide (t.listen = [offer 254])) = true := by decide +kernel

/-- OpeningEntryTakesAnswers: an SCI of 32, windows 0, 2 and 3 against 2, a remote in use, and each refusal. -/
theorem meets_OpeningEntryTakesAnswers :
    let c := { conn with state := .opening, remoteIndex := none, controlDue := .sendOpen }
    let s := waits2 c
    let why := fun (s : State) (i : Instr) (r : EndReason) =>
      goes (exec i s) (fun t => decide ((t.entry 2).endReason = some r)) = true
    (s.entry 2).state = .opening ∧ why s (.acceptReceived { head 0 with sci := 32 } 2) .protocol ∧
      why s (.acceptReceived (head 0) 0) .protocol ∧ why s (.acceptReceived (head 0) 3) .protocol ∧
      why (s.setEntry 3 conn) (.acceptReceived (head 0) 2) .protocol ∧
      goes (exec (.acceptReceived { head 0 with sci := 31 } 2) s)
        (fun t => decide ((t.entry 2).state = .opened ∧ (t.entry 2).remoteIndex = some 31 ∧
          (t.port 0).queue.map (·.body) = [.opened 2])) = true ∧
      why s (.refuseReceived (head 0) 1) .refusedNoService ∧ why s (.refuseReceived (head 0) 3) .refusedStale ∧
      why s (.refuseReceived (head 0) 4) .protocol ∧ why s (.closedReceived (head 0) 0) .peerReset := by
  decide +kernel

/-- EntryTakesControlFrames: a CLOSE at an OPEN entry, DATA at a CLOSING one, and the end of a close exchange of an orphan, of an entry without
notices and of one with a notice. -/
theorem meets_EntryTakesControlFrames :
    let closing := { conn with state := .closing }
    goes (exec (.dataReceived (head 0) [7]) (waits2 closing))
        (fun t => decide (t.entry 2 = closing ∧ t.stats = { framesForUs := 1 })) = true ∧
      goes (exec (.closeReceived (head 0)) (waits2 conn))
        (fun t => decide ((t.entry 2).endReason = some .peerClosed ∧
          t.sched.strays = [{ reason := .normal, dest := 9, dci := 4, sci := 2 }])) = true ∧
      goes (exec (.closedReceived (head 0) 7) (waits2 { closing with orphan := true }))
        (fun t => decide (t.entry 2 = {} ∧ (t.port 0).queue = [])) = true ∧
      goes (exec (.closedReceived (head 0) 7) (waits2 closing))
        (fun t => decide (t.entry 2 = {} ∧ (t.port 0).queue.map (·.body) = [.closed 2 false])) = true ∧
      goes (exec (.closeReceived (head 0)) (waits2 { closing with notices := [.ended .badAck] }))
        (fun t => decide ((t.entry 2).closeFinished = true ∧ t.sched.strays.length = 1)) = true := by decide +kernel

/-- StrayFramesAndReplies: a DCI of 32, a FREE and an ENDED entry, an OPENING one from elsewhere and from its own remote
station, an OPEN one from elsewhere; OFFLINE, a list of 7 replies and of 8. -/
theorem meets_StrayFramesAndReplies :
    let strays := fun (s : State) (h : RxHead) =>
      goes (exec (.readyReceived h) s)
        (fun t => decide (t.stats.strays = 1 ∧
          t.sched.strays = [{ reason := .noConnection, dest := h.src, dci := h.sci, sci := h.dci }])) = true
    let x : StrayReply := { reason := .full, dest := 9, dci := 4, sci := 0xFF }
    let listed := fun n : Nat =>
      { line .waiting with sched := { State.reset.sched with strays := List.replicate n x } }
    strays (waits2 conn) { head 0 with dci := 32 } ∧ strays (waits2 conn) { head 0 with dci := 31 } ∧
      strays (waits2 { conn with state := .ended }) (head 0) ∧
      strays (waits2 { conn with state := .opening }) { head 0 with src := 3 } ∧
      strays (waits2 { conn with state := .opening, remoteIndex := none }) (head 0) ∧
      strays (waits2 conn) { head 0 with sci := 5 } ∧ (line .offline).offerStray x = line .offline ∧
      ((listed 7).offerStray x).sched.strays.length = 8 ∧
      (listed 8).offerStray x = { listed 8 with stats := { straysNotMade := 1 } } := by decide +kernel

/-- EndOfTransmissionAtTheOrigin, in the other states of the turn: a stray reply that reaches the budget and one during
which the hold timer expired, DATA in sole mode at the budget and with the hold timer expired, and a deferred message in
STOPPING outside sole mode and in it. -/
theorem meets_EndOfTransmission_ends_the_turn :
    let sent : ConnEntry := { conn with unacked := [{ msg := msg, sn := 0, needsTx := false }] }
    let x : StrayReply := { reason := .stale, dest := 9, dci := 4, sci := 0xFF }
    let turn := fun (s : State) (f : TurnController → TurnController) => { s with turn := f s.turn }
    let stray := sends { at2 conn with sched := { State.reset.sched with strays := [x] } } (onLine .stray .refuse none {})
    let data := sends { at2 sent with pool := charged [] } (onLine (.entry 2) .data (some 0) {})
    let sole := turn data fun t => { t with list := [] }
    let stop := turn { data with entries := (at2 { sent with state := .closing, orphan := true }).entries }
      fun t => { t with engine := .stopping }
    let after := fun (s : State) (P : State → Bool) => goes (exec .endOfTransmission s) P = true
    after (turn stray fun t => { t with frameCount := 7 })
        (fun t => decide (t.turn.engine = .handing ∧ t.sched.strays = [])) ∧
      after (turn stray fun t => { t with holdTimer := none }) (fun t => decide (t.turn.engine = .handing)) ∧
      after (turn sole fun t => { t with frameCount := 7 })
        (fun t => decide (t.turn.engine = .holding ∧ t.turn.frameCount = 0 ∧ (t.entry 2).answerTimer = some 100)) ∧
      after (turn sole fun t => { t with holdTimer := none })
        (fun t => decide (t.turn.holdTimer = some 5000 ∧ t.turn.frameCount = 0)) ∧
      after stop
        (fun t => decide (t.sched.tx.map (·.origin) = some (.turn 9) ∧ (t.entry 2).unacked = [] ∧
          t.pool.freeList.getLast? = some 0 ∧ t.turn.frameCount = 1)) ∧
      after (turn stop fun t => { t with list := [] })
        (fun t => decide (t.turn.engine = .offline ∧ t.entry 2 = {} ∧ t.pool.freeList.getLast? = some 0)) := by
  decide +kernel

/-- EndOfTransmissionAtTheOrigin: each kind of frame at its entry, an ACCEPT and a WAIT whose entry became CLOSING and
ENDED, and a deferred message at an orphan and at an ENDED entry. -/
theorem meets_EndOfTransmissionAtTheOrigin :
    let sent : ConnEntry := { conn with unacked := [{ msg := msg, sn := 0, needsTx := false }] }
    let run := fun (c : ConnEntry) (k : FrameKind) (sn : Option Seq) (d : Discharged) =>
      sends { at2 c with pool := charged [] } (onLine (.entry 2) k sn d)
    let alone := fun s : State => { s with turn := { s.turn with list := [] } }
    let after := fun (s : State) (P : State → Bool) => goes (exec .endOfTransmission s) P = true
    (run sent .data (some 0) {}).turn.frameCount + 1 < (run sent .data (some 0) {}).config.params.turnBudget ∧
      (run sent .data (some 0) {}).turn.holdTimer ≠ none ∧
      after (alone (run sent .data (some 0) {}))
        (fun t => decide ((t.entry 2).answerTimer = some 100 ∧ t.turn.frameCount = 2 ∧ t.sched.tx = none)) ∧
      after (run { sent with sendQueue := [msg] } .data (some 0) {})
        (fun t => decide ((t.entry 2).answerTimer = some 100 ∧ t.turn.frameCount = 2 ∧
          t.sched.tx.map (·.frame.kind) = some .data)) ∧
      after (run conn .ready none { queryDue := true }) (fun t => (t.entry 2).flags.queryOutstanding) ∧
      after (run { conn with controlDue := .sendAccept } .accept none {})
        (fun t => decide ((t.entry 2).controlDue = .none)) ∧
      after (run { conn with state := .opening, controlDue := .sendOpen } .opening none {})
        (fun t => decide ((t.entry 2).controlDue = .none ∧ (t.entry 2).answerTimer = some 100)) ∧
      after (run { conn with state := .closing, controlDue := .sendClose } .accept none {})
        (fun t => decide (t.entry 2 = { conn with state := .closing, controlDue := .sendClose })) ∧
      after (run { conn with state := .ended, endReason := some .badAck } .wait none { queryDue := true })
        (fun t => decide (t.entry 2 = { conn with state := .ended, endReason := some .badAck })) ∧
      after (run { sent with state := .closing, orphan := true } .data (some 0) {})
        (fun t => decide ((t.entry 2).unacked = [] ∧ t.pool.freeList.getLast? = some 0)) ∧
      after (run { sent with state := .ended, endReason := some .badAck } .data (some 0) {})
        (fun t => decide (t.told 0 2 = [.unsent 0x1234 0 3, .ended .badAck])) := by decide +kernel

/-- EndOfTransmissionAndTheTurn: the budget reached and not, the hold timer stopped, sole mode, HANDING and STOPPING; the
line engine goes OFFLINE with a CLOSING entry whose frame is on the line. -/
theorem meets_EndOfTransmissionAndTheTurn :
    let gone : TxRecord := { onLine (.entry 2) .data none {} with detached := true }
    let sole := fun s : State => { s with turn := { s.turn with list := [] } }
    let count := fun (n : Nat) (s : State) => { s with turn := { s.turn with frameCount := n } }
    let after := fun (s : State) (P : State → Bool) => goes (exec .endOfTransmission (sends s gone)) P = true
    let off := (sends (at2 { conn with state := .closing }) (onLine (.entry 2) .close none {})).goOffline
    (off.entry 2 = {} ∧ off.turn.engine = .offline ∧ off.sched.tx.map (·.detached) = some true ∧
        (off.port 3).queue.map (·.body) = [.line .stopped]) ∧
      after (count 7 (line .holding)) (fun t => decide (t.turn.engine = .handing)) ∧
      after { count 6 (line .holding) with
          sched := { State.reset.sched with strays := [{ reason := .full, dest := 9, dci := 4, sci := 0xFF }] } }
        (fun t => decide (t.turn.engine = .holding ∧ t.turn.frameCount = 7 ∧
          t.sched.tx.map (·.origin) = some .stray)) ∧
      after (count 6 (line .holding)) (fun t => decide (t.turn.engine = .handing ∧ t.turn.frameCount = 7)) ∧
      goesTo (exec .endOfTransmission (line .holding)) (line .holding) = true ∧
      after (count 7 (sole (line .holding))) (fun t => decide (t.turn.engine = .holding ∧ t.turn.frameCount = 0)) ∧
      after (sole (line .stopping)) (fun t => decide (t.turn.engine = .offline)) ∧
      after (line .stopping) (fun t => decide (t.turn.target = some 9 ∧ t.turn.engine = .stopping)) ∧
      goes (exec .endOfTransmission (sends (line .handing) (onLine (.turn 9) .turn none {})))
        (fun t => decide (t.turn.responseTimer = some 200)) = true ∧
      goes (exec .endOfTransmission (sends (line .stopping) (onLine (.turn 9) .turn none {})))
        (fun t => decide (t.turn.engine = .offline)) = true := by decide +kernel

/-- TransmitFaultRestores: DATA at an OPEN entry, a stray reply, a deferred message at an ENDED entry and, in STOPPING, at a
CLOSING orphan, a TURN in HANDING and in STOPPING. -/
theorem meets_TransmitFaultRestores :
    let sent : ConnEntry := { conn with unacked := [{ msg := msg, sn := 0, needsTx := false }] }
    let fault := fun (s : State) (x : TxRecord) (P : State → Bool) => goes (exec .transmitFault (sends s x)) P = true
    fault (at2 sent) (onLine (.entry 2) .data (some 0) { ackDue := true })
        (fun t => (t.entry 2).marked && (t.entry 2).flags.ackDue && decide (t.turn.engine = .waiting ∧
          (t.port 2).queue.map (·.body) = [.line .txFault])) ∧
      fault
        { line .stopping with
          sched := { State.reset.sched with strays := [{ reason := .full, dest := 9, dci := 4, sci := 0xFF }] } }
        (onLine .stray .refuse none {}) (fun t => decide (t.turn.engine = .offline ∧ t.sched.strays = [])) ∧
      fault { at2 { sent with state := .ended, endReason := some .badAck } with pool := charged [] }
        (onLine (.entry 2) .data (some 0) {})
        (fun t => decide (t.told 0 2 = [.unsent 0x1234 0 3, .ended .badAck] ∧ t.turn.engine = .waiting)) ∧
      fault
        { (line .stopping).setEntry 2 { sent with state := .closing, orphan := true } with pool := charged [] }
        (onLine (.entry 2) .data (some 0) {})
        (fun t => decide (t.entry 2 = {} ∧ t.pool.freeList.getLast? = some 0 ∧ t.turn.engine = .offline)) ∧
      goesTo (exec .transmitFault (line .holding)) (line .holding) = true ∧
      fault (line .handing) (onLine (.turn 9) .turn none {}) (fun t => decide (t.turn.lostTimer = some 2500)) ∧
      fault (line .stopping) (onLine (.turn 9) .turn none {})
        (fun t => decide (t.turn.engine = .offline ∧
          (t.port 2).queue.map (·.body) = [.line .txFault, .line .stopped])) := by decide +kernel

/-- TransmissionHoldsTheLine: a frame that starts, one that a command and the idle part leave on the line, and its end with
a TURN behind it, by a fault and by RESET. -/
theorem meets_TransmissionHoldsTheLine :
    let s := sends (at2 conn) (onLine (.entry 2) .ready none {})
    let last := { s with turn := { s.turn with frameCount := 7 } }
    s.lde = true ∧ s.turn.responseTimer = none ∧ s.pending = [] ∧ (at2 conn).ltx = none ∧
      s.ltx.map (·.take 7) = some [9, 5, 0x20, 4, 2, 0, 0] ∧ s.ltx.map (·.length) = some 9 ∧
      s.ltxBits.map (·.take 8) = some [false, false, false, false, true, false, false, true] ∧
      ((at2 conn).startFrame .stray (onLine .stray .ready none {}).frame none {}).ltx = s.ltx ∧
      goes (exec .holdTimerExpiry s) (fun t => decide (t.ltx = s.ltx)) = true ∧
      goes (step s) (fun t => decide (t.ltx = s.ltx)) = true ∧
      goes (exec .endOfTransmission { s with turn := { s.turn with list := [] } }) (fun t => !t.lde) = true ∧
      goes (exec .endOfTransmission s) (fun t => decide (t.sched.tx.map (·.origin) = some (.turn 9))) = true ∧
      goes (exec .endOfTransmission (s.setEntry 7 { conn with sendQueue := [msg] }))
        (fun t => decide (t.sched.tx.map (·.origin) = some (.entry 7) ∧ t.turn.engine = .holding)) = true ∧
      goes (exec .endOfTransmission last) (fun t => decide (t.sched.tx.map (·.origin) = some (.turn 9))) = true ∧
      goes (exec .transmitFault s) (fun t => !t.lde) = true ∧
      goes (exec .resetAsserted s) (fun t => !t.lde) = true := by decide +kernel

/-- AnswerTimerExpires: a stopped timer, the retry limit reached and one below it, in each state. -/
theorem meets_AnswerTimerExpires :
    let c := fun (st : EntryState) (n : Nat) => { conn with state := st, retryCount := n, answerTimer := some 1 }
    let after := fun (d : ConnEntry) (P : ConnEntry → Bool) =>
      goes (exec (.answerTimerExpiry 2) (waits2 d)) (fun t => P (t.entry 2)) = true
    goesTo (exec (.answerTimerExpiry 2) (at2 conn)) (at2 conn) = true ∧
      after (c .opened 3) (fun d => decide (d.endReason = some .noAnswer)) ∧
      goes (exec (.answerTimerExpiry 2) (at2 (c .opened 2)))
        (fun t => decide (t.sched.tx.map (·.frame.kind) = some .ready ∧ (t.entry 2).retryCount = 3)) = true ∧
      after (c .opened 2) (fun d => d.flags.queryDue && decide (d.retryCount = 3 ∧ d.answerTimer = none)) ∧
      after (c .opening 2) (fun d => decide (d.controlDue = .sendOpen)) ∧
      after (c .closing 2) (fun d => decide (d.controlDue = .sendClose)) ∧
      after (c .closing 3) (fun d => decide (d = {})) := by decide +kernel

/-- LineTimersExpire: each timer, in sole mode and outside it, with a frame on the line and without, and both attempts of
a handover, to a target that is listed and to one whose record was removed. A tick takes off the last of the lost timer and
of an answer timer, whose query is then due while the part holds the turn, and takes 10 µs and a millisecond off others. -/
theorem meets_LineTimersExpire :
    let lost := { line .waiting with turn := { (line .waiting).turn with lostTimer := some 1, rotation := 255 } }
    let hands := fun (k : HandoverKind) (a : Byte) (n : Nat) (l : List Station) =>
      { line .handing with
        turn :=
          { (line .handing).turn with
            list := l, kind := some k, target := some a, attempt := some n, responseTimer := some 1 } }
    let list := (line .handing).turn.list
    let after := fun (i : Instr) (s : State) (P : TurnController → Bool) => goes (exec i s) (fun t => P t.turn) = true
    let sole : State := { line .holding with turn := { (line .holding).turn with list := list.drop 2 } }
    let ticks := fun (lost answer : Nat) (P : TurnController → ConnEntry → Bool) =>
      let s := waits2 { conn with answerTimer := some answer, answerPhase := 99 }
      let t := ({ s with turn := { s.turn with lostTimer := some lost, holdTimer := none } } : State).tick
      P t.turn (t.entry 2) = true
    ticks 10 1 (fun t c => decide (t.engine = .handing ∧ c.flags.queryDue = true ∧ c.retryCount = 1 ∧
        c.answerTimer = none)) ∧
      ticks 11 2 (fun t c => decide (t.lostTimer = some 1 ∧ c.answerTimer = some 1 ∧ c.answerPhase = 0)) ∧
      after .lostTimerExpiry { lost with turn := { lost.turn with list := [] } }
        (fun t => decide (t.engine = .holding ∧ t.rotation = 255 ∧ t.holdTimer = some 5000)) ∧
      goesTo (exec .lostTimerExpiry (line .waiting)) (line .waiting) = true ∧
      goesTo (exec .holdTimerExpiry lost) lost = true ∧
      goesTo (exec .turnResponseTimerExpiry (line .handing)) (line .handing) = true ∧
      after .holdTimerExpiry (line .holding) (fun t => decide (t.engine = .handing ∧ t.target = some 9)) ∧
      after .holdTimerExpiry (sends (line .holding) (onLine .stray .closed none {}))
        (fun t => decide (t.engine = .holding ∧ t.holdTimer = none)) ∧
      after .holdTimerExpiry sole (fun t => decide (t.kind = some .probe ∧ t.target = some 20)) ∧
      after .holdTimerExpiry { sole with turn := { sole.turn with list := [] } }
        (fun t => decide (t.engine = .holding ∧ t.frameCount = 0)) ∧
      after .turnResponseTimerExpiry (hands .normal 9 1 list)
        (fun t => decide (t.attempt = some 2 ∧ t.target = some 9)) ∧
      after .turnResponseTimerExpiry (hands .normal 9 2 list)
        (fun t => decide (t.isSilent 9 = true ∧ t.target = some 3 ∧ t.attempt = some 1)) ∧
      goes (exec .turnResponseTimerExpiry (hands .normal 30 2 list))
        (fun t => decide (t.stats.handoverFailures = 1 ∧ t.turn.target = some 9 ∧ t.turn.list = list ∧
          (t.port 0).queue = [])) = true ∧
      after .turnResponseTimerExpiry (hands .normal 9 2 (list.drop 1)) (fun t => decide (t.engine = .holding)) ∧
      after .turnResponseTimerExpiry (hands .probe 20 1 list) (fun t => decide (t.target = some 9)) ∧
      after .turnResponseTimerExpiry (hands .probe 20 1 (list.drop 2)) (fun t => decide (t.engine = .holding)) := by
  decide +kernel

/-- HandoverChoice: a turn list in order, with a probe that is not due, one that is due and has candidates (the example
of R123: station 50, successor 5), one that is due and has none, and sole mode. -/
theorem meets_HandoverChoice :
    let at50 := fun (l : List Station) (rotation : Nat) =>
      { line .holding with
        turn := { (line .holding).turn with list := l, rotation := rotation }
        config := { (line .holding).config with station := 50 } }
    let silent := fun a : Byte => ({ address := a, present := false } : Station)
    let list : List Station := [silent 2, { address := 5, present := true }, silent 40, silent 57]
    turnListOk (line .holding).config.station (line .holding).turn.list ∧
      (line .holding).config.station.toNat ≤ 62 ∧ (line .holding).turn.successor 5 = some 9 ∧
      (line .holding).turn.candidates 5 = [] ∧ (line .holding).turn.nextProbe 5 = none ∧
      turnListOk (at50 list 16).config.station (at50 list 16).turn.list ∧
      (at50 list 16).endTurn = (at50 list 16).beginProbe 2 ∧
      ((at50 list 16).endTurn.turn.target = some 2 ∧ (at50 list 16).endTurn.turn.kind = some .probe ∧
        (at50 list 16).endTurn.turn.probeCursor = 2 ∧ (at50 list 16).endTurn.turn.rotation = 0) ∧
      (at50 list 15).endTurn = (at50 list 15).beginHandover .normal 5 ∧
      (at50 (list.drop 1) 16).turn.nextProbe 50 = some 57 ∧
      (at50 ((list.drop 1).take 2) 16).endTurn = (at50 ((list.drop 1).take 2) 16).beginHandover .normal 5 ∧
      (at50 (list.drop 2) 16).turn.successor 50 = none ∧ (at50 (list.drop 2) 16).turn.candidates 50 = [40, 57] := by
  refine ⟨⟨?_, ?_, ?_⟩, ?_, ?_, ?_, ?_, ⟨?_, ?_, ?_⟩, ?_⟩ <;> decide +kernel

/-- SchedulerChoosesByClass: not offered, nothing to send, and one frame from each class and each rule of R27. -/
theorem meets_SchedulerChoosesByClass :
    let one := { conn with sendQueue := [msg], unacked := [{ msg := msg, sn := 0, needsTx := false }], vs := 1 }
    let again := { one with unacked := [{ msg := msg, sn := 0, needsTx := true }] }
    let stray := { at2 conn with
      sched := { State.reset.sched with strays := [{ reason := .stale, dest := 9, dci := 4, sci := 0xFF }] } }
    let gives := fun (s : State) (k : FrameKind) (seq : Byte) (payload : List Byte) =>
      goes (exec .schedulerChoice s)
        (fun t => decide (t.sched.tx.map (fun x => (x.frame.kind, x.frame.seq, x.frame.payload)) =
          some (k, seq, payload))) = true
    let flagged := fun f : Flags => at2 { one with flags := f }
    (at2 one).offered = true ∧ goesTo (exec .schedulerChoice (line .waiting)) (line .waiting) = true ∧
      goesTo (exec .schedulerChoice (at2 conn)) (at2 conn).endTurn = true ∧ gives stray .refuse 0 [3] ∧
      gives (at2 { one with controlDue := .sendAccept }) .accept 0 [2] ∧
      gives (flagged { repeatDue := true }) .rept 0 [] ∧
      gives (flagged { statusDue := true, answerOwed := true }) .ready 0x01 [] ∧
      gives (flagged { ackDue := true, hostHold := true, queryDue := true }) .wait 0x02 [] ∧
      gives (flagged { ackDue := true }) .data 0x22 [0, 0, 0] ∧
      gives (at2 { conn with state := .opening, controlDue := .sendOpen }) .opening 0 [7, 2] ∧
      gives (at2 { conn with state := .closing, controlDue := .sendClose }) .close 0 [] ∧
      gives (flagged { queryDue := true }) .ready 0x02 [] ∧ gives (at2 one) .data 0x22 [0, 0, 0] ∧
      gives (at2 again) .data 0x00 [0, 0, 0] := by decide +kernel

/-- TransactionsRoundTrip: a command of every form of transaction. -/
theorem meets_TransactionsRoundTrip :
    ∀ i ∈ [Instr.bufWrite { req 3 with rest := [1, 2] } 7 0 2, .unknownRequest { req 0 with rest := [1] } 0x83,
        .truncatedRequest 0 [], .truncatedRequest 0 (bitsOf [0x11, 9] ++ [true]), .collect 2 [], .collect 2 [true],
        .ignoredTransaction 1 [], .ignoredTransaction 1 (bitsOf [0, 9])],
      i.wf = true ∧ (encodeTransaction i).map (fun w => decodeTransaction w.port w.sdi) = some i := by
  decide +kernel

/-- The waiting part with a connection that has one message to send, in buffer 0, and a command that waits. -/
def busyPart : State :=
  { waits2 { conn with sendQueue := [msg] } with pool := charged [], pending := [.bufGet (req 0)] }

theorem busyPart_entry (e : EntryIdx) :
    busyPart.entry e = if e = 2 then { conn with sendQueue := [msg] } else {} := by
  revert e; decide +kernel

/-- EveryStepKeepsThePool, EveryStepKeepsTheQueues, EveryStepKeepsTheLine and EveryStepKeepsTheTables: a state that meets
the promises and takes a step. -/
theorem meets_EveryStep :
    let s := busyPart
    s.pool.memoryOk ∧ s.pool.quotasOk ∧ s.pool.reserveLaw ∧ settled s ∧
      settled { line .holding with turn := { (line .holding).turn with list := [] } } ∧ (∀ p : Port, heldOk (s.account p).held) ∧
      (∀ p : Port, (s.port p).queue = []) ∧ transmitsOk s ∧ handingSendsTurn s ∧ straysOk s ∧ handingWaits s ∧
      listenOk s.listen ∧ freeEntriesOk s ∧ (∀ e : EntryIdx, (s.entry e).boundsOk) ∧
      goes (step s) (fun t => decide ((t.account 0).held = [1])) = true := by
  refine ⟨⟨rfl, fun _ h => ?_⟩, ⟨by decide +kernel, by decide +kernel⟩, ?_, (by simp [settled, State.offered]; decide),
    (by unfold settled; decide +kernel), ?_, by decide +kernel, fun h => ?_,
    fun h => ?_, ⟨?_, fun _ => rfl⟩, fun h => absurd rfl h, ⟨Nat.zero_le _, fun _ h => ?_, .nil⟩, fun e h => ?_,
    fun e => ?_, by decide +kernel⟩
  · cases h
  · show (busyPart.pool.unusedTotal ≤ busyPart.pool.freeList.length)
    decide +kernel
  · show ∀ p : Port, (busyPart.account p).held.Pairwise (· < ·)
    decide +kernel
  · cases h
  · cases h
  · show (0 ≤ 8)
    decide
  · cases h
  · rw [busyPart_entry] at h ⊢
    split at h
    · cases h
    · simp [*]
  · rw [busyPart_entry]
    split <;> (unfold ConnEntry.boundsOk; decide +kernel)

/-- EveryStepKeepsTheConnections and EveryStepKeepsEachBufferInOnePlace: a part with a connection and a message. -/
theorem meets_EveryStepKeepsTheConnections : ConnectionsOk busyPart ∧ onePlace busyPart ∧ chargesOk busyPart := by
  refine ⟨⟨fun e => ?_, fun e k hne he hk => ?_, fun x e h => ?_, fun x h => ?_, fun h => ?_⟩, ?_, ?_⟩
  · rw [busyPart_entry]
    split
    · simp only [ConnEntry.ok, conn, ConnEntry.paramsOk, ConnEntry.hasPeer, ConnEntry.windowOk]
      decide +kernel
    · rfl
  · rw [busyPart_entry] at he hk
    split at he
    · split at hk
      · exact absurd (by simp [*]) hne
      · simp [ConnEntry.keepsRemote] at hk
    · simp [ConnEntry.keepsRemote] at he
  · cases h
  · cases h
  · rcases h with h | h <;> cases h
  · show ∀ h : Handle,
      (busyPart.pool.freeList ++ (List.finRange 4).flatMap busyPart.buffersOf).count h = 1
    decide +kernel
  · show ∀ p : Port, (busyPart.account p).charge = (busyPart.buffersOf p).length
    decide +kernel

end

end Sys2Proof.Tests
end

section
/-! The requests on the connection table: what an entry index and the ownership check decide, once for every request that
names an entry, and then the answers of CONN.OPEN, CONN.RELEASE and CONN.QUERY. -/

namespace Sys2Proof.Machine

/-! ### A byte that names an entry -/

theorem indexArg_of_eq {n : Nat} {b : Byte} {i : Fin n} (h : b.toNat = i.val) : indexArg n b = some i := by
  simp [indexArg, h]

theorem indexArg_of_le {n : Nat} {b : Byte} (h : n ≤ b.toNat) : indexArg n b = none := by
  simp [indexArg, h]

theorem entryArg_of_eq {b : Byte} {e : EntryIdx} (h : b.toNat = e.val) : entryArg b = some e := indexArg_of_eq h

theorem entryArg_of_lt {b : Byte} (h : 31 < b.toNat) : entryArg b = none := indexArg_of_le h

/-- R6. -/
theorem ownedBy_iff {c : ConnEntry} {p : Port} :
    c.ownedBy p = true ↔ c.owner = some p ∧ c.state ≠ .free ∧ c.orphan = false := by
  simp [ConnEntry.ownedBy, and_assoc]

section
variable {p : Port} {entry : Byte} {s : State} {e : EntryIdx} {handle : EntryIdx → ConnEntry → Answer}

theorem withOwnEntry_badArg (h : 31 < entry.toNat) : withOwnEntry p entry s handle = .refuse .badArg s := by
  simp [withOwnEntry, entryArg_of_lt h]

theorem withOwnEntry_notOwner (he : entry.toNat = e.val) (h : ¬ (s.entry e).ownedBy p = true) :
    withOwnEntry p entry s handle = .refuse .notOwner s := by
  simp [withOwnEntry, entryArg_of_eq he, h]

theorem withOwnEntry_own (he : entry.toNat = e.val) (h : (s.entry e).ownedBy p = true) :
    withOwnEntry p entry s handle = handle e (s.entry e) := by
  simp [withOwnEntry, entryArg_of_eq he, h]

end

/-! ### CONN.RELEASE -/

@[simp] theorem freeEntry_port (s : State) (e : EntryIdx) (p : Port) : (s.freeEntry e).port p = s.port p := rfl

section
variable {p : Port} {entry : Byte} {s : State} {e : EntryIdx}

theorem answerConnRelease_badArg (h : 31 < entry.toNat) : answerConnRelease p entry s = .refuse .badArg s :=
  withOwnEntry_badArg h

theorem answerConnRelease_notOwner (he : entry.toNat = e.val) (h : ¬ (s.entry e).ownedBy p = true) :
    answerConnRelease p entry s = .refuse .notOwner s := withOwnEntry_notOwner he h

/-- R19: an own entry that is not ENDED or has something left stays. -/
theorem answerConnRelease_badState (he : entry.toNat = e.val) (hown : (s.entry e).ownedBy p = true)
    (h : ¬ ((s.entry e).state = .ended ∧ (s.entry e).notices = [] ∧ (s.entry e).unacked = [])) :
    answerConnRelease p entry s = .refuse .badState s := by
  rw [answerConnRelease, withOwnEntry_own he hown, if_neg (by simpa [and_assoc] using h)]

/-- R19: an own entry that is ENDED with nothing left returns to FREE. -/
theorem answerConnRelease_ok (he : entry.toNat = e.val) (hown : (s.entry e).ownedBy p = true)
    (hstate : (s.entry e).state = .ended) (hnotices : (s.entry e).notices = []) (hunacked : (s.entry e).unacked = []) :
    answerConnRelease p entry s = .ok [] (s.freeEntry e) := by
  rw [answerConnRelease, withOwnEntry_own he hown, if_pos (by simp [hstate, hnotices, hunacked])]

end

/-- Settles O12: the index, the ownership and what is left of the entry decide, in this order, and the release is the
entry's return to FREE. -/
theorem connReleaseFreesEnded : Obligations.ConnReleaseFreesEnded := by
  intro s r entry hs hr
  refine ⟨fun hout => ?_, fun e he => ⟨fun hown => ?_, fun hown hdone => ?_, fun hown hdone => ?_⟩⟩
  · exact congrArg _ (request_refuses hs hr (answerConnRelease_badArg hout))
  · exact congrArg _ (request_refuses hs hr (answerConnRelease_notOwner he (mt ownedBy_iff.1 hown)))
  · exact congrArg _ (request_refuses hs hr (answerConnRelease_badState he (ownedBy_iff.2 hown) hdone))
  · obtain ⟨hstate, hnotices, hunacked⟩ := hdone
    exact congrArg _ (request_serves (·.freeEntry e) hs hr
      (answerConnRelease_ok he (ownedBy_iff.2 hown) hstate hnotices hunacked) (by simp))

/-! ### CONN.QUERY -/

theorem answerConnQuery_badArg {entry : Byte} (s : State) (h : 31 < entry.toNat) :
    answerConnQuery entry s = .refuse .badArg s := by
  simp [answerConnQuery, entryArg_of_lt h]

theorem answerConnQuery_ok {entry : Byte} {e : EntryIdx} (s : State) (he : entry.toNat = e.val) :
    answerConnQuery entry s = .ok (s.entry e).report s := by
  simp [answerConnQuery, entryArg_of_eq he]

/-- R201: the 23 bytes of the entry report, one by one. -/
theorem report_eq (c : ConnEntry) :
    c.report =
      [byte c.state.code, (c.owner.map fun p => byte p.val).getD 0xFF, c.reportFlags, c.remoteStation.getD 0,
        c.remoteIndex.getD 0xFF, c.service.getD 0, byte (c.window.getD 0), byte ((c.priority.map Fin.val).getD 0),
        byte (c.retryLimit.getD 0), byte (c.answerTime.getD 0), byte (c.answerTime.getD 0 / 256), c.vs.setWidth 8,
        c.va.setWidth 8, c.vr.setWidth 8, byte c.retryCount, byte (c.answerTimer.getD 0),
        byte (c.answerTimer.getD 0 / 256), byte c.controlDue.code, byte c.sendQueue.length, byte c.unacked.length,
        byte (c.unacked.filter (·.needsTx)).length, byte c.notices.length,
        byte ((c.endReason.map EndReason.code).getD 0)] := by
  simp only [ConnEntry.report, twoBytes_eq, List.cons_append, List.nil_append]

/-- A flag is bit 0 of its byte. -/
theorem flagByte_getElem (b : Bool) (i : Nat) (h : i < 8) : (flagByte b)[i] = (decide (i = 0) && b) := by
  cases b <;> simp [flagByte, BitVec.getElem_one]

/-- R201, byte 2: a flag shifted to its place stands in that bit alone. -/
theorem reportFlags_bits (c : ConnEntry) :
    (List.range 8).map c.reportFlags.getLsbD =
      [c.orphan, c.flags.peerWaiting, c.flags.hostHold, c.flags.starved, c.flags.busyAnnounced, c.closeTimedOut,
        c.closeFinished, false] := by
  simp [List.range_succ, ConnEntry.reportFlags, flagByte_getElem]

/-- Settles O13: the report is that of `report_eq`, whoever asks, and the part at the rise of select is left as it is. -/
theorem connQueryReports : Obligations.ConnQueryReports := by
  refine ⟨⟨rfl, rfl, rfl⟩, fun s r entry hs hr => ⟨fun hout => ?_, fun e he => ⟨?_, ?_⟩⟩⟩
  · exact congrArg _ (request_refuses hs hr (answerConnQuery_badArg _ hout))
  · exact congrArg _ (request_serves id hs hr (answerConnQuery_ok _ he) (by simp))
  · rw [report_eq]
    exact ⟨rfl, rfl, rfl, rfl, rfl, rfl, rfl, reportFlags_bits _⟩

/-! ### CONN.OPEN -/

/-- R66: the arguments of CONN.OPEN are in range, for a part whose own station is `own`. -/
def OpenArgsOk (own station window priority retryLimit : Byte) (answerTime : Half) : Prop :=
  1 ≤ station.toNat ∧ station.toNat ≤ 62 ∧ station ≠ own ∧ 1 ≤ window.toNat ∧ window.toNat ≤ 4 ∧
    priority.toNat ≤ 3 ∧ 1 ≤ retryLimit.toNat ∧ retryLimit.toNat ≤ 15 ∧ 5 ≤ answerTime.toNat ∧ answerTime.toNat ≤ 4095

/-- The ranges are those of the priority and of the check that CONN.OPEN makes after it. -/
theorem openArgsOk_iff {own station window priority retryLimit : Byte} {answerTime : Half} :
    OpenArgsOk own station window priority retryLimit answerTime ↔ priority.toNat ≤ 3 ∧
      (isStation station && station ≠ own && linkArgs window retryLimit answerTime) = true := by
  simp only [OpenArgsOk, isStation, linkArgs, within, Bool.and_eq_true, decide_eq_true_eq]
  tauto

theorem OpenArgsOk.exists_priority {own station window priority retryLimit : Byte} {answerTime : Half}
    (h : OpenArgsOk own station window priority retryLimit answerTime) : ∃ pr : Fin 4, priority.toNat = pr.val :=
  ⟨⟨priority.toNat, Nat.lt_succ_of_le (openArgsOk_iff.1 h).1⟩, rfl⟩

theorem takesOpen_iff {l : LineState} : l.takesOpen = true ↔ l = .waiting ∨ l = .holding ∨ l = .handing := by
  cases l <;> simp [LineState.takesOpen]

section
variable {p : Port} {service station window priority retryLimit : Byte} {answerTime : Half} {s : State}

theorem answerConnOpen_badArg (h : ¬ OpenArgsOk s.config.station station window priority retryLimit answerTime) :
    answerConnOpen p service station window priority retryLimit answerTime s = .refuse .badArg s := by
  rw [openArgsOk_iff, not_and_or, Bool.not_eq_true] at h
  rcases h with hpriority | hguard
  · simp only [answerConnOpen, priorityArg, indexArg_of_le (Nat.lt_of_not_le hpriority)]
  · simp only [answerConnOpen, hguard, Bool.not_false, if_true]
    cases priorityArg priority <;> rfl

/-- With the arguments in range, the line engine's state and the FREE entries decide. -/
theorem answerConnOpen_inRange {pr : Fin 4} (hpr : priority.toNat = pr.val)
    (h : OpenArgsOk s.config.station station window priority retryLimit answerTime) :
    answerConnOpen p service station window priority retryLimit answerTime s =
      if s.turn.engine.takesOpen then
        (s.lowestFree.elim (.refuse .tableFull s) fun e =>
          .ok [byte e.val]
            (s.setEntry e
              (ConnEntry.opening p service station window.toNat pr retryLimit.toNat answerTime.toNat)).schedule)
      else .refuse .offline s := by
  have hguard := (openArgsOk_iff.1 h).2
  simp only [answerConnOpen, priorityArg, indexArg_of_eq hpr, hguard, Bool.not_true, Bool.false_eq_true, if_false]
  cases s.turn.engine.takesOpen <;> cases s.lowestFree <;> rfl

/-- R66: OFFLINE comes before the search for an entry. -/
theorem answerConnOpen_offline (h : OpenArgsOk s.config.station station window priority retryLimit answerTime)
    (hoff : ¬ s.turn.engine.takesOpen = true) :
    answerConnOpen p service station window priority retryLimit answerTime s = .refuse .offline s := by
  obtain ⟨pr, hpr⟩ := h.exists_priority
  rw [answerConnOpen_inRange hpr h, if_neg hoff]

/-- R66: no entry is FREE. -/
theorem answerConnOpen_tableFull (h : OpenArgsOk s.config.station station window priority retryLimit answerTime)
    (hon : s.turn.engine.takesOpen = true) (hfull : s.lowestFree = none) :
    answerConnOpen p service station window priority retryLimit answerTime s = .refuse .tableFull s := by
  obtain ⟨pr, hpr⟩ := h.exists_priority
  rw [answerConnOpen_inRange hpr h, if_pos hon, hfull, Option.elim_none]

/-- R66, R8: the lowest FREE entry is taken. -/
theorem answerConnOpen_ok {pr : Fin 4} {e : EntryIdx} (hpr : priority.toNat = pr.val)
    (h : OpenArgsOk s.config.station station window priority retryLimit answerTime)
    (hon : s.turn.engine.takesOpen = true) (hfree : s.lowestFree = some e) :
    answerConnOpen p service station window priority retryLimit answerTime s =
      .ok [byte e.val]
        (s.setEntry e
          (ConnEntry.opening p service station window.toNat pr retryLimit.toNat answerTime.toNat)).schedule := by
  rw [answerConnOpen_inRange hpr h, if_pos hon, hfree, Option.elim_some]

end

/-- Settles O7: the ranges, the line engine's state and the lowest FREE entry decide, in this order. -/
theorem connOpenTakesLowestFree : Obligations.ConnOpenTakesLowestFree := by
  intro s r service station window priority retryLimit answerTime hs hr
  refine ⟨fun hout => ?_, fun hargs hoff => ?_, fun hargs hon hfull => ?_, fun hargs hon e pr hfree hlow hpr => ?_⟩
  · exact congrArg _ (request_refuses hs hr (answerConnOpen_badArg hout))
  · exact congrArg _ (request_refuses hs hr (answerConnOpen_offline hargs (by rwa [takesOpen_iff])))
  · exact congrArg _ (request_refuses hs hr
      (answerConnOpen_tableFull hargs (takesOpen_iff.2 hon) (lowestFree_none.2 hfull)))
  · exact congrArg _ (request_serves
      (fun t => (t.setEntry e (ConnEntry.opening r.port service station window.toNat pr retryLimit.toNat
        answerTime.toNat)).schedule) hs hr
      (answerConnOpen_ok hpr hargs (takesOpen_iff.2 hon) (lowestFree_some.2 ⟨hfree, hlow⟩)) (by simp))

end Sys2Proof.Machine
end

section
/-! The buffer requests BUF.GET, BUF.WRITE and BUF.READ: the allocation test as the manual writes it, the span of a
buffer that a request names, and what a store changes. -/

namespace Sys2Proof.Machine

/-! ### BUF.GET -/

/-- R85: the test as the manual writes it, with the spare count as a difference that may be negative. -/
theorem canAllocate_iff {pool : Pool} {p : Port} :
    pool.canAllocate p = true ↔ (pool.account p).charge < (pool.account p).reserve ∨
      ((pool.account p).charge < (pool.account p).limit ∧
        1 ≤ (pool.freeList.length : Int) - pool.unusedOthers p) := by
  have hspare : 1 ≤ (pool.freeList.length : Int) - pool.unusedOthers p ↔
      pool.unusedOthers p + 1 ≤ pool.freeList.length := by omega
  simp [Pool.canAllocate, hspare]

/-- The pool after port `p` took buffer `h`, the free list's head before `tail`. -/
def Pool.taken (pool : Pool) (p : Port) (h : Handle) (tail : List Handle) : Pool :=
  { pool with
    freeList := tail
    accounts :=
      put pool.accounts p
        { pool.account p with
          charge := (pool.account p).charge + 1, held := insertHandle h (pool.account p).held } }

/-- R89: allowed, the request charges the head of the free list and puts it into the held set. -/
theorem answerBufGet_ok {p : Port} {s : State} {h : Handle} {tail : List Handle} (hfree : s.pool.freeList = h :: tail)
    (hallowed : s.pool.canAllocate p = true) :
    answerBufGet p s = .ok [byte h.val] (s.withPool (s.pool.taken p h tail)) := by
  simp [answerBufGet, allocate_cons hfree hallowed, Pool.hold, Pool.modAccount, Pool.account, Pool.taken]

theorem answerBufGet_noBuffer {p : Port} {s : State} (hnot : ¬ s.pool.canAllocate p = true) :
    answerBufGet p s = .refuse .noBuffer s := by
  simp [answerBufGet, allocate_none (Bool.eq_false_iff.2 hnot)]

/-- Settles O3: R85's test decides, and the buffer given is the head of the free list. -/
theorem bufGetTakesTheHead : Obligations.BufGetTakesTheHead := by
  intro s r hs hr
  refine ⟨fun h tail hfree hallowed => ?_, fun hnot => ?_⟩
  · exact congrArg _ (request_serves (fun t => t.withPool (s.pool.taken r.port h tail)) hs hr
      (answerBufGet_ok hfree (canAllocate_iff.2 hallowed)) (by simp))
  · exact congrArg _ (request_refuses hs hr (answerBufGet_noBuffer (mt canAllocate_iff.1 hnot)))

/-! ### The span of a held buffer -/

theorem handleArg_of_eq {b : Byte} {h : Handle} (hb : b.toNat = h.val) : handleArg b = some h := indexArg_of_eq hb

theorem handleArg_of_lt {b : Byte} (hb : 191 < b.toNat) : handleArg b = none := indexArg_of_le hb

theorem holds_iff {pool : Pool} {p : Port} {h : Handle} : pool.holds p h = true ↔ h ∈ (pool.account p).held := by
  simp [Pool.holds]

/-- R91, R92: the ranges of an offset and a count. -/
theorem spanArg_iff {offset count : Byte} :
    spanArg offset count = true ↔ offset.toNat ≤ 239 ∧ 1 ≤ count.toNat ∧ count.toNat ≤ 64 ∧
      offset.toNat + count.toNat ≤ 240 := by
  simp [spanArg, within, and_assoc]

/-- The checks of BUF.WRITE after its handle: the span is in range and the data bytes are as many as the count. -/
theorem writeArgs_iff {offset count : Byte} {data : List Byte} :
    (spanArg offset count && decide (data.length = count.toNat)) = true ↔
      offset.toNat ≤ 239 ∧ 1 ≤ count.toNat ∧ count.toNat ≤ 64 ∧ offset.toNat + count.toNat ≤ 240 ∧
        data.length = count.toNat := by
  simp [spanArg_iff, and_assoc]

/-- What BUF.WRITE and BUF.READ share: `serve` answers for the buffer that `handle` names, if it is in the pool, the
other arguments are in range and the port holds it. -/
def withHeldBuffer (p : Port) (handle : Byte) (inRange : Bool) (s : State) (serve : Handle → Answer) : Answer :=
  match handleArg handle with
  | none => .refuse .badArg s
  | some h =>
    if !inRange then .refuse .badArg s else if s.pool.holds p h then serve h else .refuse .badHandle s

theorem answerBufWrite_eq (p : Port) (handle offset count : Byte) (data : List Byte) (s : State) :
    answerBufWrite p handle offset count data s =
      withHeldBuffer p handle (spanArg offset count && decide (data.length = count.toNat)) s fun h =>
        .ok [] (s.withPool (s.pool.store h offset.toNat data)) := rfl

theorem answerBufRead_eq (p : Port) (handle offset count : Byte) (s : State) :
    answerBufRead p handle offset count s =
      withHeldBuffer p handle (spanArg offset count) s fun h =>
        .ok (s.pool.bytesAt h offset.toNat count.toNat) s := rfl

section
variable {p : Port} {handle : Byte} {inRange : Bool} {s : State} {serve : Handle → Answer} {h : Handle}

theorem withHeldBuffer_badArg (hout : ¬ (handle.toNat ≤ 191 ∧ inRange = true)) :
    withHeldBuffer p handle inRange s serve = .refuse .badArg s := by
  rcases not_and_or.1 hout with hhandle | hrange
  · simp [withHeldBuffer, handleArg_of_lt (Nat.lt_of_not_le hhandle)]
  · simp only [withHeldBuffer, hrange, Bool.not_false, if_true]
    cases handleArg handle <;> rfl

theorem withHeldBuffer_badHandle (hh : handle.toNat = h.val) (hin : inRange = true)
    (hnot : h ∉ (s.pool.account p).held) : withHeldBuffer p handle inRange s serve = .refuse .badHandle s := by
  simp [withHeldBuffer, handleArg_of_eq hh, hin, mt holds_iff.1 hnot]

theorem withHeldBuffer_held (hh : handle.toNat = h.val) (hin : inRange = true) (hheld : h ∈ (s.pool.account p).held) :
    withHeldBuffer p handle inRange s serve = serve h := by
  simp [withHeldBuffer, handleArg_of_eq hh, hin, holds_iff.2 hheld]

end

/-! ### BUF.WRITE and BUF.READ -/

/-- R80: the buffers do not overlap, so an address is in a span inside a buffer exactly if it is of that buffer and its
offset is in the span. -/
theorem bufferAddress_mem_span {h k : Handle} {offset n i : Nat} (hi : i < 240) (hn : offset + n ≤ 240) :
    (bufferAddress h offset ≤ bufferAddress k i ∧ bufferAddress k i < bufferAddress h offset + n) ↔
      k = h ∧ offset ≤ i ∧ i < offset + n := by
  rw [Fin.ext_iff]
  simp only [bufferAddress, Config.bufferBytes]
  omega

/-- R91: a store that stays inside its buffer replaces the bytes of its span and no other. -/
theorem store_byteAt {pool : Pool} (w : pool.mem.wf = true) (h k : Handle) {offset i : Nat} {bytes : List Byte}
    (hi : i < 240) (hn : offset + bytes.length ≤ 240) :
    (pool.store h offset bytes).byteAt k i =
      if k = h ∧ offset ≤ i ∧ i < offset + bytes.length then bytes[i - offset]?.getD 0 else pool.byteAt k i := by
  simp only [Pool.store, Pool.byteAt, read_writeAll w, bufferAddress_mem_span hi hn]
  refine if_ctx_congr Iff.rfl (fun hspan => ?_) fun _ => rfl
  obtain ⟨rfl, -, -⟩ := hspan
  rw [bufferAddress, bufferAddress, Nat.add_sub_add_left]

/-- Settles O6: the ranges and then the held set decide; the store is that of `store_byteAt` and the bytes read are
those of `bytesAt_eq`. -/
theorem bufWriteAndBufReadUseTheirSpan : Obligations.BufWriteAndBufReadUseTheirSpan := by
  constructor
  · intro s r handle offset count hs
    refine ⟨fun hout => ?_, fun h hh ⟨_, hargs⟩ => ⟨fun hnot => ?_, fun hheld => ⟨?_, ?_⟩⟩⟩
    · rw [← writeArgs_iff] at hout
      exact congrArg _ (requestWithData_refuses hs ((answerBufWrite_eq ..).trans (withHeldBuffer_badArg hout)))
    · exact congrArg _ (requestWithData_refuses hs
        ((answerBufWrite_eq ..).trans (withHeldBuffer_badHandle hh (writeArgs_iff.2 hargs) hnot)))
    · exact congrArg _ (requestWithData_serves (fun t => t.withPool (s.pool.store h offset.toNat r.rest)) hs
        ((answerBufWrite_eq ..).trans (withHeldBuffer_held hh (writeArgs_iff.2 hargs) hheld)) (by simp))
    · obtain ⟨-, -, -, hspan, hlength⟩ := hargs
      rw [← hlength] at hspan ⊢
      exact fun w k i hi => store_byteAt w h k hi hspan
  · intro s r handle offset count hs hr
    refine ⟨fun hout => ?_, fun h hh ⟨_, hargs⟩ => ⟨fun hnot => ?_, fun hheld => ?_⟩⟩
    · rw [← spanArg_iff] at hout
      exact congrArg _ (request_refuses hs hr ((answerBufRead_eq ..).trans (withHeldBuffer_badArg hout)))
    · exact congrArg _ (request_refuses hs hr
        ((answerBufRead_eq ..).trans (withHeldBuffer_badHandle hh (spanArg_iff.2 hargs) hnot)))
    · rw [← bytesAt_eq]
      exact congrArg _ (request_serves id hs hr
        ((answerBufRead_eq ..).trans (withHeldBuffer_held hh (spanArg_iff.2 hargs) hheld)) (by simp))

end Sys2Proof.Machine
end

section
/-! The frame start: what the turn controller makes of it in each state of the line engine, and the end of a handover with
success. -/

namespace Sys2Proof.Machine

/-- R130: the handover that runs is a probe of `a`, whose record is SILENT. -/
def TurnController.ProbesSilent (t : TurnController) (a : Byte) : Prop :=
  t.kind = some .probe ∧ t.target = some a ∧ t.isSilent a = true

/-- R125, R130: the part waits, and no handover runs. -/
def State.handedOver (s : State) : State := (s.withTurn s.turn.noHandover).enterWaiting

theorem isSilent_iff {t : TurnController} {a : Byte} :
    t.isSilent a = true ↔ ∃ x ∈ t.list, x.address = a ∧ x.present = false := by
  simp [TurnController.isSilent]

/-! ### The end of a handover with success (R130) -/

section
variable {s : State}

theorem handoverSuccess_probesSilent {a : Byte} (h : s.turn.ProbesSilent a) :
    s.handoverSuccess = (s.handedOver.withTurn (s.handedOver.turn.mark a true)).lineEvent (.stationPresent a) := by
  obtain ⟨hkind, htarget, hsilent⟩ := h
  simp only [State.handoverSuccess, hkind, htarget, hsilent, if_true, State.handedOver]

theorem handoverSuccess_other (h : ∀ a, ¬ s.turn.ProbesSilent a) : s.handoverSuccess = s.handedOver := by
  unfold State.handoverSuccess
  split
  · next a hkind htarget => exact if_neg fun hsilent => h a ⟨hkind, htarget, hsilent⟩
  · rfl

theorem handoverSuccess_line : s.handoverSuccess.line = s.line := by
  by_cases h : ∃ a, s.turn.ProbesSilent a
  · obtain ⟨a, ha⟩ := h
    rw [handoverSuccess_probesSilent ha]
    exact (lineEvent_aside _ _).line
  · rw [handoverSuccess_other (not_exists.1 h)]
    rfl

/-! ### The turn controller at a frame start (R159) -/

theorem turnFrameStart_waiting (h : s.turn.engine = .waiting) :
    s.turnFrameStart = s.withTurn { s.turn with lostTimer := some s.config.lostTime } := by
  simp only [State.turnFrameStart, h]

theorem turnFrameStart_handing (h : s.turn.engine = .handing) (hrun : s.turn.responseTimer ≠ none) :
    s.turnFrameStart = s.handoverSuccess := by
  simp only [State.turnFrameStart, h, Option.isSome_iff_ne_none.2 hrun, if_true]

/-- R159: OFFLINE, HOLDING and STOPPING take no frame start, and neither does HANDING before its TURN has ended. -/
theorem turnFrameStart_other
    (h : s.turn.engine = .offline ∨ s.turn.engine = .holding ∨ s.turn.engine = .stopping ∨
      (s.turn.engine = .handing ∧ s.turn.responseTimer = none)) : s.turnFrameStart = s := by
  rcases h with h | h | h | ⟨h, hstopped⟩
  · simp only [State.turnFrameStart, h]
  · simp only [State.turnFrameStart, h]
  · simp only [State.turnFrameStart, h]
  · simp [State.turnFrameStart, h, hstopped]

/-- The turn controller leaves the line interface as it is. -/
theorem turnFrameStart_line : s.turnFrameStart.line = s.line := by
  unfold State.turnFrameStart
  split
  · rfl
  · split
    · exact handoverSuccess_line
    · rfl
  all_goals rfl

/-! ### The command -/

/-- R157, R159: while frames are reported and none is being received, the turn controller takes the frame start and the
reception begins. -/
theorem exec_frameStart (hreset : s.resetLow = false) (htx : s.sched.tx = none) (hline : s.line.ignoring = false)
    (hidle : s.line.receiving = false) :
    exec .frameStart s = .next { s.turnFrameStart with line := { s.line with receiving := true } } := by
  have hhears : (s.deaf || s.line.receiving) = false := by simp [State.deaf, hreset, htx, hline, hidle]
  have hstarts : exec .frameStart s = .next s.frameStarts := if_neg (Bool.eq_false_iff.1 hhears)
  rw [hstarts, State.frameStarts, turnFrameStart_line]

end

/-- Settles O34: the reception begins after what the turn controller makes of the frame start in its state. -/
theorem frameStartByLineState : Obligations.FrameStartByLineState := by
  intro s hreset htx hline hidle
  dsimp only
  simp only [exec_frameStart hreset htx hline hidle, ← isSilent_iff]
  refine ⟨fun h => ?_, fun h hrun a hprobe => ?_, fun h hrun hnone => ?_, fun h => ?_⟩
  · rw [turnFrameStart_waiting h]
    rfl
  · rw [turnFrameStart_handing h hrun, handoverSuccess_probesSilent hprobe]
    rfl
  · rw [turnFrameStart_handing h hrun, handoverSuccess_other hnone]
    rfl
  · rw [turnFrameStart_other h]

end Sys2Proof.Machine
end

section
/-! The configuration requests CFG.TAKE, CFG.PASS, CFG.LINE and CFG.READ: who holds the right, the ranges of the seven
line parameters, what a change of the bit rate does to a reception, and the configuration report. -/

namespace Sys2Proof.Machine

/-- A block's OK whose effect leaves the host ports as they are. -/
theorem request_serves_keepingPorts {s : State} {r : Req} {code : Byte} {args results : List Byte}
    {handle : State → Answer} (f : State → State) (h : s.hears r.port = true) (hr : r.rest = [])
    (hh : handle (s.taking r.port ([code, r.tag] ++ args ++ r.rest)) =
      Answer.ok results (f (s.taking r.port ([code, r.tag] ++ args ++ r.rest))))
    (hports : ∀ t, (f t).ports = t.ports) : s.request r code args handle = s.served r code args .ok results f := by
  refine request_serves f h hr hh ?_
  rw [State.port, hports, ← State.port, taking_transaction]
  nofun

/-! ### The configuration right (R188, R189) -/

theorem hasRight_iff {s : State} {p : Port} : s.hasRight p = true ↔ s.config.rightHolder = some p := by
  simp [State.hasRight]

section
variable {s : State} {p q : Port} {heir : Byte}

theorem answerCfgTake_free (h : s.config.rightHolder = none) :
    answerCfgTake p s = .ok [0] { s with config := { s.config with rightHolder := some p } } := by
  simp only [answerCfgTake, h]
  rfl

theorem answerCfgTake_held (h : s.config.rightHolder = some p) : answerCfgTake p s = .ok [1] s := by
  simp only [answerCfgTake, h, if_true]
  rfl

theorem answerCfgTake_noRight (h : s.config.rightHolder = some q) (hq : q ≠ p) :
    answerCfgTake p s = .refuse .noRight s := by
  simp only [answerCfgTake, h, if_neg hq]

theorem portArg_of_eq (h : heir.toNat = q.val) : portArg heir = some q := indexArg_of_eq h

theorem portArg_of_lt (h : 3 < heir.toNat) : portArg heir = none := indexArg_of_le h

theorem answerCfgPass_badArg (h : 3 < heir.toNat) : answerCfgPass p heir s = .refuse .badArg s := by
  simp only [answerCfgPass, portArg_of_lt h]

theorem answerCfgPass_noRight (h : heir.toNat = q.val) (hright : ¬ s.hasRight p = true) :
    answerCfgPass p heir s = .refuse .noRight s := by
  simp [answerCfgPass, portArg_of_eq h, hright]

theorem answerCfgPass_ok (h : heir.toNat = q.val) (hright : s.hasRight p = true) :
    answerCfgPass p heir s = .ok [] { s with config := { s.config with rightHolder := some q } } := by
  simp [answerCfgPass, portArg_of_eq h, hright]

end

/-- Settles O26: the holder of the right decides CFG.TAKE, and the heir and then the right decide CFG.PASS. -/
theorem configurationRightMoves : Obligations.ConfigurationRightMoves := by
  intro s r hs hr
  refine ⟨fun hfree => ?_, fun hheld => ?_, fun q hother hq => ?_, fun heir => ⟨fun hout => ?_, fun hin hright => ?_,
    fun q hheir hright => ?_⟩⟩
  · exact congrArg _ (request_serves_keepingPorts
      (fun t => { t with config := { s.config with rightHolder := some r.port } }) hs hr
      (answerCfgTake_free hfree) fun _ => rfl)
  · exact congrArg _ (request_serves_keepingPorts id hs hr (answerCfgTake_held hheld) fun _ => rfl)
  · exact congrArg _ (request_refuses hs hr (answerCfgTake_noRight hother hq))
  · exact congrArg _ (request_refuses hs hr (answerCfgPass_badArg hout))
  · exact congrArg _ (request_refuses hs hr
      (answerCfgPass_noRight (q := ⟨heir.toNat, Nat.lt_succ_of_le hin⟩) rfl (mt hasRight_iff.1 hright)))
  · exact congrArg _ (request_serves_keepingPorts
      (fun t => { t with config := { s.config with rightHolder := some q } }) hs hr
      (answerCfgPass_ok hheir (hasRight_iff.2 hright)) fun _ => rfl)

/-! ### The seven line parameters (R192) -/

theorem bitRateArg_of_code {b : Byte} {rate : BitRate} (h : rate.code = b.toNat) : bitRateArg b = some rate := by
  have hb : b = byte rate.code := BitVec.eq_of_toNat_eq (by simp [h])
  subst hb
  cases rate <;> rfl

theorem bitRateArg_of_lt {b : Byte} (h : 4 < b.toNat) : bitRateArg b = none := by
  have hne : ∀ c : Byte, c.toNat ≤ 4 → b ≠ c := by
    rintro c hc rfl
    omega
  simp only [bitRateArg, if_neg (hne 0 (by decide)), if_neg (hne 1 (by decide)), if_neg (hne 2 (by decide)),
    if_neg (hne 3 (by decide)), if_neg (hne 4 (by decide))]

/-- Every code 0 to 4 is a bit rate's. -/
theorem exists_bitRate_code {n : Nat} (h : n ≤ 4) : ∃ rate : BitRate, rate.code = n := by
  interval_cases n
  exacts [⟨.kbit250, rfl⟩, ⟨.kbit500, rfl⟩, ⟨.mbit1, rfl⟩, ⟨.mbit2, rfl⟩, ⟨.mbit4, rfl⟩]

/-- R192: the seven arguments of CFG.LINE are in range. -/
def LineArgsOk (bitRate turnResponse lostBase claimSlot turnBudget holdLimit probeInterval : Byte) : Prop :=
  bitRate.toNat ≤ 4 ∧ 2 ≤ turnResponse.toNat ∧ 1 ≤ lostBase.toNat ∧ 1 ≤ claimSlot.toNat ∧
    1 ≤ turnBudget.toNat ∧ turnBudget.toNat ≤ 32 ∧ 1 ≤ holdLimit.toNat ∧ 1 ≤ probeInterval.toNat

/-- For a byte, 255 is no upper bound. -/
theorem within_255 (low : Nat) (b : Byte) : within low 255 b.toNat = true ↔ low ≤ b.toNat := by
  simp [within, Nat.le_of_lt_succ b.isLt]

section
variable {bitRate turnResponse lostBase claimSlot turnBudget holdLimit probeInterval : Byte}

/-- The ranges are those of the bit rate and of the check that CFG.LINE makes after it. -/
theorem lineArgsOk_iff :
    LineArgsOk bitRate turnResponse lostBase claimSlot turnBudget holdLimit probeInterval ↔ bitRate.toNat ≤ 4 ∧
      (within 2 255 turnResponse.toNat && within 1 255 lostBase.toNat && within 1 255 claimSlot.toNat &&
        within 1 32 turnBudget.toNat && within 1 255 holdLimit.toNat && within 1 255 probeInterval.toNat) = true := by
  simp only [LineArgsOk, Bool.and_eq_true, within_255]
  simp only [within, Bool.and_eq_true, decide_eq_true_eq, and_assoc]

theorem lineParamsArg_none
    (h : ¬ LineArgsOk bitRate turnResponse lostBase claimSlot turnBudget holdLimit probeInterval) :
    lineParamsArg bitRate turnResponse lostBase claimSlot turnBudget holdLimit probeInterval = none := by
  rw [lineArgsOk_iff] at h
  by_cases hrate : bitRate.toNat ≤ 4
  · obtain ⟨rate, hcode⟩ := exists_bitRate_code hrate
    simp only [lineParamsArg, bitRateArg_of_code hcode, if_neg (not_and.1 h hrate)]
  · simp only [lineParamsArg, bitRateArg_of_lt (Nat.lt_of_not_le hrate)]

theorem lineParamsArg_some {rate : BitRate} (hcode : rate.code = bitRate.toNat)
    (h : LineArgsOk bitRate turnResponse lostBase claimSlot turnBudget holdLimit probeInterval) :
    lineParamsArg bitRate turnResponse lostBase claimSlot turnBudget holdLimit probeInterval =
      some
        { bitRate := rate, turnResponse := turnResponse.toNat, lostBase := lostBase.toNat,
          claimSlot := claimSlot.toNat, turnBudget := turnBudget.toNat, holdLimit := holdLimit.toNat,
          probeInterval := probeInterval.toNat } := by
  simp only [lineParamsArg, bitRateArg_of_code hcode, if_pos (lineArgsOk_iff.1 h).2]

theorem LineArgsOk.exists_params
    (h : LineArgsOk bitRate turnResponse lostBase claimSlot turnBudget holdLimit probeInterval) :
    ∃ l, lineParamsArg bitRate turnResponse lostBase claimSlot turnBudget holdLimit probeInterval = some l := by
  obtain ⟨rate, hcode⟩ := exists_bitRate_code (lineArgsOk_iff.1 h).1
  exact ⟨_, lineParamsArg_some hcode h⟩

end

/-! ### CFG.LINE -/

section
variable {s : State} {p : Port} {rate : BitRate} {params : Option LineParams} {l : LineParams}

/-- R192, log entry 7: the same bit rate, or no frame being received, leaves the line interface as it was. -/
theorem changeBitRate_keeps (h : rate = s.config.params.bitRate ∨ s.line.receiving = false) :
    s.changeBitRate rate = s := by
  unfold State.changeBitRate
  split
  · rfl
  · next hrate => simp [h.resolve_left hrate]

/-- R192: another bit rate abandons the frame being received, as one check error, and the line is ignored. -/
theorem changeBitRate_abandons (hrate : rate ≠ s.config.params.bitRate) (hrec : s.line.receiving = true) :
    s.changeBitRate rate =
      { s with line := { receiving := false, ignoring := true }, stats := s.stats.checkError } := by
  simp only [State.changeBitRate, if_neg hrate, abandonReception_eq, hrec, if_true]

theorem answerCfgLine_badArg (h : params = none) : answerCfgLine p params s = .refuse .badArg s := by
  subst h
  rfl

theorem answerCfgLine_noRight (h : params = some l) (hright : ¬ s.hasRight p = true) :
    answerCfgLine p params s = .refuse .noRight s := by
  simp [answerCfgLine, h, hright]

theorem answerCfgLine_badState (h : params = some l) (hright : s.hasRight p = true) (hon : s.turn.engine ≠ .offline) :
    answerCfgLine p params s = .refuse .badState s := by
  simp [answerCfgLine, h, hright, hon]

theorem answerCfgLine_ok (h : params = some l) (hright : s.hasRight p = true) (hoff : s.turn.engine = .offline) :
    answerCfgLine p params s =
      .ok [] { s.changeBitRate l.bitRate with config := { s.config with params := l } } := by
  simp [answerCfgLine, h, hright, hoff]

theorem answerCfgLine_keeps (h : params = some l) (hright : s.hasRight p = true) (hoff : s.turn.engine = .offline)
    (hkeeps : l.bitRate = s.config.params.bitRate ∨ s.line.receiving = false) :
    answerCfgLine p params s = .ok [] { s with config := { s.config with params := l } } := by
  rw [answerCfgLine_ok h hright hoff, changeBitRate_keeps hkeeps]

theorem answerCfgLine_abandons (h : params = some l) (hright : s.hasRight p = true) (hoff : s.turn.engine = .offline)
    (hrate : l.bitRate ≠ s.config.params.bitRate) (hrec : s.line.receiving = true) :
    answerCfgLine p params s =
      .ok []
        { s with
          config := { s.config with params := l }
          line := { receiving := false, ignoring := true }
          stats := s.stats.checkError } := by
  rw [answerCfgLine_ok h hright hoff, changeBitRate_abandons hrate hrec]

end

/-! ### CFG.READ (R193) -/

/-- A table of the four ports, value by value. -/
theorem toList_four {α : Type} (t : Vector α 4) : t.toList = [look t 0, look t 1, look t 2, look t 3] := by
  refine List.ext_getElem (by simp) fun i hi _ => ?_
  have hi4 : i < 4 := by simpa using hi
  interval_cases i <;> rfl

/-- R193, R200: the 17 bytes of the configuration report, one by one. -/
theorem answerCfgRead_ok (s : State) :
    answerCfgRead s = .ok
      [(s.config.rightHolder.map fun p => byte p.val).getD 0xFF, s.config.station, byte s.config.params.bitRate.code,
        byte s.config.params.turnResponse, byte s.config.params.lostBase, byte s.config.params.claimSlot,
        byte s.config.params.turnBudget, byte s.config.params.holdLimit, byte s.config.params.probeInterval,
        byte (s.account 0).reserve, byte (s.account 0).limit, byte (s.account 1).reserve, byte (s.account 1).limit,
        byte (s.account 2).reserve, byte (s.account 2).limit, byte (s.account 3).reserve,
        byte (s.account 3).limit] s := by
  rw [answerCfgRead, State.configReport, toList_four]
  rfl

/-- Settles O28: the ranges, the right and the line engine's state decide CFG.LINE in this order, then the bit rate and
the reception decide its effect; CFG.READ answers the report of `answerCfgRead_ok` to any port. -/
theorem cfgLineReplacesAndCfgReadReports : Obligations.CfgLineReplacesAndCfgReadReports := by
  refine ⟨rfl, fun s r hs hr => ⟨fun bitRate turnResponse lostBase claimSlot turnBudget holdLimit probeInterval =>
    ⟨fun hout => ?_, fun hargs hright => ?_, fun hargs hright hon => ?_, fun rate hargs hcode hright hoff =>
      ⟨fun hkeeps => ?_, fun hrate hrec => ?_⟩⟩, ?_⟩⟩
  · exact congrArg _ (request_refuses hs hr (answerCfgLine_badArg (lineParamsArg_none hout)))
  · obtain ⟨l, hl⟩ := LineArgsOk.exists_params hargs
    exact congrArg _ (request_refuses hs hr (answerCfgLine_noRight hl (mt hasRight_iff.1 hright)))
  · obtain ⟨l, hl⟩ := LineArgsOk.exists_params hargs
    exact congrArg _ (request_refuses hs hr (answerCfgLine_badState hl (hasRight_iff.2 hright) hon))
  · exact congrArg _ (request_serves_keepingPorts (fun t => { t with config := { s.config with params := _ } }) hs hr
      (answerCfgLine_keeps (lineParamsArg_some hcode hargs) (hasRight_iff.2 hright) hoff hkeeps)
      fun _ => rfl)
  · exact congrArg _ (request_serves_keepingPorts
      (fun t =>
        { t with
          config := { s.config with params := _ }
          line := { receiving := false, ignoring := true }
          stats := s.stats.checkError }) hs hr
      (answerCfgLine_abandons (lineParamsArg_some hcode hargs) (hasRight_iff.2 hright) hoff hrate hrec)
      fun _ => rfl)
  · exact congrArg _ (request_serves_keepingPorts id hs hr (answerCfgRead_ok _) fun _ => rfl)

end Sys2Proof.Machine
end

section
/-! What a step can do, said once: every step is a chain of the effects below, each with the facts that the command has
checked before it. The promises that every step keeps are then proved effect by effect. -/

namespace Sys2Proof.Machine

/-! ### The effects -/

/-- R99: a droppable event, which is neither a held notice nor an OVERFLOW record. -/
def EventBody.isDroppable : EventBody → Bool
  | .held _ _ | .overflow _ => false
  | _ => true

/-- A host's or a timer's change of an OPEN or DRAINING entry, which leaves its messages and notices alone. -/
structure ConnEntry.Tunes (c d : ConnEntry) : Prop where
  fields : d =
    { c with
      flags := d.flags, controlDue := d.controlDue, retryCount := d.retryCount, answerTimer := d.answerTimer
      answerPhase := d.answerPhase }
  controlDue : d.controlDue = c.controlDue ∨ d.controlDue = .sendAccept
  retryCount : d.retryCount = c.retryCount ∨ (d.retryCount = c.retryCount + 1 ∧ c.retryLimit ≠ some c.retryCount)
  answerTimer : d.answerTimer = c.answerTimer ∨ d.answerTimer = none

/-- R69, R60: the remote station and index that an entry takes are in range, and no other entry has them. -/
structure State.RemoteFree (s : State) (e : EntryIdx) (station index : Byte) : Prop where
  index_le : index.toNat ≤ 31
  free : ∀ k, k ≠ e → (s.entry k).state ≠ .free → (s.entry k).state ≠ .opening →
    (s.entry k).hasRemote station index = false

/-- One effect of a step, with what the command has checked. -/
inductive Effect (s : State) : State → Prop
  /-- The transaction of a port, its slot and its inputs. -/
  | transaction (p : Port) (ps : PortState) (hqueue : ps.queue = (s.port p).queue)
      (hfilters : ps.filters = (s.port p).filters) (hadmission : ps.admission = (s.port p).admission) :
      Effect s (s.setPort p ps)
  /-- R103: a droppable event is offered to a port. -/
  | offer (p : Port) (b : EventBody) (hb : b.isDroppable = true) : Effect s (s.setPort p ((s.port p).offer b))
  /-- R100: a LINE event is offered to every port. -/
  | lineEvent (c : LineCode) : Effect s (s.lineEvent c)
  /-- R102. -/
  | filter (p : Port) (k : FilterKind) (f : Filter) (h : ¬ (f = .drop ∧ k.isHeld = true)) :
      Effect s (s.setPort p { s.port p with filters := put (s.port p).filters k.slot f })
  /-- R110: records leave a queue. -/
  | fetch (p : Port) (n : Nat) : Effect s (s.takeRecords p n)
  /-- R107, R108: a notice is admitted. -/
  | admission (p : Port) (e : EntryIdx) (n : Notice) (rest : List Notice) (hroom : (s.port p).hasRoom = true)
      (howner : (s.entry e).owner = some p) (hnotices : (s.entry e).notices = n :: rest) :
      Effect s
        (((s.setEntry e { s.entry e with notices := rest }).modPort p fun ps =>
          { ps.takeIn (.held e n) with admission := e }).afterAdmission e (s.entry e) n)
  /-- R182, step 2. -/
  | resetEntry (p : Port) (e : EntryIdx) : Effect s (s.resetEntry p e)
  /-- R182, step 3. -/
  | resetQueue (p : Port) : Effect s (s.resetQueue p)
  /-- R182, step 4. -/
  | resetHeld (p : Port) : Effect s (s.resetHeld p)
  /-- R89. -/
  | getBuffer (p : Port) (h : Handle) (pool : Pool) (ha : s.pool.allocate p = some (h, pool)) :
      Effect s (s.withPool (pool.hold p h))
  /-- R90. -/
  | putBuffer (p : Port) (h : Handle) (hh : s.pool.holds p h = true) :
      Effect s ((s.withPool (s.pool.unhold p h)).release p h)
  /-- R91. -/
  | store (h : Handle) (offset : Nat) (bytes : List Byte) (hb : offset + bytes.length ≤ 240) :
      Effect s (s.withPool (s.pool.store h offset bytes))
  /-- R93. -/
  | quota (q : Port) (reserve limit : Nat) (hlimit : reserve ≤ limit ∧ limit ≤ 192)
      (hsum : (s.pool.withQuota q reserve limit).reserveTotal ≤ 192)
      (hlaw : (s.pool.withQuota q reserve limit).unusedTotal ≤ (s.pool.withQuota q reserve limit).freeList.length) :
      Effect s (s.withPool (s.pool.withQuota q reserve limit))
  /-- R191. -/
  | station (a : Byte) (hfree : s.turn.knows a = false) :
      Effect s { s with config := { s.config with station := a } }
  /-- What no promise speaks of. -/
  | aside (t : State) (hentries : t.entries = s.entries) (hports : t.ports = s.ports) (hpool : t.pool = s.pool)
      (hlisten : t.listen = s.listen) (hturn : t.turn = s.turn) (hsched : t.sched = s.sched)
      (hstation : t.config.station = s.config.station) : Effect s t
  /-- R56, R57, R59, R64. -/
  | listen (l : List ListenEntry) (hl : listenOk s.listen → listenOk l) : Effect s { s with listen := l }
  /-- R184. -/
  | reset : Effect s s.deviceReset
  /-- R66, R8. -/
  | openEntry (p : Port) (e : EntryIdx) (service station : Byte) (window : Nat) (pr : Fin 4) (limit time : Nat)
      (hfree : (s.entry e).state = .free) (hopen : s.turn.engine.takesOpen = true)
      (hwindow : 1 ≤ window ∧ window ≤ 4) (hlimit : 1 ≤ limit ∧ limit ≤ 15) (htime : 5 ≤ time ∧ time ≤ 4095) :
      Effect s (s.setEntry e (ConnEntry.opening p service station window pr limit time))
  /-- R25. -/
  | send (p : Port) (e : EntryIdx) (m : Msg) (howner : (s.entry e).owner = some p)
      (hopened : (s.entry e).state = .opened)
      (hroom : (s.entry e).sendQueue.length + (s.entry e).unacked.length < 16)
      (hheld : s.pool.holds p m.handle = true) :
      Effect s ((s.withPool (s.pool.unhold p m.handle)).setEntry e ((s.entry e).enqueue m).settleTimer)
  /-- R45, R48, R49, R62. -/
  | tune (e : EntryIdx) (d : ConnEntry) (hlive : (s.entry e).live = true) (hd : (s.entry e).Tunes d) :
      Effect s (s.setEntry e d)
  /-- R45 at an OPENING or CLOSING entry. -/
  | retry (e : EntryIdx) (d : ControlDue)
      (hstate : ((s.entry e).state = .opening ∧ d = .sendOpen) ∨ ((s.entry e).state = .closing ∧ d = .sendClose))
      (htimer : (s.entry e).answerTimer ≠ none) (hcount : (s.entry e).retryLimit ≠ some (s.entry e).retryCount) :
      Effect s (s.setEntry e { (s.entry e).retry with controlDue := d })
  /-- R13, R72. -/
  | abort (e : EntryIdx) (b : Bool) (hlive : (s.entry e).live = true) :
      Effect s ((s.setEntry e { s.entry e with aborted := b }).abortEntry e)
  /-- R11, R72. -/
  | drain (e : EntryIdx) (hopened : (s.entry e).state = .opened) :
      Effect s (s.setEntry e (s.entry e).toDraining.settleTimer.drained)
  /-- R17, R19, R72. -/
  | free (e : EntryIdx)
      (h : (s.entry e).state = .opening ∨
        ((s.entry e).state = .ended ∧ (s.entry e).notices = [] ∧ (s.entry e).unacked = [])) :
      Effect s (s.freeEntry e)
  /-- R15. -/
  | finish (e : EntryIdx) (r : EndReason) (h : (s.entry e).state = .opening ∨ (s.entry e).live = true) :
      Effect s (s.endEntry e r)
  /-- R69. -/
  | badAccept (e : EntryIdx) (index : Byte) (h : (s.entry e).state = .opening) :
      Effect s ((s.setEntry e { s.entry e with remoteIndex := some index }).endEntry e .protocol)
  /-- R69, R10. -/
  | toOpen (e : EntryIdx) (station index : Byte) (window : Nat) (h : (s.entry e).state = .opening)
      (hstation : (s.entry e).remoteStation = some station) (hremote : s.RemoteFree e station index)
      (hwindow : 1 ≤ window ∧ window ≤ (s.entry e).windowSize) :
      Effect s (s.setEntry e ((s.entry e).toOpen index window))
  /-- R9, R64. -/
  | accept (l : ListenEntry) (e : EntryIdx) (station index service : Byte) (window : Nat) (hl : l ∈ s.listen)
      (hfree : (s.entry e).state = .free) (hengine : s.turn.engine ≠ .offline ∧ s.turn.engine ≠ .stopping)
      (hremote : s.RemoteFree e station index) (hwindow : 1 ≤ window ∧ window ≤ 4) :
      Effect s ((s.setEntry e (ConnEntry.accepted l station index service window)).makeNotice e
        (.arrived station service))
  /-- R33. -/
  | transfer (e : EntryIdx) (f : Frame) (hlive : (s.entry e).live = true)
      (hpayload : f.kind = .data → f.payload.length ≤ 240) (htx : s.sched.tx = none) : Effect s (s.takeTransfer e f)
  /-- R14. -/
  | endExchange (e : EntryIdx) (timedOut : Bool) (h : (s.entry e).state = .closing)
      (hopen : (s.sched.tx = none ∧ (s.entry e).closeFinished = false) ∨ (s.entry e).answerTimer ≠ none) :
      Effect s (s.endCloseExchange e timedOut)
  /-- R153, step 1, and the record becomes absent. -/
  | sent (t : TxRecord) (htx : s.sched.tx = some t) : Effect s (s.originSent t).clearTx
  /-- R154, step 1, and the record becomes absent. -/
  | failed (t : TxRecord) (htx : s.sched.tx = some t) : Effect s (s.originFailed t).clearTx
  /-- R148 to R151. -/
  | start (c : Choice) (hengine : s.turn.engine = .holding) (htx : s.sched.tx = none) (hc : s.choose = some c) :
      Effect s (s.startChoice c)
  /-- R147. -/
  | offerStray (r : StrayReply) : Effect s (s.offerStray r)
  /-- The turn controller, in the same line engine state. -/
  | retime (tc : TurnController) (hengine : tc.engine = s.turn.engine)
      (hlist : turnListOk s.config.station s.turn.list → turnListOk s.config.station tc.list)
      (hresponse : tc.responseTimer ≠ none →
        s.turn.responseTimer ≠ none ∨ (s.turn.engine = .handing ∧ s.sched.tx = none)) : Effect s (s.withTurn tc)
  /-- R125. -/
  | toWaiting (tc : TurnController) (hengine : tc.engine = .waiting) (hlist : tc.list = s.turn.list)
      (hresponse : tc.responseTimer = none) (hquiet : s.sched.tx = none ∨ s.turn.engine = .offline) :
      Effect s (s.withTurn tc)
  /-- R126, R131. -/
  | toHolding (tc : TurnController) (hengine : tc.engine = .holding) (hlist : tc.list = s.turn.list)
      (hfrom : (s.turn.engine = .waiting ∧ tc.responseTimer = s.turn.responseTimer) ∨
        (s.turn.engine = .handing ∧ tc.responseTimer = none)) : Effect s (s.withTurn tc)
  /-- R139. -/
  | toStopping (tc : TurnController) (hengine : tc.engine = .stopping) (hlist : tc.list = s.turn.list)
      (hresponse : tc.responseTimer = none) (hfrom : s.turn.engine = .holding ∨ s.turn.engine = .handing)
      (hunused : ∀ e, (s.entry e).inUse = false) : Effect s (s.withTurn tc)
  /-- R129: a TURN starts. -/
  | sendTurn (tc : TurnController) (a : Byte) (hlist : tc.list = s.turn.list)
      (hengine : (tc.engine = .handing ∧ tc.responseTimer = none ∧
          (s.turn.engine = .holding ∨ s.turn.engine = .handing)) ∨
        (tc.engine = .stopping ∧ tc.responseTimer = s.turn.responseTimer ∧ s.turn.engine = .stopping))
      (hquiet : s.sched.tx = none ∨ s.turn.responseTimer ≠ none) : Effect s ((s.withTurn tc).sendTurn a)
  /-- R140. -/
  | offline (hquiet : s.sched.tx = none ∨ s.turn.engine = .waiting)
      (hunused : s.turn.engine = .stopping ∨ ∀ e, (s.entry e).inUse = false) : Effect s s.goOffline
  /-- One tick of every running timer. -/
  | countDown : Effect s s.countDown

/-- From `s` the part gets to `t` by a chain of effects. -/
def Becomes (s t : State) : Prop := Relation.ReflTransGen Effect s t

theorem Becomes.rfl {s : State} : Becomes s s := Relation.ReflTransGen.refl

theorem Becomes.trans {s t u : State} (h : Becomes s t) (k : Becomes t u) : Becomes s u :=
  Relation.ReflTransGen.trans h k

theorem Effect.becomes {s t : State} (h : Effect s t) : Becomes s t := Relation.ReflTransGen.single h

theorem Becomes.step {s t u : State} (h : Becomes s t) (k : Effect t u) : Becomes s u := h.trans k.becomes

/-- A promise that every effect keeps is kept by the chain. -/
theorem Becomes.keeps {P : State → Prop} (hP : ∀ s t, Effect s t → P s → P t) {s t : State} (h : Becomes s t) :
    P s → P t := by
  induction h with
  | refl => exact id
  | tail _ k ih => exact fun hs => hP _ _ k (ih hs)

theorem foldl_becomes {α : Type} {f : State → α → State} (h : ∀ s a, Becomes s (f s a)) (xs : List α) (s : State) :
    Becomes s (xs.foldl f s) := by
  induction xs generalizing s with
  | nil => exact Becomes.rfl
  | cons x xs ih => exact (h s x).trans (ih (f s x))

variable {s : State}

/-! ### Host transactions -/

/-- A port's change outside its event side. -/
theorem modPort_becomes {p : Port} {f : PortState → PortState}
    (h : (f (s.port p)).queue = (s.port p).queue ∧ (f (s.port p)).filters = (s.port p).filters ∧
      (f (s.port p)).admission = (s.port p).admission) : Becomes s (s.modPort p f) :=
  (Effect.transaction p _ h.1 h.2.1 h.2.2).becomes

theorem clock_fields (sdi : List Bool) (ps : PortState) :
    (ps.clock sdi).queue = ps.queue ∧ (ps.clock sdi).filters = ps.filters ∧
      (ps.clock sdi).admission = ps.admission := by
  unfold PortState.clock
  dsimp only
  split
  · exact ⟨rfl, rfl, rfl⟩
  · split
    · exact ⟨rfl, rfl, rfl⟩
    · split <;> exact ⟨rfl, rfl, rfl⟩

theorem clockNothing_fields (sdi : List Bool) (ps : PortState) :
    (ps.clockNothing sdi).queue = ps.queue ∧ (ps.clockNothing sdi).filters = ps.filters ∧
      (ps.clockNothing sdi).admission = ps.admission := by
  unfold PortState.clockNothing
  split <;> exact ⟨rfl, rfl, rfl⟩

theorem fall_eventSide (low : Bool) (ps : PortState) :
    (ps.fall low).queue = ps.queue ∧ (ps.fall low).filters = ps.filters ∧
      (ps.fall low).admission = ps.admission := by
  obtain ⟨-, -, -, -, -, hqueue, hfilters, hadmission⟩ := fall_fields low ps
  exact ⟨hqueue, hfilters, hadmission⟩

theorem fallAndClock_fields (low : Bool) (sdi : List Bool) (ps : PortState) :
    (ps.fallAndClock low sdi).queue = ps.queue ∧ (ps.fallAndClock low sdi).filters = ps.filters ∧
      (ps.fallAndClock low sdi).admission = ps.admission := by
  obtain ⟨hqueue, hfilters, hadmission⟩ := fall_eventSide low ps
  obtain ⟨hqueue', hfilters', hadmission'⟩ := clock_fields sdi (ps.fall low)
  unfold PortState.fallAndClock
  split
  · exact ⟨rfl, rfl, rfl⟩
  · split
    · exact ⟨hqueue, hfilters, hadmission⟩
    · exact ⟨hqueue'.trans hqueue, hfilters'.trans hfilters, hadmission'.trans hadmission⟩

/-- A transaction is what the port takes at its rise of select, and nothing else that a promise speaks of. -/
theorem transact_becomes {p : Port} {sdi : List Bool} {taken : State → State} (h : ∀ t, Becomes t (taken t)) :
    Becomes s (s.transact p sdi taken) := by
  unfold State.transact
  dsimp only
  split
  · exact Becomes.rfl
  · refine (modPort_becomes (p := p) (fall_eventSide s.resetLow (s.port p))).trans ?_
    split
    · exact ((modPort_becomes (clock_fields sdi _)).trans (h _)).trans (modPort_becomes ⟨rfl, rfl, rfl⟩)
    · exact (modPort_becomes (clockNothing_fields sdi _)).trans (modPort_becomes ⟨rfl, rfl, rfl⟩)

theorem answer_becomes {r : Req} {surplus : Bool} {handle : State → Answer}
    (h : ∀ t, Becomes t (handle t).after) : Becomes s (s.answer r surplus handle) := by
  unfold State.answer
  dsimp only
  refine Becomes.trans ?_ (modPort_becomes ⟨rfl, rfl, rfl⟩)
  split
  · exact Becomes.rfl
  · exact h s

/-- A request is what its block makes of the part. -/
theorem request_becomes {r : Req} {code : Byte} {args : List Byte} {handle : State → Answer}
    (h : ∀ t, Becomes t (handle t).after) : Becomes s (s.request r code args handle) :=
  transact_becomes fun _ => answer_becomes h

theorem requestWithData_becomes {r : Req} {code : Byte} {args : List Byte} {handle : State → Answer}
    (h : ∀ t, Becomes t (handle t).after) : Becomes s (s.requestWithData r code args handle) :=
  transact_becomes fun _ => answer_becomes h

/-! ### Events -/

theorem offer_becomes (p : Port) {b : EventBody} (hb : b.isDroppable = true) :
    Becomes s (s.modPort p (·.offer b)) := (Effect.offer p b hb).becomes

theorem entryEvent_becomes (e : EntryIdx) {b : EventBody} (hb : b.isDroppable = true) :
    Becomes s (s.entryEvent e b) := by
  rcases entryEvent_cases s e b with h | ⟨p, -, -, h⟩ <;> rw [h]
  · exact Becomes.rfl
  · exact offer_becomes p hb

theorem closedEvent_becomes (owner : Option Port) (e : EntryIdx) (timedOut : Bool) :
    Becomes s (s.closedEvent owner e timedOut) := by
  unfold State.closedEvent
  split
  · exact offer_becomes _ rfl
  · exact Becomes.rfl

theorem lineEvent_becomes (c : LineCode) : Becomes s (s.lineEvent c) := (Effect.lineEvent c).becomes

theorem admitOne_becomes (p : Port) : Becomes s (s.admitOne p) := by
  unfold State.admitOne
  dsimp only
  split
  · next hroom =>
    split
    · exact Becomes.rfl
    · next e he =>
      have howner := (roundRobin_some.1 he).1
      simp only [Bool.and_eq_true, decide_eq_true_eq] at howner
      split
      · exact Becomes.rfl
      · next n rest hnotices => exact (Effect.admission p e n rest hroom howner.1 hnotices).becomes
  · exact Becomes.rfl

theorem admitRun_becomes (p : Port) (k : Nat) : Becomes s (s.admitRun p k) := by
  induction k generalizing s with
  | zero => exact Becomes.rfl
  | succ k ih => exact (admitOne_becomes p).trans ih

theorem runArbiter_becomes (p : Port) : Becomes s (s.runArbiter p) := admitRun_becomes p _

/-! ### The turn and the scheduler -/

/-- A change of the turn controller's counters, its hold and lost timers and its handover. -/
theorem withTurn_becomes {tc : TurnController} (hengine : tc.engine = s.turn.engine) (hlist : tc.list = s.turn.list)
    (hresponse : tc.responseTimer = s.turn.responseTimer ∨ tc.responseTimer = none) : Becomes s (s.withTurn tc) := by
  refine (Effect.retime tc hengine (by rw [hlist]; exact id) fun h => .inl ?_).becomes
  rcases hresponse with hr | hr
  · rwa [hr] at h
  · exact absurd hr h

theorem mark_ok {own station : Byte} {present : Bool} {t : TurnController} (h : turnListOk own t.list) :
    turnListOk own (t.mark station present).list := by
  have haddress : ∀ r : Station,
      (if r.address = station then { r with present := present } else r).address = r.address := fun r => by
    split <;> rfl
  obtain ⟨hsorted, hrange, hlength⟩ := h
  refine ⟨?_, ?_, by simpa [TurnController.mark] using hlength⟩
  · rw [TurnController.mark, List.pairwise_map]
    simpa only [haddress] using hsorted
  · intro r hr
    obtain ⟨q, hq, rfl⟩ := List.mem_map.1 hr
    simpa only [haddress] using hrange q hq

/-- R118, R131, R134: a station's status changes. -/
theorem mark_becomes (station : Byte) (present : Bool) : Becomes s (s.withTurn (s.turn.mark station present)) :=
  (Effect.retime (s.turn.mark station present) rfl mark_ok fun h => .inl h).becomes

theorem beginHandover_becomes (k : HandoverKind) (a : Byte)
    (hengine : s.turn.engine = .holding ∨ s.turn.engine = .handing)
    (hquiet : s.sched.tx = none ∨ s.turn.responseTimer ≠ none) : Becomes s (s.beginHandover k a) :=
  (Effect.sendTurn
    { s.turn with
      engine := .handing, target := some a, kind := some k, attempt := some 1, holdTimer := none,
      responseTimer := none } a rfl (.inl ⟨rfl, rfl, hengine⟩) hquiet).becomes

theorem beginProbe_becomes (a : Byte) (hengine : s.turn.engine = .holding ∨ s.turn.engine = .handing)
    (hquiet : s.sched.tx = none ∨ s.turn.responseTimer ≠ none) : Becomes s (s.beginProbe a) :=
  (withTurn_becomes (tc := { s.turn with probeCursor := a, rotation := 0 }) rfl rfl (.inl rfl)).trans
    (beginHandover_becomes .probe a hengine hquiet)

theorem endTurn_becomes (hengine : s.turn.engine = .holding) (htx : s.sched.tx = none) : Becomes s s.endTurn := by
  rcases endTurn_cases s with h | ⟨a, h⟩ | ⟨a, h⟩ <;> rw [h]
  · exact Becomes.rfl
  · exact beginProbe_becomes a (.inl hengine) (.inl htx)
  · exact beginHandover_becomes .normal a (.inl hengine) (.inl htx)

theorem renewSoleTurn_becomes (hengine : s.turn.engine = .holding) (htx : s.sched.tx = none) :
    Becomes s s.renewSoleTurn := by
  unfold State.renewSoleTurn
  split
  · exact beginProbe_becomes _ (.inl hengine) (.inl htx)
  · exact withTurn_becomes (tc := { s.turn with frameCount := 0, holdTimer := some s.config.holdTime }) rfl rfl
      (.inl rfl)

/-- R144: the line is offered in HOLDING with no frame on it, and with budget and time left. -/
theorem offered_iff :
    s.offered = true ↔ s.turn.engine = .holding ∧ s.sched.tx = none ∧
      s.turn.frameCount < s.config.params.turnBudget ∧ s.turn.holdTimer.isSome = true := by
  simp [State.offered, and_assoc]

theorem schedule_becomes : Becomes s s.schedule := by
  rcases schedule_cases s with ⟨-, h⟩ | ⟨ho, -, -, h⟩ | ⟨c, ho, hc, h⟩ <;> rw [h]
  · exact Becomes.rfl
  · obtain ⟨hengine, htx, -⟩ := offered_iff.1 ho
    exact endTurn_becomes hengine htx
  · obtain ⟨hengine, htx, -⟩ := offered_iff.1 ho
    exact (Effect.start c hengine htx hc).becomes


/-! ### The requests -/

theorem refuse_becomes (st : Status) : Becomes s (Answer.refuse st s).after := Becomes.rfl

theorem answerBufGet_becomes (p : Port) : Becomes s (answerBufGet p s).after := by
  unfold answerBufGet
  split
  · next h pool ha => exact (Effect.getBuffer p h pool ha).becomes
  · exact Becomes.rfl

theorem answerBufPut_becomes (p : Port) (handle : Byte) : Becomes s (answerBufPut p handle s).after := by
  unfold answerBufPut
  split
  · exact Becomes.rfl
  · next h _ =>
    split
    · next hh => exact (Effect.putBuffer p h hh).becomes.trans schedule_becomes
    · exact Becomes.rfl

theorem answerBufWrite_becomes (p : Port) (handle offset count : Byte) (data : List Byte) :
    Becomes s (answerBufWrite p handle offset count data s).after := by
  unfold answerBufWrite
  split
  · exact Becomes.rfl
  · next h _ =>
    split
    · exact Becomes.rfl
    · next hargs =>
      obtain ⟨-, -, -, hspan, hlength⟩ := writeArgs_iff.1 (by simpa only [Bool.not_eq_true', Bool.not_eq_false] using hargs)
      split
      · exact (Effect.store h offset.toNat data (by omega)).becomes
      · exact Becomes.rfl

theorem answerBufRead_becomes (p : Port) (handle offset count : Byte) :
    Becomes s (answerBufRead p handle offset count s).after := by
  unfold answerBufRead
  split
  · exact Becomes.rfl
  · split
    · exact Becomes.rfl
    · split <;> exact Becomes.rfl

theorem answerCfgTake_becomes (p : Port) : Becomes s (answerCfgTake p s).after := by
  unfold answerCfgTake
  split
  · exact Effect.becomes (Effect.aside _ rfl rfl rfl rfl rfl rfl rfl)
  · split <;> exact Becomes.rfl

theorem answerCfgPass_becomes (p : Port) (heir : Byte) : Becomes s (answerCfgPass p heir s).after := by
  unfold answerCfgPass
  split
  · exact Becomes.rfl
  · split
    · exact Becomes.rfl
    · exact Effect.becomes (Effect.aside _ rfl rfl rfl rfl rfl rfl rfl)

theorem answerCfgStation_becomes (p : Port) (station : Byte) : Becomes s (answerCfgStation p station s).after := by
  unfold answerCfgStation
  split
  · exact Becomes.rfl
  · split
    · exact Becomes.rfl
    · split
      · exact Becomes.rfl
      · split
        · exact Becomes.rfl
        · next h => exact (Effect.station station (Bool.eq_false_iff.2 h)).becomes

theorem changeBitRate_becomes (rate : BitRate) : Becomes s (s.changeBitRate rate) := by
  by_cases h : rate = s.config.params.bitRate ∨ s.line.receiving = false
  · rw [changeBitRate_keeps h]
    exact Becomes.rfl
  · obtain ⟨hrate, hrec⟩ := not_or.1 h
    rw [changeBitRate_abandons hrate (by simpa using hrec)]
    exact Effect.becomes (Effect.aside _ rfl rfl rfl rfl rfl rfl rfl)

theorem changeBitRate_config (rate : BitRate) : (s.changeBitRate rate).config = s.config := by
  by_cases h : rate = s.config.params.bitRate ∨ s.line.receiving = false
  · rw [changeBitRate_keeps h]
  · obtain ⟨hrate, hrec⟩ := not_or.1 h
    rw [changeBitRate_abandons hrate (by simpa using hrec)]

theorem answerCfgLine_becomes (p : Port) (params : Option LineParams) :
    Becomes s (answerCfgLine p params s).after := by
  unfold answerCfgLine
  split
  · exact Becomes.rfl
  · next l =>
    split
    · exact Becomes.rfl
    · split
      · exact Becomes.rfl
      · exact (changeBitRate_becomes l.bitRate).step
          (Effect.aside _ rfl rfl rfl rfl rfl rfl (by rw [changeBitRate_config]; rfl))

theorem answerCfgQuota_becomes (p : Port) (port reserve limit : Byte) :
    Becomes s (answerCfgQuota p port reserve limit s).after := by
  unfold answerCfgQuota
  split
  · exact Becomes.rfl
  · next q _ =>
    dsimp only
    split
    · exact Becomes.rfl
    · next hrange =>
      split
      · exact Becomes.rfl
      · split
        · exact Becomes.rfl
        · next hsum =>
          split
          · exact Becomes.rfl
          · next hlaw =>
            exact (Effect.quota q reserve.toNat limit.toNat (by simpa using hrange) (Nat.le_of_not_lt hsum)
              (Nat.le_of_not_lt hlaw)).becomes

/-- R6: a request on an own entry, with what the ownership check gives. -/
theorem withOwnEntry_becomes {p : Port} {entry : Byte} {handle : EntryIdx → ConnEntry → Answer}
    (h : ∀ e, (s.entry e).ownedBy p = true → Becomes s (handle e (s.entry e)).after) :
    Becomes s (withOwnEntry p entry s handle).after := by
  unfold withOwnEntry
  split
  · exact Becomes.rfl
  · next e _ =>
    split
    · next hown => exact h e hown
    · exact Becomes.rfl

theorem linkArgs_iff {window retryLimit : Byte} {answerTime : Half} :
    linkArgs window retryLimit answerTime = true ↔
      (1 ≤ window.toNat ∧ window.toNat ≤ 4) ∧ (1 ≤ retryLimit.toNat ∧ retryLimit.toNat ≤ 15) ∧
        (5 ≤ answerTime.toNat ∧ answerTime.toNat ≤ 4095) := by
  simp [linkArgs, within, and_assoc]

theorem answerConnOpen_becomes (p : Port) (service station window priority retryLimit : Byte) (answerTime : Half) :
    Becomes s (answerConnOpen p service station window priority retryLimit answerTime s).after := by
  unfold answerConnOpen
  split
  · exact Becomes.rfl
  · next pr _ =>
    split
    · exact Becomes.rfl
    · next hargs =>
      split
      · exact Becomes.rfl
      · next hopen =>
        split
        · exact Becomes.rfl
        · next e he =>
          simp only [Bool.not_eq_true', Bool.not_eq_false, Bool.and_eq_true] at hargs hopen
          obtain ⟨hwindow, hlimit, htime⟩ := linkArgs_iff.1 hargs.2
          exact (Effect.openEntry p e service station window.toNat pr retryLimit.toNat answerTime.toNat
            (lowestFree_some.1 he).1 hopen hwindow hlimit htime).becomes.trans schedule_becomes

theorem answerConnSend_becomes (p : Port) (entry handle length : Byte) (hostTag : Half) (notify : Byte) :
    Becomes s (answerConnSend p entry handle length hostTag notify s).after := by
  unfold answerConnSend
  split
  · split
    · exact Becomes.rfl
    · refine withOwnEntry_becomes fun e hown => ?_
      obtain ⟨howner, -, -⟩ := ownedBy_iff.1 hown
      split
      · exact Becomes.rfl
      · next hopened =>
        split
        · exact Becomes.rfl
        · next hroom =>
          split
          · exact Becomes.rfl
          · next hheld =>
            exact (Effect.send p e _ howner (not_not.1 hopened) (Nat.lt_of_not_le hroom)
              (by simpa using hheld)).becomes.trans schedule_becomes
  · exact Becomes.rfl

/-! #### A tuned entry -/

theorem ConnEntry.Tunes.settleTimer {c d : ConnEntry} (h : c.Tunes d) : c.Tunes d.settleTimer := by
  unfold ConnEntry.settleTimer
  split
  · obtain ⟨hfields, hdue, hcount, -⟩ := h
    exact ⟨by rw [hfields]; rfl, hdue, hcount, .inr rfl⟩
  · exact h

theorem ConnEntry.Tunes.withFlags {c d : ConnEntry} (h : c.Tunes d) (f : Flags) : c.Tunes { d with flags := f } := by
  obtain ⟨hfields, hdue, hcount, htimer⟩ := h
  exact ⟨by rw [hfields], hdue, hcount, htimer⟩

theorem ConnEntry.Tunes.refl (c : ConnEntry) : c.Tunes c := ⟨rfl, .inl rfl, .inl rfl, .inl rfl⟩

theorem ConnEntry.Tunes.endOfBusy {c d : ConnEntry} (h : c.Tunes d) : c.Tunes d.endOfBusy := by
  unfold ConnEntry.endOfBusy
  split
  · exact h.withFlags _
  · exact h

theorem tunes_retry {c : ConnEntry} (h : c.retryLimit ≠ some c.retryCount) : c.Tunes c.retry :=
  ⟨rfl, .inl rfl, .inr ⟨rfl, h⟩, .inr rfl⟩

theorem live_iff {c : ConnEntry} : c.live = true ↔ c.state = .opened ∨ c.state = .draining := by
  simp [ConnEntry.live]

theorem answerConnHold_becomes (p : Port) (entry : Byte) : Becomes s (answerConnHold p entry s).after := by
  refine withOwnEntry_becomes fun e _ => ?_
  split
  · exact Becomes.rfl
  · next hlive =>
    split
    · exact Becomes.rfl
    · exact (Effect.tune e _ (by simpa using hlive) ((ConnEntry.Tunes.refl _).withFlags _).settleTimer).becomes.trans
        schedule_becomes

theorem answerConnResume_becomes (p : Port) (entry : Byte) : Becomes s (answerConnResume p entry s).after := by
  refine withOwnEntry_becomes fun e _ => ?_
  split
  · exact Becomes.rfl
  · next hlive =>
    split
    · exact Becomes.rfl
    · exact (Effect.tune e _ (by simpa using hlive)
        ((ConnEntry.Tunes.refl _).withFlags _).endOfBusy.settleTimer).becomes.trans schedule_becomes

theorem abortRequest_becomes {e : EntryIdx} (hlive : (s.entry e).live = true) : Becomes s (s.abortRequest e) :=
  (Effect.abort e (s.entry e).dataAlone hlive).becomes.trans schedule_becomes

theorem closeEntry_becomes {e : EntryIdx} (abort : Bool) : Becomes s (closeEntry e (s.entry e) abort s).after := by
  unfold closeEntry
  split
  · next h => exact (Effect.free e (.inl h)).becomes.trans (closedEvent_becomes _ e false)
  · next h =>
    split
    · exact abortRequest_becomes (live_iff.2 (.inl h))
    · exact (Effect.drain e h).becomes.trans schedule_becomes
  · next h =>
    split
    · exact abortRequest_becomes (live_iff.2 (.inr h))
    · exact Becomes.rfl
  all_goals exact Becomes.rfl

theorem answerConnClose_becomes (p : Port) (entry form : Byte) : Becomes s (answerConnClose p entry form s).after := by
  unfold answerConnClose
  split
  · exact Becomes.rfl
  · exact withOwnEntry_becomes fun _ _ => closeEntry_becomes _

theorem answerConnRelease_becomes (p : Port) (entry : Byte) : Becomes s (answerConnRelease p entry s).after := by
  refine withOwnEntry_becomes fun e _ => ?_
  split
  · next h =>
    simp only [Bool.and_eq_true, decide_eq_true_eq, List.isEmpty_iff] at h
    exact (Effect.free e (.inr ⟨h.1.1, h.1.2, h.2⟩)).becomes
  · exact Becomes.rfl

theorem answerConnQuery_becomes (entry : Byte) : Becomes s (answerConnQuery entry s).after := by
  unfold answerConnQuery
  split <;> exact Becomes.rfl

theorem answerEvtFetch_becomes (p : Port) (n : Byte) : Becomes s (answerEvtFetch p n s).after := by
  unfold answerEvtFetch
  split
  · exact Becomes.rfl
  · show Becomes s (s.fetch p n.toNat)
    unfold State.fetch
    split
    · exact Becomes.rfl
    · exact ((Effect.fetch p n.toNat).becomes.trans (runArbiter_becomes p)).trans schedule_becomes

theorem answerEvtFilter_becomes (p : Port) (kind filter : Byte) : Becomes s (answerEvtFilter p kind filter s).after := by
  unfold answerEvtFilter
  split
  · next k f _ _ =>
    split
    · exact Becomes.rfl
    · next h => exact (Effect.filter p k f (by simpa using h)).becomes
  · exact Becomes.rfl

theorem rangesOk_of_args {stationMatch stationMask window retryLimit : Byte} {answerTime : Half}
    (hkey : listenKeyArg stationMatch stationMask = true) (hlink : linkArgs window retryLimit answerTime = true)
    (p : Port) (service : Byte) (pr : Fin 4) (accepts : Byte) :
    ({ owner := p, service := service, stationMatch := stationMatch, stationMask := stationMask,
       windowMax := window.toNat, priority := pr, retryLimit := retryLimit.toNat, answerTime := answerTime.toNat,
       accepts := accepts.toNat } : ListenEntry).rangesOk := by
  obtain ⟨hwindow, hlimit, htime⟩ := linkArgs_iff.1 hlink
  simp only [listenKeyArg, Bool.and_eq_true, decide_eq_true_eq] at hkey
  exact ⟨hkey.1, hkey.2, hwindow, hlimit, htime, Nat.le_of_lt_succ accepts.isLt⟩

/-- R54: two entries with different keys. -/
theorem hasKey_iff {l : ListenEntry} {service stationMatch stationMask : Byte} :
    l.hasKey service stationMatch stationMask = true ↔
      l.service = service ∧ l.stationMatch = stationMatch ∧ l.stationMask = stationMask := by
  simp [ListenEntry.hasKey, and_assoc]

theorem answerListenAdd_becomes (p : Port) (service stationMatch stationMask windowMax priority retryLimit : Byte)
    (answerTime : Half) (accepts : Byte) :
    Becomes s
      (answerListenAdd p service stationMatch stationMask windowMax priority retryLimit answerTime accepts s).after := by
  unfold answerListenAdd
  split
  · exact Becomes.rfl
  · next pr _ =>
    split
    · exact Becomes.rfl
    · next hargs =>
      split
      · exact Becomes.rfl
      · next hfull =>
        split
        · exact Becomes.rfl
        · next hkey =>
          simp only [Bool.not_eq_true', Bool.not_eq_false, Bool.and_eq_true] at hargs
          refine (Effect.listen _ fun ⟨hlength, hranges, hkeys⟩ => ⟨?_, ?_, ?_⟩).becomes
          · simp only [List.length_append, List.length_singleton]
            omega
          · simp only [List.mem_append, List.mem_singleton]
            rintro l (hl | rfl)
            · exact hranges l hl
            · exact rangesOk_of_args hargs.1 hargs.2 p service pr accepts
          · simp only [List.any_eq_true, not_exists, not_and, hasKey_iff] at hkey
            refine List.pairwise_append.2 ⟨hkeys, List.pairwise_singleton _ _, fun l hl k hk => ?_⟩
            rw [List.mem_singleton.1 hk]
            exact fun ⟨h1, h2, h3⟩ => hkey l hl h1 h2 h3

theorem listenOk_sublist {l k : List ListenEntry} (h : l.Sublist k) (hk : listenOk k) : listenOk l :=
  ⟨h.length_le.trans hk.1, fun x hx => hk.2.1 x (h.subset hx), hk.2.2.sublist h⟩

theorem answerListenDrop_becomes (p : Port) (service stationMatch stationMask : Byte) :
    Becomes s (answerListenDrop p service stationMatch stationMask s).after := by
  unfold answerListenDrop
  split
  · exact Becomes.rfl
  · split
    · exact Becomes.rfl
    · split
      · exact (Effect.listen _ (listenOk_sublist (List.eraseP_sublist))).becomes
      · exact Becomes.rfl


/-! #### The turn list -/

theorem mem_insertStation {a : Byte} {r : Station} {list : List Station} :
    r ∈ insertStation a list ↔ r = { address := a, present := true } ∨ r ∈ list := by
  induction list with
  | nil => simp [insertStation]
  | cons q rest ih =>
    unfold insertStation
    split
    · simp
    · simp only [List.mem_cons, ih]
      tauto

theorem insertStation_length (a : Byte) (list : List Station) : (insertStation a list).length = list.length + 1 := by
  induction list with
  | nil => rfl
  | cons q rest ih =>
    unfold insertStation
    split
    · rfl
    · simp only [List.length_cons, ih]

/-- R119: a station that is not listed is put at its place in the order of the addresses. -/
theorem insertStation_sorted {a : Byte} {list : List Station} (hnew : ∀ r ∈ list, r.address ≠ a)
    (hlist : list.Pairwise fun q r => q.address.toNat < r.address.toNat) :
    (insertStation a list).Pairwise fun q r => q.address.toNat < r.address.toNat := by
  induction list with
  | nil => exact List.pairwise_singleton _ _
  | cons q rest ih =>
    obtain ⟨hq, hrest⟩ := List.pairwise_cons.1 hlist
    unfold insertStation
    split
    · next hlt =>
      refine List.pairwise_cons.2 ⟨fun r hr => ?_, hlist⟩
      rcases List.mem_cons.1 hr with rfl | hr
      · exact hlt
      · exact hlt.trans (hq r hr)
    · next hge =>
      have hne : q.address.toNat ≠ a.toNat := fun h =>
        hnew q List.mem_cons_self (BitVec.eq_of_toNat_eq h)
      refine List.pairwise_cons.2 ⟨fun r hr => ?_, ih (fun r hr => hnew r (List.mem_cons_of_mem _ hr)) hrest⟩
      rcases mem_insertStation.1 hr with rfl | hr
      · simp only
        omega
      · exact hq r hr

theorem turnListOk_insert {own a : Byte} {list : List Station} (ha : isStation a = true) (hown : a ≠ own)
    (hnew : ∀ r ∈ list, r.address ≠ a) (hroom : list.length < Config.turnMax) (h : turnListOk own list) :
    turnListOk own (insertStation a list) := by
  obtain ⟨hsorted, hrange, -⟩ := h
  refine ⟨insertStation_sorted hnew hsorted, fun r hr => ?_, by rw [insertStation_length]; omega⟩
  rcases mem_insertStation.1 hr with rfl | hr
  · exact ⟨ha, hown⟩
  · exact hrange r hr

theorem turnListOk_sublist {own : Byte} {l k : List Station} (h : l.Sublist k) (hk : turnListOk own k) :
    turnListOk own l :=
  ⟨hk.1.sublist h, fun r hr => hk.2.1 r (h.subset hr), h.length_le.trans hk.2.2⟩

theorem soleEnds_becomes : Becomes s s.soleEnds := by
  unfold State.soleEnds
  split
  · next h =>
    simp only [Bool.and_eq_true, decide_eq_true_eq, Option.isNone_iff_eq_none] at h
    split
    · exact schedule_becomes
    · exact endTurn_becomes h.1 h.2
  · exact Becomes.rfl

theorem addStation_becomes {a : Byte} (ha : isStation a = true) (hown : a ≠ s.config.station)
    (hnew : s.turn.knows a = false) (hroom : s.turn.list.length < Config.turnMax) : Becomes s (s.addStation a) := by
  have hnew' : ∀ r ∈ s.turn.list, r.address ≠ a := by simpa [TurnController.knows] using hnew
  have hinsert : Becomes s (s.withTurn { s.turn with list := insertStation a s.turn.list }) :=
    Effect.becomes (Effect.retime _ rfl (turnListOk_insert ha hown hnew' hroom) .inl)
  unfold State.addStation
  dsimp only
  split
  · exact hinsert.trans soleEnds_becomes
  · exact hinsert

theorem answerTurnAdd_becomes (p : Port) (station : Byte) : Becomes s (answerTurnAdd p station s).after := by
  unfold answerTurnAdd
  split
  · exact Becomes.rfl
  · next ha =>
    split
    · exact Becomes.rfl
    · split
      · exact Becomes.rfl
      · next hown =>
        split
        · exact Becomes.rfl
        · next hnew =>
          split
          · exact Becomes.rfl
          · next hroom =>
            exact addStation_becomes (by simpa using ha) hown (by simpa using hnew) (Nat.lt_of_not_le hroom)

theorem answerTurnRemove_becomes (p : Port) (station : Byte) : Becomes s (answerTurnRemove p station s).after := by
  unfold answerTurnRemove
  split
  · exact Becomes.rfl
  · split
    · exact Becomes.rfl
    · split
      · exact Becomes.rfl
      · exact Effect.becomes (Effect.retime _ rfl (turnListOk_sublist List.filter_sublist) .inl)

theorem startLine_becomes (hengine : s.turn.engine = .offline) : Becomes s s.startLine :=
  Becomes.trans
    (Effect.becomes (Effect.toWaiting
      { s.turn.noHandover with
        frameCount := 0, rotation := 0, engine := .waiting, lostTimer := some s.config.lostTime, holdTimer := none,
        responseTimer := none } rfl rfl rfl (.inr hengine)))
    (lineEvent_becomes .started)

theorem answerLineStart_becomes (p : Port) : Becomes s (answerLineStart p s).after := by
  unfold answerLineStart
  split
  · exact Becomes.rfl
  · split
    · exact Becomes.rfl
    · next hengine =>
      split
      · exact Becomes.rfl
      · exact startLine_becomes (not_not.1 hengine)

/-- R139: a STOPPING part with no frame on the line sends its last TURN or goes OFFLINE. -/
theorem stopTurn_becomes (hengine : s.turn.engine = .stopping) (htx : s.sched.tx = none) : Becomes s s.stopTurn := by
  unfold State.stopTurn
  split
  · next a _ =>
    exact Effect.becomes (Effect.sendTurn { s.turn with target := some a } a rfl (.inr ⟨hengine, rfl, hengine⟩) (.inl htx))
  · exact (Effect.offline (.inl htx) (.inl hengine)).becomes

theorem enterStopping_becomes (hfrom : s.turn.engine = .holding ∨ s.turn.engine = .handing)
    (hunused : ∀ e, (s.entry e).inUse = false) : Becomes s s.enterStopping :=
  (Effect.toStopping
    { s.turn with engine := .stopping, kind := none, attempt := none, holdTimer := none, responseTimer := none }
    rfl rfl rfl hfrom hunused).becomes

theorem stopLine_becomes (hunused : ∀ e, (s.entry e).inUse = false) : Becomes s s.stopLine := by
  unfold State.stopLine
  split
  · next h => exact (Effect.offline (.inr h) (.inr hunused)).becomes
  · next h =>
    split
    · exact enterStopping_becomes (.inr h) hunused
    · next htx => exact (Effect.offline (.inl (by simpa using htx)) (.inr hunused)).becomes
  · next h =>
    split
    · exact enterStopping_becomes (.inl h) hunused
    · next htx =>
      split
      · exact (Effect.offline (.inl (by simpa using htx)) (.inr hunused)).becomes
      · exact (enterStopping_becomes (.inl h) hunused).trans (stopTurn_becomes rfl (by show s.sched.tx = none; simpa using htx))
  all_goals exact Becomes.rfl

theorem entries_any_false {P : ConnEntry → Bool} (h : ¬ s.entries.any P = true) (e : EntryIdx) :
    P (s.entry e) = false := by
  rw [Bool.not_eq_true, Vector.any_eq_false] at h
  simpa [State.entry, look] using h e.val e.isLt

theorem answerLineStop_becomes (p : Port) : Becomes s (answerLineStop p s).after := by
  unfold answerLineStop
  split
  · exact Becomes.rfl
  · split
    · exact Becomes.rfl
    · split
      · exact Becomes.rfl
      · next h => exact stopLine_becomes (entries_any_false h)

theorem withStats_becomes (k : Counters) : Becomes s (s.withStats k) :=
  Effect.becomes (Effect.aside _ rfl rfl rfl rfl rfl rfl rfl)

theorem answerLineStatus_becomes (p : Port) (clear : Byte) : Becomes s (answerLineStatus p clear s).after := by
  unfold answerLineStatus
  split
  · exact Becomes.rfl
  · exact Becomes.rfl
  · split
    · exact Becomes.rfl
    · exact withStats_becomes _

/-! #### The port reset -/

theorem resetTransaction_eventSide (ps : PortState) :
    ps.resetTransaction.queue = ps.queue ∧ ps.resetTransaction.filters = ps.filters ∧
      ps.resetTransaction.admission = ps.admission := ⟨rfl, rfl, rfl⟩

theorem dropRight_station (g : ConfigUnit) (p : Port) : (g.dropRight p).station = g.station := by
  unfold ConfigUnit.dropRight
  split <;> rfl

theorem portReset_becomes (p : Port) : Becomes s (s.portReset p) := by
  have hlisten : Becomes s (s.resetListen p) :=
    (Effect.listen (s.listen.filter fun l => l.owner ≠ p) (listenOk_sublist List.filter_sublist)).becomes
  have hentries : ∀ t, Becomes t (t.resetEntries p) :=
    foldl_becomes (fun t e => (Effect.resetEntry p e).becomes) allEntries
  have hports : Becomes s
      (((((s.resetListen p).resetEntries p).resetQueue p).resetHeld p).modPort p PortState.resetTransaction) :=
    (((hlisten.trans (hentries _)).step (.resetQueue p)).step (.resetHeld p)).trans
      (modPort_becomes (resetTransaction_eventSide _))
  have hright : ∀ t : State, Becomes t { t with config := t.config.dropRight p } := fun t =>
    Effect.becomes (Effect.aside _ rfl rfl rfl rfl rfl rfl (dropRight_station _ p))
  exact hports.trans (hright _)

theorem answerPortReset_after (p : Port) : (answerPortReset p s).after = (s.portReset p).schedule := by
  simp only [answerPortReset, Answer.ok]

theorem answerPortReset_becomes (p : Port) : Becomes s (answerPortReset p s).after := by
  rw [answerPortReset_after]
  exact (portReset_becomes p).trans schedule_becomes


/-! ### Receptions -/

/-- A part that is not deaf has no frame on the line. -/
theorem tx_of_not_deaf (h : ¬ s.deaf = true) : s.sched.tx = none := by
  simp only [State.deaf, Bool.or_eq_true, not_or] at h
  simpa using h.1.2

theorem handoverSuccess_becomes (htx : s.sched.tx = none) : Becomes s s.handoverSuccess := by
  have hwaiting : Becomes s (s.withTurn s.turn.noHandover).enterWaiting :=
    Effect.becomes (Effect.toWaiting
      { s.turn.noHandover with
        engine := .waiting, lostTimer := some s.config.lostTime, holdTimer := none, responseTimer := none }
      rfl rfl rfl (.inl htx))
  unfold State.handoverSuccess
  split
  · split
    · exact (hwaiting.trans (mark_becomes _ true)).trans (lineEvent_becomes _)
    · exact hwaiting
  · exact hwaiting

theorem turnFrameStart_becomes (htx : s.sched.tx = none) : Becomes s s.turnFrameStart := by
  unfold State.turnFrameStart
  split
  · exact withTurn_becomes (tc := { s.turn with lostTimer := some s.config.lostTime }) rfl rfl (.inl rfl)
  · split
    · exact handoverSuccess_becomes htx
    · exact Becomes.rfl
  all_goals exact Becomes.rfl

theorem withLine_becomes (l : LineInterface) : Becomes s { s with line := l } :=
  Effect.becomes (Effect.aside _ rfl rfl rfl rfl rfl rfl rfl)

theorem frameStarts_becomes (htx : s.sched.tx = none) : Becomes s s.frameStarts :=
  (turnFrameStart_becomes htx).trans (withLine_becomes _)

theorem handoverSuccess_sched : s.handoverSuccess.sched = s.sched := by
  unfold State.handoverSuccess
  split
  · split <;> rfl
  · rfl

/-- A frame start puts no frame on the line. -/
theorem frameStarts_sched : s.frameStarts.sched = s.sched := by
  show s.turnFrameStart.sched = s.sched
  unfold State.turnFrameStart
  split
  · rfl
  · split
    · exact handoverSuccess_sched
    · rfl
  all_goals rfl

theorem hearStation_becomes (src : Byte) : Becomes s (s.hearStation src) := by
  unfold State.hearStation
  split
  · exact (mark_becomes src true).trans (lineEvent_becomes _)
  · exact Becomes.rfl

theorem hearStation_sched (src : Byte) : (s.hearStation src).sched = s.sched := by
  unfold State.hearStation
  split <;> rfl

theorem hearStation_engine (src : Byte) : (s.hearStation src).turn.engine = s.turn.engine := by
  unfold State.hearStation
  split <;> rfl

theorem yieldTurn_becomes (src : Byte) (htx : s.sched.tx = none) : Becomes s (s.yieldTurn src) :=
  Becomes.trans
    (Effect.becomes (Effect.toWaiting
      { s.turn with
        engine := .waiting, lostTimer := some s.config.lostTime, holdTimer := none, responseTimer := none }
      rfl rfl rfl (.inl htx)))
    (lineEvent_becomes _)

theorem beginTurn_becomes (hengine : s.turn.engine = .waiting) : Becomes s s.beginTurn :=
  (Effect.toHolding
    { s.turn.countRotation with
      engine := .holding, frameCount := 0, holdTimer := some s.config.holdTime, lostTimer := none }
    rfl rfl (.inl ⟨hengine, rfl⟩)).becomes

theorem renewTurn_becomes (src : Byte) : Becomes s (s.renewTurn src) :=
  Becomes.trans
    (withTurn_becomes (tc := { s.turn.countRotation with frameCount := 0, holdTimer := some s.config.holdTime })
      rfl rfl (.inl rfl))
    (lineEvent_becomes _)

theorem turnFrameEnd_becomes (f : Frame) (htx : s.sched.tx = none) : Becomes s (s.turnFrameEnd f) := by
  unfold State.turnFrameEnd
  dsimp only
  split
  · split
    · exact (renewTurn_becomes f.src).trans schedule_becomes
    · exact yieldTurn_becomes f.src htx
  · next h =>
    split
    · exact (beginTurn_becomes h).trans schedule_becomes
    · exact Becomes.rfl
  all_goals exact Becomes.rfl

/-- A frame that is no TURN starts none. -/
theorem turnFrameEnd_sched {f : Frame} (hkind : f.kind ≠ .turn) : (s.turnFrameEnd f).sched = s.sched := by
  unfold State.turnFrameEnd
  dsimp only
  split <;> simp [hkind, State.yieldTurn, State.enterWaiting, State.lineEvent]

theorem offerStray_becomes (r : StrayReply) : Becomes s (s.offerStray r) := (Effect.offerStray r).becomes

theorem takeStray_becomes (f : Frame) : Becomes s (s.takeStray f) := by
  unfold State.takeStray
  dsimp only
  split
  · exact withStats_becomes _
  · exact (withStats_becomes _).trans (offerStray_becomes _)

/-- A replacement that a function does not see leaves the list's image as it is. -/
theorem map_replace {α β : Type} [BEq α] [LawfulBEq α] {f : α → β} {a b : α} (h : f b = f a) (xs : List α) :
    (xs.replace a b).map f = xs.map f := by
  induction xs with
  | nil => rfl
  | cons x xs ih =>
    rw [List.replace_cons]
    split
    · next hx => rw [List.map_cons, List.map_cons, h, eq_of_beq hx]
    · rw [List.map_cons, List.map_cons, ih]

theorem mem_replace {α : Type} [BEq α] {a b x : α} {xs : List α} (h : x ∈ xs.replace a b) : x ∈ xs ∨ x = b := by
  induction xs with
  | nil => exact .inl h
  | cons y ys ih =>
    rw [List.replace_cons] at h
    split at h
    · rcases List.mem_cons.1 h with rfl | h
      · exact .inr rfl
      · exact .inl (List.mem_cons_of_mem _ h)
    · rcases List.mem_cons.1 h with rfl | h
      · exact .inl List.mem_cons_self
      · exact (ih h).imp (List.mem_cons_of_mem _) id

/-- The key of a listen entry, as a value. -/
def ListenEntry.key (l : ListenEntry) : Byte × Byte × Byte := (l.service, l.stationMatch, l.stationMask)

theorem keys_pairwise_iff {table : List ListenEntry} :
    table.Pairwise (fun a b =>
      ¬ (a.service = b.service ∧ a.stationMatch = b.stationMatch ∧ a.stationMask = b.stationMask)) ↔
      (table.map ListenEntry.key).Pairwise (· ≠ ·) := by
  rw [List.pairwise_map]
  simp only [ListenEntry.key, ne_eq, Prod.mk.injEq]

/-- R64: a listen entry used keeps the table in its bounds. -/
theorem useListen_ok {l : ListenEntry} {table : List ListenEntry} (hl : l ∈ table) (h : listenOk table) :
    listenOk (useListen l table) := by
  obtain ⟨hlength, hranges, hkeys⟩ := h
  unfold useListen
  split
  · exact listenOk_sublist List.erase_sublist ⟨hlength, hranges, hkeys⟩
  · split
    · exact ⟨hlength, hranges, hkeys⟩
    · refine ⟨by simpa using hlength, fun x hx => ?_, ?_⟩
      · rcases mem_replace hx with hx | rfl
        · exact hranges x hx
        · obtain ⟨hm, hk, hw, hr, ht, ha⟩ := hranges l hl
          exact ⟨hm, hk, hw, hr, ht, (Nat.sub_le _ _).trans ha⟩
      · rw [keys_pairwise_iff] at hkeys ⊢
        rwa [map_replace (by rfl)]


/-- R61 to R64, taken to the letter of `hasRemote`: no entry that keeps a remote has this one. -/
theorem remoteFree_of_search {station index : Byte} {e : EntryIdx} (hindex : index.toNat ≤ 31)
    (hlive : ∀ k, ((s.entry k).live && (s.entry k).hasRemote station index) = false)
    (hleft : ∀ k, (((s.entry k).state = .closing || (s.entry k).state = .ended) &&
      (s.entry k).hasRemote station index) = false) : s.RemoteFree e station index := by
  refine ⟨hindex, fun k _ hfree hopening => ?_⟩
  have h1 := hlive k
  have h2 := hleft k
  cases hk : (s.entry k).state <;> simp_all [ConnEntry.live]

theorem acceptOpen_becomes {l : ListenEntry} {e : EntryIdx} {f : Frame} {service : Byte} {window : Nat}
    (hl : l ∈ s.listen) (hfree : (s.entry e).state = .free)
    (hengine : s.turn.engine ≠ .offline ∧ s.turn.engine ≠ .stopping) (hremote : s.RemoteFree e f.src f.sci)
    (hwindow : 1 ≤ window ∧ window ≤ 4) : Becomes s (s.acceptOpen l e f service window) := by
  have haccept := (Effect.accept l e f.src f.sci service window hl hfree hengine hremote hwindow).becomes
  have hlisten : ((s.setEntry e (ConnEntry.accepted l f.src f.sci service window)).makeNotice e
      (.arrived f.src service)).listen = s.listen := (makeNotice_aside _ _ _).listen
  have huse := haccept.step (.listen _ (useListen_ok (l := l) (by rwa [hlisten])))
  unfold State.acceptOpen
  dsimp only
  split
  · exact huse.trans (offer_becomes l.owner rfl)
  · exact huse

theorem decideOpen_becomes {f : Frame} {service : Byte} {window : Nat}
    (hengine : s.turn.engine ≠ .offline ∧ s.turn.engine ≠ .stopping) (hindex : f.sci.toNat ≤ 31)
    (hwindow : 1 ≤ window ∧ window ≤ 4) : Becomes s (s.decideOpen f service window) := by
  unfold State.decideOpen
  split
  · next e he =>
    have hlive := (firstEntry.1 he).1
    simp only [Bool.and_eq_true] at hlive
    exact Effect.becomes (Effect.tune e _ hlive.1 ⟨rfl, .inr rfl, .inl rfl, .inl rfl⟩)
  · next hlive =>
    split
    · exact offerStray_becomes _
    · next hleft =>
      split
      · exact offerStray_becomes _
      · next l hl =>
        split
        · exact offerStray_becomes _
        · next e he =>
          refine acceptOpen_becomes (List.mem_of_find?_eq_some hl) (lowestFree_some.1 he).1 hengine ?_ hwindow
          refine remoteFree_of_search hindex (fun k => ?_) fun k => ?_
          · simpa [allEntries] using List.find?_eq_none.1 hlive k (by simp [allEntries])
          · simp only [Bool.not_eq_true, List.any_eq_false, allEntries] at hleft
            exact hleft k (List.mem_finRange k)

theorem listenHandling_becomes (f : Frame) : Becomes s (s.listenHandling f) := by
  unfold State.listenHandling
  dsimp only
  split
  · exact Becomes.rfl
  · next hengine =>
    split
    · exact withStats_becomes _
    · next hargs =>
      simp only [Bool.or_eq_true, decide_eq_true_eq, not_or, Bool.not_eq_true', Bool.not_eq_false, within,
        Bool.and_eq_true] at hengine hargs
      exact decideOpen_becomes hengine (Nat.le_of_not_lt hargs.1) hargs.2

theorem replyClosed_becomes (e : EntryIdx) (f : Frame) : Becomes s (s.replyClosed e f) := offerStray_becomes _

theorem badAccept_becomes {e : EntryIdx} {f : Frame} (h : (s.entry e).state = .opening) :
    Becomes s (s.badAccept e f) :=
  (Effect.badAccept e f.sci h).becomes.trans (offerStray_becomes _)

theorem takeAccept_becomes {e : EntryIdx} {f : Frame} (h : (s.entry e).state = .opening)
    (hstation : (s.entry e).remoteStation = some f.src) : Becomes s (s.takeAccept e f) := by
  unfold State.takeAccept
  dsimp only
  split
  · exact (Effect.finish e _ (.inl h)).becomes
  · next hindex =>
    split
    · exact badAccept_becomes h
    · next hwindow =>
      split
      · exact badAccept_becomes h
      · next hremote =>
        have hfree : s.RemoteFree e f.src f.sci := by
          refine ⟨Nat.le_of_not_lt hindex, fun k hk hfree hopening => ?_⟩
          simp only [State.remoteInUse, Bool.not_eq_true, List.any_eq_false, allEntries] at hremote
          simpa [hk, hfree, hopening] using hremote k (List.mem_finRange k)
        simp only [Bool.or_eq_true, decide_eq_true_eq, not_or, Nat.not_lt] at hwindow
        exact (Effect.toOpen e f.src f.sci _ h hstation hfree
          ⟨Nat.one_le_iff_ne_zero.2 hwindow.1, hwindow.2⟩).becomes.trans (entryEvent_becomes e rfl)

theorem takeOpening_becomes {e : EntryIdx} {f : Frame} (h : (s.entry e).state = .opening)
    (hstray : (s.entry e).isStray f = false) : Becomes s (s.takeOpening e f) := by
  unfold State.takeOpening
  split
  · refine takeAccept_becomes h ?_
    simp only [ConnEntry.isStray, h, Bool.not_eq_false', Bool.and_eq_true, decide_eq_true_eq] at hstray
    exact hstray.2
  all_goals first | exact (Effect.finish e _ (.inl h)).becomes | exact Becomes.rfl

theorem takeLive_becomes {e : EntryIdx} {f : Frame} (h : (s.entry e).live = true) (htx : s.sched.tx = none)
    (hpayload : f.kind = .data → f.payload.length ≤ 240) : Becomes s (s.takeLive e f) := by
  have htransfer : Becomes s (s.takeTransfer e f) := (Effect.transfer e f h hpayload htx).becomes
  have hfinish : ∀ r, Becomes s (s.endEntry e r) := fun r => (Effect.finish e r (.inr h)).becomes
  unfold State.takeLive
  split
  case h_5 => exact (hfinish _).trans (replyClosed_becomes e f)
  all_goals first | exact htransfer | exact hfinish _ | exact Becomes.rfl

theorem offerStray_entries (r : StrayReply) : (s.offerStray r).entries = s.entries := by
  rcases offerStray_cases s r with h | ⟨-, -, h⟩ | h <;> rw [h] <;> rfl

theorem offerStray_tx (r : StrayReply) : (s.offerStray r).sched.tx = s.sched.tx := by
  rcases offerStray_cases s r with h | ⟨-, -, h⟩ | h <;> rw [h] <;> rfl

theorem endExchange_becomes {e : EntryIdx} (timedOut : Bool) (h : (s.entry e).state = .closing)
    (hopen : (s.sched.tx = none ∧ (s.entry e).closeFinished = false) ∨ (s.entry e).answerTimer ≠ none) :
    Becomes s (s.endCloseExchange e timedOut) := (Effect.endExchange e timedOut h hopen).becomes

theorem takeClosing_becomes {e : EntryIdx} {f : Frame} (h : (s.entry e).state = .closing) (htx : s.sched.tx = none) :
    Becomes s (s.takeClosing e f) := by
  unfold State.takeClosing
  dsimp only
  split
  · split
    · exact Becomes.rfl
    · next hdone => exact endExchange_becomes false h (.inl ⟨htx, by simpa using hdone⟩)
  · split
    · exact replyClosed_becomes e f
    · next hdone =>
      have hentry : (s.replyClosed e f).entry e = s.entry e := by
        rw [State.entry, State.entry, State.replyClosed, offerStray_entries]
      refine (replyClosed_becomes e f).trans (endExchange_becomes false ?_ (.inl ⟨?_, ?_⟩))
      · rw [hentry, h]
      · rw [State.replyClosed, offerStray_tx, htx]
      · rw [hentry]
        simpa using hdone
  · exact Becomes.rfl

theorem takeAtEntry_becomes {e : EntryIdx} {f : Frame} (hstray : (s.entry e).isStray f = false)
    (htx : s.sched.tx = none) (hpayload : f.kind = .data → f.payload.length ≤ 240) :
    Becomes s (s.takeAtEntry e f) := by
  unfold State.takeAtEntry
  split
  · next h => exact takeOpening_becomes h hstray
  · next h => exact takeLive_becomes (live_iff.2 (.inl h)) htx hpayload
  · next h => exact takeLive_becomes (live_iff.2 (.inr h)) htx hpayload
  · next h => exact takeClosing_becomes h htx
  all_goals exact Becomes.rfl

theorem routeFrame_becomes {f : Frame} (htx : f.kind ≠ .turn → s.sched.tx = none)
    (hpayload : f.kind = .data → f.payload.length ≤ 240) : Becomes s (s.routeFrame f) := by
  unfold State.routeFrame
  split
  · exact Becomes.rfl
  · exact listenHandling_becomes f
  · next hturn _ =>
    split
    · exact takeStray_becomes f
    · split
      · exact takeStray_becomes f
      · next hstray => exact takeAtEntry_becomes (by simpa using hstray) (htx hturn) hpayload

theorem dispatch_becomes {f : Frame} (htx : s.sched.tx = none) (hpayload : f.kind = .data → f.payload.length ≤ 240) :
    Becomes s (s.dispatch f) := by
  have htaken : ∀ t : State, t.sched.tx = none → Becomes t ((t.hearStation f.src).turnFrameEnd f) := fun t ht =>
    (hearStation_becomes f.src).trans (turnFrameEnd_becomes f (by rwa [hearStation_sched]))
  unfold State.dispatch
  dsimp only
  split
  · refine ((withStats_becomes s.stats.frameForUs).trans (htaken _ htx)).trans (routeFrame_becomes (fun hkind => ?_)
      hpayload)
    rw [turnFrameEnd_sched hkind, hearStation_sched]
    exact htx
  · exact htaken s htx

/-- R162: what check 6 says of a good frame. -/
theorem verdict_good {own : Byte} {f g : Frame} (h : Frame.verdict own f = .good g) : g = f ∧ f.inRange own = true := by
  unfold Frame.verdict at h
  split at h
  · next hr => exact ⟨(Verdict.good.inj h).symm, hr⟩
  · cases h

theorem inRange_payload {own : Byte} {f : Frame} (h : f.inRange own = true) (hkind : f.kind = .data) :
    f.payload.length ≤ 240 := by
  simp only [Frame.inRange, hkind, FrameKind.allows, Bool.and_eq_true, decide_eq_true_eq] at h
  exact h.1.1.1.2

/-- Every verdict that a frame end can have: a good frame passed check 6. -/
def Verdict.checked (own : Byte) (v : Verdict) : Prop := ∀ f, v = .good f → f.inRange own = true

theorem frameFor_checked (k : FrameKind) (h : RxHead) (payload : List Byte) (own : Byte) :
    (frameFor k h payload own).checked own := fun f hf => by
  obtain ⟨rfl, hr⟩ := verdict_good hf
  exact hr

theorem checkFormat_checked (own : Byte) (bytes : List Byte) : (checkFormat own bytes).checked own := by
  intro f hf
  unfold checkFormat at hf
  split at hf
  · split at hf
    · split at hf
      · obtain ⟨rfl, hr⟩ := verdict_good hf
        exact hr
      · cases hf
    · cases hf
  · cases hf

theorem checkFrame_checked (own : Byte) (status : FrameStatus) (bytes : List Byte) :
    (checkFrame own status bytes).checked own := by
  unfold checkFrame
  dsimp only
  split
  · exact fun f hf => by cases hf
  · split
    · exact fun f hf => by cases hf
    · split
      · exact fun f hf => by cases hf
      · exact checkFormat_checked own _

theorem takeVerdict_becomes {v : Verdict} (htx : s.sched.tx = none) (hv : v.checked s.config.station) :
    Becomes s (s.takeVerdict v) := by
  unfold State.takeVerdict
  split
  · exact withStats_becomes _
  · exact withStats_becomes _
  · next f => exact dispatch_becomes htx (inRange_payload (hv f rfl))

theorem receiveFrame_becomes {verdict : Byte → Verdict} (hv : ∀ own, (verdict own).checked own) :
    Becomes s (s.receiveFrame verdict) := by
  unfold State.receiveFrame
  dsimp only
  split
  · exact Becomes.rfl
  · next hdeaf =>
    have htx := tx_of_not_deaf hdeaf
    have hrun : ∀ t : State, t.sched.tx = none →
        Becomes t
          (({ t with line := { t.line with receiving := false } } : State).takeVerdict (verdict t.config.station)) :=
      fun t ht => (withLine_becomes _).trans (takeVerdict_becomes ht (hv _))
    split
    · exact hrun s htx
    · exact (frameStarts_becomes htx).trans (hrun _ (by rwa [frameStarts_sched]))

/-- A typed reception. -/
theorem received_becomes (k : FrameKind) (h : RxHead) (payload : List Byte) :
    Becomes s (s.receiveFrame (frameFor k h payload)) := receiveFrame_becomes fun own => frameFor_checked k h payload own

theorem ignoreIf_becomes (b : Bool) : Becomes s (s.ignoreIf b) := by
  unfold State.ignoreIf
  split
  · exact withLine_becomes _
  · exact Becomes.rfl

theorem frameEnd_becomes (status : FrameStatus) (bytes : List Byte) (b : Bool) :
    Becomes s ((s.receiveFrame fun own =>
      if leavesIgnoring status bytes then .checkError else checkFrame own status bytes).ignoreIf b) := by
  have hchecked : ∀ own, (if leavesIgnoring status bytes then Verdict.checkError
      else checkFrame own status bytes).checked own := fun own => by
    split
    · exact fun f hf => by cases hf
    · exact checkFrame_checked own status bytes
  exact (receiveFrame_becomes hchecked).trans (ignoreIf_becomes b)


/-! ### Transmissions -/

theorem turnAfterFrame_becomes (hengine : s.turn.engine = .holding) (htx : s.sched.tx = none) :
    Becomes s s.turnAfterFrame := by
  have hspent : Becomes s (s.withTurn { s.turn with frameCount := 0 }) := withTurn_becomes rfl rfl (.inl rfl)
  unfold State.turnAfterFrame
  dsimp only
  split
  · split
    · split
      · exact hspent.trans (renewSoleTurn_becomes hengine htx)
      · exact hspent
    · split
      · exact renewSoleTurn_becomes hengine htx
      · exact Becomes.rfl
  · split
    · exact endTurn_becomes hengine htx
    · exact Becomes.rfl

theorem turnSent_becomes (o : Origin) (htx : s.sched.tx = none) : Becomes s (s.turnSent o) := by
  unfold State.turnSent
  split
  · exact Becomes.rfl
  · next h _ =>
    have hcount : Becomes s (s.withTurn { s.turn with frameCount := s.turn.frameCount + 1 }) :=
      withTurn_becomes rfl rfl (.inl rfl)
    exact hcount.trans (turnAfterFrame_becomes h htx)
  · next h => exact Effect.becomes (Effect.retime _ rfl id fun _ => .inr ⟨h, htx⟩)
  · exact Becomes.rfl
  · next h => exact (Effect.offline (.inl htx) (.inl h)).becomes
  · next h _ => exact stopTurn_becomes h htx
  all_goals exact Becomes.rfl

theorem transmissionEnds_becomes : Becomes s s.transmissionEnds := by
  unfold State.transmissionEnds
  split
  · exact Becomes.rfl
  · next t htx =>
    exact ((Effect.sent t htx).becomes.trans (turnSent_becomes t.origin rfl)).trans schedule_becomes

theorem turnFault_becomes (htx : s.sched.tx = none) : Becomes s s.turnFault := by
  have hwaiting : ∀ tc : TurnController, tc.list = s.turn.list →
      Becomes s (s.withTurn
        { tc with
          engine := .waiting, lostTimer := some s.config.lostTime, holdTimer := none, responseTimer := none }) :=
    fun tc hlist => Effect.becomes (Effect.toWaiting _ rfl hlist rfl (.inl htx))
  unfold State.turnFault
  split
  · exact (hwaiting s.turn rfl).trans (lineEvent_becomes _)
  · exact (hwaiting s.turn.noHandover rfl).trans (lineEvent_becomes _)
  · next h => exact (lineEvent_becomes .txFault).step (.offline (.inl htx) (.inl h))
  all_goals exact Becomes.rfl

theorem transmissionFails_becomes : Becomes s s.transmissionFails := by
  unfold State.transmissionFails
  split
  · exact Becomes.rfl
  · next t htx => exact (Effect.failed t htx).becomes.trans (turnFault_becomes rfl)

/-! ### Timers -/

/-- R45: an entry below its retry limit. -/
theorem exhausted_false {c : ConnEntry} (h : ¬ c.exhausted = true) : c.retryLimit ≠ some c.retryCount := by
  simpa [ConnEntry.exhausted] using h

theorem answerExpiry_becomes (e : EntryIdx) : Becomes s (s.answerExpiry e) := by
  have hlive : (s.entry e).live = true → (s.entry e).retryLimit ≠ some (s.entry e).retryCount →
      Becomes s (s.setEntry e { (s.entry e).retry with flags := { (s.entry e).flags with queryDue := true } }) :=
    fun h hcount => Effect.becomes (Effect.tune e _ h ((tunes_retry hcount).withFlags _))
  have hfinish : (s.entry e).state = .opening ∨ (s.entry e).live = true → Becomes s (s.endEntry e .noAnswer) :=
    fun h => (Effect.finish e .noAnswer h).becomes
  unfold State.answerExpiry
  dsimp only
  split
  · exact Becomes.rfl
  · next htimer =>
    rw [Option.isNone_iff_eq_none] at htimer
    split
    · next h =>
      split
      · exact hfinish (.inl h)
      · next hcount =>
        exact (Effect.retry e .sendOpen (.inl ⟨h, rfl⟩) htimer (exhausted_false hcount)).becomes.trans schedule_becomes
    · next h =>
      split
      · exact hfinish (.inr (live_iff.2 (.inl h)))
      · next hcount => exact (hlive (live_iff.2 (.inl h)) (exhausted_false hcount)).trans schedule_becomes
    · next h =>
      split
      · exact hfinish (.inr (live_iff.2 (.inr h)))
      · next hcount => exact (hlive (live_iff.2 (.inr h)) (exhausted_false hcount)).trans schedule_becomes
    · next h =>
      split
      · exact endExchange_becomes true h (.inr htimer)
      · next hcount =>
        exact (Effect.retry e .sendClose (.inr ⟨h, rfl⟩) htimer (exhausted_false hcount)).becomes.trans schedule_becomes
    all_goals exact Becomes.rfl

theorem lostExpiry_becomes : Becomes s s.lostExpiry := by
  unfold State.lostExpiry
  split
  · next h =>
    simp only [Bool.and_eq_true, decide_eq_true_eq] at h
    exact ((beginTurn_becomes h.1).trans (lineEvent_becomes .claimed)).trans schedule_becomes
  · exact Becomes.rfl

theorem holdExpiry_becomes : Becomes s s.holdExpiry := by
  unfold State.holdExpiry
  split
  · next h =>
    simp only [Bool.and_eq_true, decide_eq_true_eq] at h
    have hstop : Becomes s (s.withTurn { s.turn with holdTimer := none }) := withTurn_becomes rfl rfl (.inl rfl)
    dsimp only
    split
    · exact hstop
    · next htx =>
      have htx' : (s.withTurn { s.turn with holdTimer := none }).sched.tx = none := by simpa using htx
      split
      · exact (hstop.trans (renewSoleTurn_becomes h.1 htx')).trans schedule_becomes
      · exact hstop.trans (endTurn_becomes h.1 htx')
  · exact Becomes.rfl

theorem afterFailure_becomes (announce : Bool) (hengine : s.turn.engine = .handing)
    (hrun : s.turn.responseTimer ≠ none) : Becomes s (s.afterFailure announce) := by
  have hsole : Becomes s s.beginSoleTurn :=
    Effect.becomes (Effect.toHolding _ rfl rfl (.inr ⟨hengine, rfl⟩))
  unfold State.afterFailure
  split
  · exact beginHandover_becomes .normal _ (.inr hengine) (.inr hrun)
  · refine Becomes.trans ?_ schedule_becomes
    split
    · exact hsole.trans (lineEvent_becomes .sole)
    · exact hsole

theorem handoverFails_becomes (target : Byte) (hengine : s.turn.engine = .handing)
    (hrun : s.turn.responseTimer ≠ none) : Becomes s (s.handoverFails target) := by
  unfold State.handoverFails
  dsimp only
  split
  · exact (((mark_becomes target false).trans (lineEvent_becomes _)).trans (withStats_becomes _)).trans
      (afterFailure_becomes true hengine hrun)
  · exact (withStats_becomes _).trans (afterFailure_becomes true hengine hrun)

/-- R131: what follows a failed handover stops the turn response timer itself. -/
theorem afterFailure_stopped (announce : Bool) :
    (s.withTurn { s.turn with responseTimer := none }).afterFailure announce = s.afterFailure announce := by
  unfold State.afterFailure
  rfl

theorem handoverFails_stopped (target : Byte) :
    (s.withTurn { s.turn with responseTimer := none }).handoverFails target = s.handoverFails target := by
  unfold State.handoverFails
  have hknows : ({ s.turn with responseTimer := none } : TurnController).knows target = s.turn.knows target := rfl
  simp only [withTurn_turn, hknows]
  split
  · exact afterFailure_stopped
      (s := ((s.withTurn (s.turn.mark target false)).lineEvent (.stationSilent target)).withStats
        s.stats.handoverFailure) true
  · exact afterFailure_stopped (s := s.withStats s.stats.handoverFailure) true

theorem responseExpiry_becomes : Becomes s s.responseExpiry := by
  unfold State.responseExpiry
  split
  · next h =>
    simp only [Bool.and_eq_true, decide_eq_true_eq, Option.isSome_iff_ne_none] at h
    obtain ⟨hengine, hrun⟩ := h
    dsimp only
    split
    · rw [afterFailure_stopped]
      exact afterFailure_becomes false hengine hrun
    · split
      · exact Effect.becomes (Effect.sendTurn { s.turn with responseTimer := none, attempt := some 2 } _ rfl
          (.inl ⟨hengine, rfl, .inr hengine⟩) (.inr hrun))
      · rw [handoverFails_stopped]
        exact handoverFails_becomes _ hengine hrun
    · exact withTurn_becomes rfl rfl (.inr rfl)
  · exact Becomes.rfl

theorem tick_becomes : Becomes s s.tick := by
  have hif : ∀ (b : Bool) (t u : State), Becomes t u → Becomes t (if b then u else t) := fun b t u h => by
    split
    · exact h
    · exact Becomes.rfl
  unfold State.tick
  dsimp only
  refine Effect.countDown.becomes.trans
    ((hif (runsOut s.turn.lostTimer) _ _ lostExpiry_becomes).trans ((hif (runsOut s.turn.holdTimer) _ _ holdExpiry_becomes).trans
    ((hif (runsOut s.turn.responseTimer) _ _ responseExpiry_becomes).trans ?_)))
  exact foldl_becomes (fun t e => hif _ _ _ (answerExpiry_becomes e)) allEntries _

theorem idle_becomes : Becomes s s.idle := by
  unfold State.idle
  split
  · exact Becomes.rfl
  · exact tick_becomes

/-! ### The commands -/

theorem setInReset_becomes (p : Port) (b : Bool) : Becomes s (s.modPort p fun ps => { ps with inReset := b }) :=
  modPort_becomes ⟨rfl, rfl, rfl⟩

theorem prstnAsserted_becomes (p : Port) {t : State} (h : execPrstnAsserted p s = .next t) : Becomes s t := by
  unfold execPrstnAsserted at h
  split at h
  · exact Host.Outcome.next.inj h ▸ Becomes.rfl
  · split at h
    · exact Host.Outcome.next.inj h ▸ modPort_becomes ⟨rfl, rfl, rfl⟩
    · rw [← Host.Outcome.next.inj h]
      exact ((portReset_becomes p).trans (setInReset_becomes p true)).trans schedule_becomes

theorem exec_becomes (i : Instr) {t : State} (hnext : exec i s = .next t) : Becomes s t := by
  cases i
  case prstnAsserted p => exact prstnAsserted_becomes p hnext
  case resetAsserted =>
    unfold exec execResetAsserted at hnext
    dsimp only at hnext
    split at hnext
    · exact Host.Outcome.next.inj hnext ▸ Becomes.rfl
    · exact Host.Outcome.next.inj hnext ▸ Effect.reset.becomes
  case frameStart =>
    unfold exec execFrameStart at hnext
    dsimp only at hnext
    split at hnext <;> cases hnext
    · exact Becomes.rfl
    · next hdeaf => exact frameStarts_becomes (tx_of_not_deaf fun hd => hdeaf (by rw [hd]; rfl))
  all_goals rw [← Host.Outcome.next.inj hnext]
  case bufGet r => exact request_becomes fun _ => answerBufGet_becomes r.port
  case bufPut r h => exact request_becomes fun _ => answerBufPut_becomes r.port h
  case bufWrite r h o c => exact requestWithData_becomes fun _ => answerBufWrite_becomes r.port h o c r.rest
  case bufRead r h o c => exact request_becomes fun _ => answerBufRead_becomes r.port h o c
  case connOpen r sv st w pr rl at' => exact request_becomes fun _ => answerConnOpen_becomes r.port sv st w pr rl at'
  case connSend r e h l tag n => exact request_becomes fun _ => answerConnSend_becomes r.port e h l tag n
  case connHold r e => exact request_becomes fun _ => answerConnHold_becomes r.port e
  case connResume r e => exact request_becomes fun _ => answerConnResume_becomes r.port e
  case connClose r e f => exact request_becomes fun _ => answerConnClose_becomes r.port e f
  case connRelease r e => exact request_becomes fun _ => answerConnRelease_becomes r.port e
  case connQuery r e => exact request_becomes fun _ => answerConnQuery_becomes e
  case listenAdd r sv m k w pr rl at' a =>
    exact request_becomes fun _ => answerListenAdd_becomes r.port sv m k w pr rl at' a
  case listenDrop r sv m k => exact request_becomes fun _ => answerListenDrop_becomes r.port sv m k
  case listenList r => exact request_becomes fun _ => Becomes.rfl
  case evtFetch r n => exact request_becomes fun _ => answerEvtFetch_becomes r.port n
  case evtFilter r k f => exact request_becomes fun _ => answerEvtFilter_becomes r.port k f
  case portInfo r => exact request_becomes fun _ => Becomes.rfl
  case portResetRequest r => exact request_becomes fun _ => answerPortReset_becomes r.port
  case cfgTake r => exact request_becomes fun _ => answerCfgTake_becomes r.port
  case cfgPass r h => exact request_becomes fun _ => answerCfgPass_becomes r.port h
  case cfgStation r a => exact request_becomes fun _ => answerCfgStation_becomes r.port a
  case cfgLine r _ _ _ _ _ _ _ => exact request_becomes fun _ => answerCfgLine_becomes r.port _
  case cfgRead r => exact request_becomes fun _ => Becomes.rfl
  case cfgQuota r p re l => exact request_becomes fun _ => answerCfgQuota_becomes r.port p re l
  case turnAdd r a => exact request_becomes fun _ => answerTurnAdd_becomes r.port a
  case turnRemove r a => exact request_becomes fun _ => answerTurnRemove_becomes r.port a
  case turnList r => exact request_becomes fun _ => Becomes.rfl
  case lineStart r => exact request_becomes fun _ => answerLineStart_becomes r.port
  case lineStop r => exact request_becomes fun _ => answerLineStop_becomes r.port
  case lineStatus r c => exact request_becomes fun _ => answerLineStatus_becomes r.port c
  case unknownRequest r code => exact requestWithData_becomes fun _ => refuse_becomes .unknown
  case truncatedRequest p sdi => exact transact_becomes fun _ => modPort_becomes ⟨rfl, rfl, rfl⟩
  case collect p sdi => exact transact_becomes fun _ => Becomes.rfl
  case ignoredTransaction p sdi => exact transact_becomes fun _ => Becomes.rfl
  case prstnReleased p => exact modPort_becomes ⟨rfl, rfl, rfl⟩
  case resetReleased => exact Effect.becomes (Effect.aside _ rfl rfl rfl rfl rfl rfl rfl)
  case frameEnd status bytes => exact frameEnd_becomes status bytes _
  case dataReceived h payload => exact received_becomes .data h payload
  case readyReceived h => exact received_becomes .ready h []
  case waitReceived h => exact received_becomes .wait h []
  case repeatReceived h => exact received_becomes .rept h []
  case openReceived h sv w => exact received_becomes .opening h [sv, w]
  case acceptReceived h w => exact received_becomes .accept h [w]
  case refuseReceived h w => exact received_becomes .refuse h [w]
  case closeReceived h => exact received_becomes .close h []
  case closedReceived h w => exact received_becomes .closed h [w]
  case turnReceived h => exact received_becomes .turn h []
  case endOfTransmission => exact transmissionEnds_becomes
  case transmitFault => exact transmissionFails_becomes
  case answerTimerExpiry e => exact answerExpiry_becomes e
  case lostTimerExpiry => exact lostExpiry_becomes
  case holdTimerExpiry => exact holdExpiry_becomes
  case turnResponseTimerExpiry => exact responseExpiry_becomes
  case schedulerChoice => exact schedule_becomes
  case noticeAdmission p => exact (runArbiter_becomes p).trans schedule_becomes
  case lineReturnsToIdle => exact withLine_becomes _
  case selectFalls fall => exact modPort_becomes (fallAndClock_fields s.resetLow fall.sdi _)

/-- Every step is a chain of effects. -/
theorem step_becomes {t : State} (h : step s = .next t) : Becomes s t := by
  unfold step at h
  split at h
  · cases h
    exact idle_becomes
  · next c rest _ =>
    have hrest : Becomes s (s.withPending rest) := Effect.becomes (Effect.aside _ rfl rfl rfl rfl rfl rfl rfl)
    exact hrest.trans (exec_becomes c h)

end Sys2Proof.Machine
end

section
/-! Several notices of one entry, one after the other: which join the owner's queue and which the entry's list (R105, R106).
An abort, an end and the end of a deferred transmission are a change of the entry followed by such notices. -/

namespace Sys2Proof.Machine

/-- The notices are made in order. -/
def State.makeNotices (s : State) (e : EntryIdx) (ns : List Notice) : State := ns.foldl (fun s n => s.makeNotice e n) s

/-- The record of a held notice, with its alerts mark by the filter in force (R101). -/
def PortState.heldRecord (ps : PortState) (e : EntryIdx) (n : Notice) : EventRecord :=
  { body := .held e n, alerts := ps.filterOf (.held e n) = .alert }

/-- The notice that a message becomes (R13, R15). -/
def Msg.unsent (m : Msg) : Notice := .unsent m.tag m.handle m.length

variable {s : State} {e : EntryIdx} {p : Port}

@[simp] theorem makeNotices_nil : s.makeNotices e [] = s := rfl

theorem makeNotices_cons (n : Notice) (ns : List Notice) :
    s.makeNotices e (n :: ns) = (s.makeNotice e n).makeNotices e ns := rfl

theorem makeNotices_append (ns ms : List Notice) :
    s.makeNotices e (ns ++ ms) = (s.makeNotices e ns).makeNotices e ms := List.foldl_append ..

/-- R7: an entry without an owner, or an orphan, is told nothing. -/
theorem makeNotice_mute (n : Notice) (h : (s.entry e).owner = none ∨ (s.entry e).orphan = true) :
    s.makeNotice e n = s := by
  unfold State.makeNotice
  rcases h with h | h
  · simp [h]
  · simp only [h, if_true]
    split <;> rfl

theorem makeNotices_mute (ns : List Notice) (h : (s.entry e).owner = none ∨ (s.entry e).orphan = true) :
    s.makeNotices e ns = s := by
  induction ns with
  | nil => rfl
  | cons n ns ih => rw [makeNotices_cons, makeNotice_mute n h, ih]

/-- R105: with an empty list and room in the queue, the notice joins the queue. -/
theorem makeNotice_queue (n : Notice) (howner : (s.entry e).owner = some p) (horphan : (s.entry e).orphan = false)
    (hempty : (s.entry e).notices = []) (hroom : (s.port p).queue.length < 47) :
    s.makeNotice e n = s.setPort p { s.port p with queue := (s.port p).queue ++ [(s.port p).heldRecord e n] } := by
  simp [State.makeNotice, howner, horphan, hempty, PortState.hasRoom, Config.queueRoom, hroom, PortState.takeIn,
    PortState.heldRecord]

/-- R105: otherwise it joins the entry's list. -/
theorem makeNotice_list (n : Notice) (howner : (s.entry e).owner = some p) (horphan : (s.entry e).orphan = false)
    (h : (s.entry e).notices ≠ [] ∨ 47 ≤ (s.port p).queue.length) :
    s.makeNotice e n = s.setEntry e { s.entry e with notices := (s.entry e).notices ++ [n] } := by
  have hno : ((s.entry e).notices.isEmpty && (s.port p).hasRoom) = false := by
    rcases h with h | h
    · simp [h]
    · simp [PortState.hasRoom, Config.queueRoom, Nat.not_lt.2 h]
  simp [State.makeNotice, howner, horphan, hno]

/-- The part after notices of entry `e` of port `p`: `told` have joined the queue and `kept` the entry's list. -/
def State.afterNotices (s : State) (p : Port) (e : EntryIdx) (told kept : List Notice) : State :=
  (s.setPort p { s.port p with queue := (s.port p).queue ++ told.map ((s.port p).heldRecord e) }).setEntry e
    { s.entry e with notices := (s.entry e).notices ++ kept }

/-- Where notices go: those that join the queue come first, join it while the entry's list is empty and the queue has
room, and leave none behind while both hold. -/
structure State.Splits (s : State) (p : Port) (e : EntryIdx) (told kept : List Notice) : Prop where
  room : told ≠ [] → (s.entry e).notices = [] ∧ (s.port p).queue.length + told.length ≤ 47
  full : (s.entry e).notices = [] → kept ≠ [] → 47 ≤ (s.port p).queue.length + told.length

theorem afterNotices_nil : s.afterNotices p e [] [] = s := by
  simp only [State.afterNotices, List.map_nil, List.append_nil]
  exact (congrArg (State.setEntry · e (s.entry e)) (setPort_port s p)).trans (setEntry_entry s e)

/-- R105, R106: notices made one after the other. -/
theorem makeNotices_owned (ns : List Notice) (howner : (s.entry e).owner = some p)
    (horphan : (s.entry e).orphan = false) :
    ∃ told kept, ns = told ++ kept ∧ s.Splits p e told kept ∧ s.makeNotices e ns = s.afterNotices p e told kept := by
  induction ns generalizing s with
  | nil => exact ⟨[], [], rfl, ⟨by simp, by simp⟩, afterNotices_nil.symm⟩
  | cons n ns ih =>
    rw [makeNotices_cons]
    by_cases h : (s.entry e).notices = [] ∧ (s.port p).queue.length < 47
    · obtain ⟨hempty, hroom⟩ := h
      rw [makeNotice_queue n howner horphan hempty hroom]
      obtain ⟨told, kept, rfl, hsplit, heq⟩ := ih
        (s := s.setPort p { s.port p with queue := (s.port p).queue ++ [(s.port p).heldRecord e n] }) howner horphan
      have htold := hsplit.room
      have hkept := hsplit.full
      simp only [setPort_entry, port_setPort_same, List.length_append, List.length_singleton] at htold hkept
      refine ⟨n :: told, kept, rfl, ⟨fun _ => ⟨hempty, ?_⟩, fun h0 hk => ?_⟩, ?_⟩
      · rcases eq_or_ne told [] with rfl | hne
        · simpa using hroom
        · have := (htold hne).2
          simp only [List.length_cons]
          omega
      · have := hkept h0 hk
        simp only [List.length_cons]
        omega
      · rw [heq]
        simp only [State.afterNotices, port_setPort_same, setPort_setPort, setPort_entry, List.append_assoc, List.map_cons]
        rfl
    · have hlist : (s.entry e).notices ≠ [] ∨ 47 ≤ (s.port p).queue.length := by
        rw [not_and_or, Nat.not_lt] at h
        exact h
      rw [makeNotice_list n howner horphan hlist]
      obtain ⟨told, kept, rfl, hsplit, heq⟩ := ih
        (s := s.setEntry e { s.entry e with notices := (s.entry e).notices ++ [n] }) (by simpa using howner)
        (by simpa using horphan)
      have hnone : told = [] := by
        by_contra hne
        have := (hsplit.room hne).1
        simp at this
      subst hnone
      refine ⟨[], n :: kept, rfl, ⟨by simp, fun h0 _ => ?_⟩, ?_⟩
      · simpa using hlist.resolve_left (not_not.2 h0)
      · rw [heq]
        simp only [State.afterNotices, setEntry_port, List.map_nil, List.append_nil, entry_setEntry_same,
          List.append_assoc]
        exact setEntry_setEntry (s.setPort p (s.port p)) e _ _

/-- What notices can do, whatever the owner: nothing, or they join a queue and the entry's list. -/
theorem makeNotices_cases (s : State) (e : EntryIdx) (ns : List Notice) :
    s.makeNotices e ns = s ∨
      ∃ p told kept, (s.entry e).owner = some p ∧ (s.entry e).orphan = false ∧ ns = told ++ kept ∧
        s.Splits p e told kept ∧ s.makeNotices e ns = s.afterNotices p e told kept := by
  cases howner : (s.entry e).owner with
  | none => exact .inl (makeNotices_mute ns (.inl howner))
  | some p =>
    cases horphan : (s.entry e).orphan with
    | true => exact .inl (makeNotices_mute ns (.inr horphan))
    | false =>
      obtain ⟨told, kept, h⟩ := makeNotices_owned ns howner horphan
      exact .inr ⟨p, told, kept, rfl, rfl, h⟩

@[simp] theorem afterNotices_entry (told kept : List Notice) :
    (s.afterNotices p e told kept).entry e = { s.entry e with notices := (s.entry e).notices ++ kept } := by
  simp [State.afterNotices]

theorem afterNotices_entry_other {k : EntryIdx} (told kept : List Notice) (h : e ≠ k) :
    (s.afterNotices p e told kept).entry k = s.entry k := by
  simp [State.afterNotices, entry_setEntry_other _ _ h]

@[simp] theorem afterNotices_port (told kept : List Notice) :
    (s.afterNotices p e told kept).port p =
      { s.port p with queue := (s.port p).queue ++ told.map ((s.port p).heldRecord e) } := by
  simp [State.afterNotices]

theorem afterNotices_port_other {q : Port} (told kept : List Notice) (h : p ≠ q) :
    (s.afterNotices p e told kept).port q = s.port q := by
  simp [State.afterNotices, port_setPort_other _ _ h]

theorem makeNotices_aside (s : State) (e : EntryIdx) (ns : List Notice) : Aside s (s.makeNotices e ns) :=
  foldl_aside (fun s n => makeNotice_aside s e n) s ns

@[simp] theorem makeNotices_pool (s : State) (e : EntryIdx) (ns : List Notice) :
    (s.makeNotices e ns).pool = s.pool := by
  induction ns generalizing s with
  | nil => rfl
  | cons n ns ih => rw [makeNotices_cons, ih, makeNotice_pool]

/-- Notices change nothing of their entry but its list. -/
theorem makeNotices_entry (s : State) (e : EntryIdx) (ns : List Notice) :
    (s.makeNotices e ns).entry e = { s.entry e with notices := ((s.makeNotices e ns).entry e).notices } := by
  rcases makeNotices_cases s e ns with h | ⟨p, told, kept, -, -, -, -, h⟩ <;> rw [h]
  simp

theorem makeNotices_entry_other (s : State) {e k : EntryIdx} (ns : List Notice) (h : e ≠ k) :
    (s.makeNotices e ns).entry k = s.entry k := by
  rcases makeNotices_cases s e ns with h' | ⟨p, told, kept, -, -, -, -, h'⟩ <;> rw [h']
  exact afterNotices_entry_other told kept h

/-! ### The passages as notices -/

theorem setEntry_messageOnLine (c : ConnEntry) (k : EntryIdx) :
    (s.setEntry e c).messageOnLine k = s.messageOnLine k := rfl

/-- R13, R15: the messages of an entry become UNSENT notices. -/
theorem unsendMessages_eq (s : State) (e : EntryIdx) :
    s.unsendMessages e =
      (s.setEntry e ((s.entry e).keepOnly (s.messageOnLine e))).makeNotices e
        (((s.entry e).messagesBut (s.messageOnLine e)).map Msg.unsent) := by
  rw [State.makeNotices, List.foldl_map]
  rfl

theorem keepOnly_toClosing (c : ConnEntry) (x : Option Seq) :
    c.toClosing.keepOnly x = (c.keepOnly x).toClosing := rfl

theorem keepOnly_toEnded (c : ConnEntry) (r : EndReason) (x : Option Seq) :
    (c.toEnded r).keepOnly x = (c.keepOnly x).toEnded r := rfl

/-- R13. -/
theorem abortEntry_eq (s : State) (e : EntryIdx) :
    s.abortEntry e =
      (s.setEntry e ((s.entry e).keepOnly (s.messageOnLine e)).toClosing).makeNotices e
        (((s.entry e).messagesBut (s.messageOnLine e)).map Msg.unsent) := by
  rw [State.abortEntry, unsendMessages_eq]
  simp only [modEntry_eq, entry_setEntry_same, setEntry_setEntry, setEntry_messageOnLine, keepOnly_toClosing]
  rfl

/-- The notices of an ending: the messages unsent, and the ENDED notice if none stays. -/
def ConnEntry.endNotices (c : ConnEntry) (x : Option Seq) (r : EndReason) : List Notice :=
  (c.messagesBut x).map Msg.unsent ++ if (c.keepOnly x).unacked.isEmpty then [.ended r] else []

/-- R15. -/
theorem endEntry_eq (s : State) (e : EntryIdx) (r : EndReason) :
    s.endEntry e r =
      (s.setEntry e (((s.entry e).keepOnly (s.messageOnLine e)).toEnded r)).makeNotices e
        ((s.entry e).endNotices (s.messageOnLine e) r) := by
  have hunsend : (s.modEntry e (·.toEnded r)).unsendMessages e =
      (s.setEntry e (((s.entry e).keepOnly (s.messageOnLine e)).toEnded r)).makeNotices e
        (((s.entry e).messagesBut (s.messageOnLine e)).map Msg.unsent) := by
    rw [unsendMessages_eq]
    simp only [modEntry_eq, entry_setEntry_same, setEntry_setEntry, setEntry_messageOnLine, keepOnly_toEnded]
    rfl
  have hunacked : (((s.setEntry e (((s.entry e).keepOnly (s.messageOnLine e)).toEnded r)).makeNotices e
      (((s.entry e).messagesBut (s.messageOnLine e)).map Msg.unsent)).entry e).unacked =
      ((s.entry e).keepOnly (s.messageOnLine e)).unacked := by
    rw [makeNotices_entry, entry_setEntry_same]
    rfl
  unfold State.endEntry
  dsimp only
  rw [hunsend, hunacked, ConnEntry.endNotices, makeNotices_append]
  split <;> rfl

/-- The entry without the message of a sequence number (R18). -/
def ConnEntry.without (c : ConnEntry) (sn : Seq) : ConnEntry := { c with unacked := c.unacked.filter fun k => k.sn ≠ sn }

/-- R18, R52: the notices that the end of a deferred transmission makes. -/
def ConnEntry.deferredNotices (c : ConnEntry) (sn : Seq) (m : SentMsg) : List Notice :=
  m.msg.unsent ::
    match c.state, c.endReason with
    | .ended, some r => if (c.without sn).unacked.isEmpty then [.ended r] else []
    | _, _ => []

theorem finishDeferred_absent {sn : Seq} (h : (s.entry e).unacked.find? (fun m => m.sn = sn) = none) :
    s.finishDeferred e sn = s := by
  simp only [State.finishDeferred, h]

/-- R18, R52: the deferred message leaves the list, and an orphan's buffer is released, or the notices follow. -/
theorem finishDeferred_found {sn : Seq} {m : SentMsg} (h : (s.entry e).unacked.find? (fun m => m.sn = sn) = some m) :
    s.finishDeferred e sn =
      if (s.entry e).orphan then
        (s.entry e).owner.elim (s.setEntry e ((s.entry e).without sn)) fun p =>
          (s.setEntry e ((s.entry e).without sn)).release p m.msg.handle
      else (s.setEntry e ((s.entry e).without sn)).makeNotices e ((s.entry e).deferredNotices sn m) := by
  have hentry : (((s.setEntry e ((s.entry e).without sn)).makeNotice e m.msg.unsent).entry e).unacked =
      ((s.entry e).without sn).unacked := by
    rw [makeNotice_entry, entry_setEntry_same]
  unfold State.finishDeferred
  dsimp only
  rw [h]
  change (if (s.entry e).orphan then
      (match (s.entry e).owner with
        | some p => (s.setEntry e ((s.entry e).without sn)).release p m.msg.handle
        | none => s.setEntry e ((s.entry e).without sn))
    else
      (match (s.entry e).state, (s.entry e).endReason with
        | .ended, some r =>
          if (((s.setEntry e ((s.entry e).without sn)).makeNotice e m.msg.unsent).entry e).unacked.isEmpty then
            ((s.setEntry e ((s.entry e).without sn)).makeNotice e m.msg.unsent).makeNotice e (.ended r)
          else (s.setEntry e ((s.entry e).without sn)).makeNotice e m.msg.unsent
        | _, _ => (s.setEntry e ((s.entry e).without sn)).makeNotice e m.msg.unsent)) = _
  split
  · cases (s.entry e).owner <;> rfl
  · rw [hentry, ConnEntry.deferredNotices, makeNotices_cons]
    cases (s.entry e).state with
    | ended =>
      cases (s.entry e).endReason with
      | none => rfl
      | some r =>
        dsimp only
        split <;> rfl
    | _ => rfl

end Sys2Proof.Machine
end

section
/-! The promises about the pool, the queues, the listen table and single entries: what keeps them, field by field, and that
every effect does. -/

namespace Sys2Proof.Machine

/-! ### What keeps a promise of one block -/

/-- The pool's promises are each kept from itself. -/
structure PoolKept (a b : Pool) : Prop where
  memory : a.memoryOk → b.memoryOk
  quotas : a.quotasOk → b.quotasOk
  reserve : a.reserveLaw → b.reserveLaw
  held : (∀ p, heldOk (a.account p).held) → ∀ p, heldOk (b.account p).held

/-- The promises of a port's queue and filters are each kept from itself. -/
structure PortKept (a b : PortState) : Prop where
  bound : queueOk a.queue → queueOk b.queue
  overflow : overflowOk a.queue → overflowOk b.queue
  filters : heldFiltersOk a.filters → heldFiltersOk b.filters

/-- The promises of a single entry are each kept from itself. -/
structure EntryKept (c d : ConnEntry) : Prop where
  free : (c.state = .free → c = {}) → d.state = .free → d = {}
  bounds : c.boundsOk → d.boundsOk

/-- The four are kept from one part to another. -/
structure Kept (s t : State) : Prop where
  pool : PoolKept s.pool t.pool
  ports : ∀ p, PortKept (s.port p) (t.port p)
  entries : ∀ e, EntryKept (s.entry e) (t.entry e)
  listen : listenOk s.listen → listenOk t.listen

theorem PoolKept.rfl {a : Pool} : PoolKept a a := ⟨id, id, id, id⟩

theorem PoolKept.trans {a b c : Pool} (h : PoolKept a b) (k : PoolKept b c) : PoolKept a c :=
  ⟨k.memory ∘ h.memory, k.quotas ∘ h.quotas, k.reserve ∘ h.reserve, fun x => k.held (h.held x)⟩

theorem PortKept.rfl {a : PortState} : PortKept a a := ⟨id, id, id⟩

theorem PortKept.trans {a b c : PortState} (h : PortKept a b) (k : PortKept b c) : PortKept a c :=
  ⟨k.bound ∘ h.bound, k.overflow ∘ h.overflow, k.filters ∘ h.filters⟩

theorem EntryKept.rfl {a : ConnEntry} : EntryKept a a := ⟨id, id⟩

theorem EntryKept.trans {a b c : ConnEntry} (h : EntryKept a b) (k : EntryKept b c) : EntryKept a c :=
  ⟨k.free ∘ h.free, k.bounds ∘ h.bounds⟩

theorem Kept.trans {s t u : State} (h : Kept s t) (k : Kept t u) : Kept s u :=
  ⟨h.pool.trans k.pool, fun p => (h.ports p).trans (k.ports p), fun e => (h.entries e).trans (k.entries e),
    k.listen ∘ h.listen⟩

/-- A part with the same pool, ports, entries and listen table. -/
theorem Kept.of_eq {s t : State} (hpool : t.pool = s.pool) (hports : t.ports = s.ports)
    (hentries : t.entries = s.entries) (hlisten : t.listen = s.listen) : Kept s t := by
  refine ⟨hpool ▸ .rfl, fun p => ?_, fun e => ?_, hlisten ▸ id⟩
  · rw [State.port, State.port, hports]
    exact .rfl
  · rw [State.entry, State.entry, hentries]
    exact .rfl

theorem Kept.rfl {s : State} : Kept s s := .of_eq (Eq.refl _) (Eq.refl _) (Eq.refl _) (Eq.refl _)

variable {s : State}

theorem setPort_kept {p : Port} {ps : PortState} (h : PortKept (s.port p) ps) : Kept s (s.setPort p ps) := by
  refine ⟨.rfl, fun q => ?_, fun _ => .rfl, id⟩
  by_cases hq : p = q
  · subst hq
    simpa using h
  · rw [port_setPort_other s _ hq]
    exact .rfl

theorem setEntry_kept {e : EntryIdx} {c : ConnEntry} (h : EntryKept (s.entry e) c) : Kept s (s.setEntry e c) := by
  refine ⟨.rfl, fun _ => .rfl, fun k => ?_, id⟩
  by_cases hk : e = k
  · subst hk
    simpa using h
  · rw [entry_setEntry_other s _ hk]
    exact .rfl

theorem withPool_kept {pool : Pool} (h : PoolKept s.pool pool) : Kept s (s.withPool pool) :=
  ⟨h, fun _ => .rfl, fun _ => .rfl, id⟩

theorem foldl_kept {α : Type} {f : State → α → State} (h : ∀ s a, Kept s (f s a)) (xs : List α) (s : State) :
    Kept s (xs.foldl f s) := by
  induction xs generalizing s with
  | nil => exact .rfl
  | cons x xs ih => exact (h s x).trans (ih (f s x))

/-! ### The pool -/

theorem modAccount_account (pool : Pool) (p q : Port) (f : Account → Account) :
    (pool.modAccount p f).account q = if p = q then f (pool.account p) else pool.account q := by
  simp only [Pool.modAccount, Pool.account, look_put]

theorem sum_four (f : Account → Nat) (pool : Pool) :
    (pool.accounts.toList.map f).sum =
      f (pool.account 0) + f (pool.account 1) + f (pool.account 2) + f (pool.account 3) := by
  rw [toList_four]
  simp [Pool.account, Nat.add_assoc]

/-- One port's account changed, a sum over the ports changes by it alone. -/
theorem sum_modAccount (f : Account → Nat) (pool : Pool) (p : Port) (g : Account → Account) :
    ((pool.modAccount p g).accounts.toList.map f).sum + f (pool.account p) =
      (pool.accounts.toList.map f).sum + f (g (pool.account p)) := by
  simp only [sum_four, modAccount_account]
  fin_cases p <;> simp <;> omega

/-- R85: the unused reserves are one's own and the others'. -/
theorem unusedTotal_eq (pool : Pool) (p : Port) :
    pool.unusedTotal = (pool.account p).unused + pool.unusedOthers p := by
  unfold Pool.unusedTotal Pool.unusedOthers
  rw [sum_four]
  fin_cases p <;> simp [List.finRange_succ, Account.unused] <;> omega

theorem quotasOk_of_same {a b : Pool}
    (h : ∀ p, (b.account p).reserve = (a.account p).reserve ∧ (b.account p).limit = (a.account p).limit) :
    a.quotasOk → b.quotasOk := by
  rintro ⟨hlimits, hsum⟩
  refine ⟨fun p => ?_, ?_⟩
  · rw [(h p).1, (h p).2]
    exact hlimits p
  · rw [sum_four] at hsum ⊢
    simpa only [(h _).1] using hsum

/-- An account changed in its charge and held set alone keeps the quotas. -/
theorem modAccount_quotas (pool : Pool) (p : Port) {g : Account → Account}
    (hg : ∀ a, (g a).reserve = a.reserve ∧ (g a).limit = a.limit) (x : List Handle) :
    pool.quotasOk → ({ pool with freeList := x }.modAccount p g).quotasOk := by
  refine quotasOk_of_same fun q => ?_
  rw [modAccount_account]
  split
  · next h => subst h; exact hg _
  · exact ⟨Eq.refl _, Eq.refl _⟩

/-- A change of one held set that keeps its order. -/
theorem modHeld_kept (pool : Pool) (p : Port) {g : List Handle → List Handle} (hg : ∀ l, heldOk l → heldOk (g l)) :
    PoolKept pool (pool.modAccount p fun a => { a with held := g a.held }) := by
  refine ⟨id, modAccount_quotas pool p (g := fun a => { a with held := g a.held })
    (fun _ => ⟨Eq.refl _, Eq.refl _⟩) pool.freeList, fun h => ?_, fun h q => ?_⟩
  · have hsum := sum_modAccount Account.unused pool p fun a => { a with held := g a.held }
    change _ = _ + (pool.account p).unused at hsum
    have : Pool.unusedTotal pool ≤ pool.freeList.length := h
    show Pool.unusedTotal _ ≤ pool.freeList.length
    simp only [Pool.unusedTotal] at this ⊢
    omega
  · rw [modAccount_account]
    split
    · next hq => subst hq; exact hg _ (h p)
    · exact h q

theorem mem_insertHandle {h k : Handle} {l : List Handle} : k ∈ insertHandle h l ↔ k = h ∨ k ∈ l := by
  induction l with
  | nil => simp [insertHandle]
  | cons a rest ih =>
    unfold insertHandle
    split
    · simp
    · split
      · next h' => subst h'; simp
      · simp only [List.mem_cons, ih]
        tauto

theorem insertHandle_ok (h : Handle) {l : List Handle} (hl : heldOk l) : heldOk (insertHandle h l) := by
  unfold heldOk at hl ⊢
  induction l with
  | nil => exact List.pairwise_singleton _ _
  | cons a rest ih =>
    obtain ⟨ha, hrest⟩ := List.pairwise_cons.1 hl
    unfold insertHandle
    split
    · next hlt =>
      refine List.pairwise_cons.2 ⟨fun k hk => ?_, hl⟩
      rcases List.mem_cons.1 hk with rfl | hk
      · exact hlt
      · exact hlt.trans (ha k hk)
    · next hge =>
      split
      · exact hl
      · next hne =>
        refine List.pairwise_cons.2 ⟨fun k hk => ?_, ih hrest⟩
        rcases mem_insertHandle.1 hk with rfl | hk
        · exact lt_of_le_of_ne (not_lt.1 hge) (Ne.symm hne)
        · exact ha k hk

theorem hold_kept (pool : Pool) (p : Port) (h : Handle) : PoolKept pool (pool.hold p h) :=
  modHeld_kept pool p fun _ => insertHandle_ok h

theorem unhold_kept (pool : Pool) (p : Port) (h : Handle) : PoolKept pool (pool.unhold p h) :=
  modHeld_kept pool p fun _ hl => List.Pairwise.filter _ hl

/-- R85, R87: a release adds one to the free count and at most one to the unused reserves. -/
theorem poolRelease_kept (pool : Pool) (p : Port) (h : Handle) : PoolKept pool (pool.release p h) := by
  refine ⟨id, modAccount_quotas pool p (g := fun a => { a with charge := a.charge - 1 })
    (fun _ => ⟨Eq.refl _, Eq.refl _⟩) _, fun hlaw => ?_, fun hheld q => ?_⟩
  · have hsum := sum_modAccount Account.unused { pool with freeList := pool.freeList ++ [h] } p
      fun a => { a with charge := a.charge - 1 }
    have hone : Account.unused { pool.account p with charge := (pool.account p).charge - 1 } ≤
        (pool.account p).unused + 1 := by
      simp only [Account.unused]
      omega
    have hlaw' : Pool.unusedTotal pool ≤ pool.freeList.length := hlaw
    show Pool.unusedTotal (pool.release p h) ≤ (pool.freeList ++ [h]).length
    simp only [Pool.unusedTotal, Pool.release, List.length_append, List.length_singleton] at hlaw' ⊢
    simp only [Pool.account] at hsum hone
    omega
  · by_cases hq : p = q
    · subst hq
      rw [release_account]
      exact hheld p
    · rw [release_account_other pool h hq]
      exact hheld q

/-- R85, R86: an allocation takes one from the free count, and the reserve law leaves room for it. -/
theorem allocate_kept {pool pool' : Pool} {p : Port} {h : Handle} (ha : pool.allocate p = some (h, pool')) :
    PoolKept pool pool' := by
  obtain ⟨hcan, rest, hfree, rfl⟩ := allocate_eq ha
  refine ⟨id, modAccount_quotas pool p (g := fun a => { a with charge := a.charge + 1 })
    (fun _ => ⟨Eq.refl _, Eq.refl _⟩) rest, fun hlaw => ?_, fun hheld q => ?_⟩
  · have hsum := sum_modAccount Account.unused { pool with freeList := rest } p
      fun a => { a with charge := a.charge + 1 }
    have hone : Account.unused { pool.account p with charge := (pool.account p).charge + 1 } =
        (pool.account p).unused - 1 := by
      simp only [Account.unused]
      omega
    have htotal := unusedTotal_eq pool p
    have hlaw' : Pool.unusedTotal pool ≤ pool.freeList.length := hlaw
    simp only [Pool.canAllocate, Bool.or_eq_true, Bool.and_eq_true, decide_eq_true_eq] at hcan
    have hunused : (pool.account p).unused = (pool.account p).reserve - (pool.account p).charge := Eq.refl _
    show Pool.unusedTotal _ ≤ rest.length
    rw [hfree, List.length_cons] at hlaw' hcan
    simp only [Pool.unusedTotal, Pool.modAccount, Pool.account] at hsum hone hlaw' htotal hcan hunused ⊢
    omega
  · have : ∀ q, ({ pool with
        freeList := rest
        accounts := put pool.accounts p { pool.account p with charge := (pool.account p).charge + 1 } } :
          Pool).account q = if p = q then { pool.account p with charge := (pool.account p).charge + 1 }
        else pool.account q := fun q => modAccount_account { pool with freeList := rest } p q
          fun a => { a with charge := a.charge + 1 }
    rw [this]
    split
    · exact hheld p
    · exact hheld q

/-- R80: bytes stored inside a buffer. -/
theorem store_kept (pool : Pool) (h : Handle) (offset : Nat) (bytes : List Byte) (hb : offset + bytes.length ≤ 240) :
    PoolKept pool (pool.store h offset bytes) :=
  ⟨fun hm => store_memoryOk hm h offset bytes hb, id, id, id⟩

/-- R93: the checks of CFG.QUOTA keep the quotas and the reserve law. -/
theorem withQuota_kept {pool : Pool} {q : Port} {reserve limit : Nat} (hlimit : reserve ≤ limit ∧ limit ≤ 192)
    (hsum : (pool.withQuota q reserve limit).reserveTotal ≤ 192)
    (hlaw : (pool.withQuota q reserve limit).unusedTotal ≤ (pool.withQuota q reserve limit).freeList.length) :
    PoolKept pool (pool.withQuota q reserve limit) := by
  refine ⟨id, fun ⟨hlimits, _⟩ => ⟨fun p => ?_, hsum⟩, fun _ => hlaw, fun hheld p => ?_⟩
  · rw [Pool.withQuota, modAccount_account]
    split
    · exact hlimit
    · exact hlimits p
  · rw [Pool.withQuota, modAccount_account]
    split
    · next h => subst h; exact hheld q
    · exact hheld p

/-! ### A port's queue and filters -/

/-- A queue that loses records from its head. -/
theorem queueOk_drop (n : Nat) {q : List EventRecord} (h : queueOk q) : queueOk (q.drop n) := by
  obtain ⟨hlength, hlast⟩ := h
  refine ⟨by simp; omega, fun hfull => ?_⟩
  rcases Nat.eq_zero_or_pos n with rfl | hn
  · exact hlast hfull
  · simp at hfull
    omega

theorem overflowOk_drop (n : Nat) {q : List EventRecord} (h : overflowOk q) : overflowOk (q.drop n) :=
  fun r hr => h r (List.mem_of_mem_drop hr)

theorem overflowOk_append {q : List EventRecord} {r : EventRecord} (h : overflowOk q)
    (hr : ∀ n, r.body = .overflow n → r.alerts = true ∧ 1 ≤ n ∧ n ≤ 255) : overflowOk (q ++ [r]) := by
  intro x hx
  rcases List.mem_append.1 hx with hx | hx
  · exact h x hx
  · rw [List.mem_singleton.1 hx]
    exact hr

/-- Below 47 records there is room for one more. -/
theorem queueOk_append {q : List EventRecord} {r : EventRecord} (hroom : q.length < 47) : queueOk (q ++ [r]) :=
  ⟨by simp; omega, fun h => by simp at h; omega⟩

theorem notOverflow_kept {ps : PortState} {rs : List EventRecord} (a : EntryIdx)
    (hroom : rs ≠ [] → ps.queue.length + rs.length ≤ 47) (hr : ∀ r ∈ rs, r.isOverflow = false) :
    PortKept ps { ps with queue := ps.queue ++ rs, admission := a } := by
  refine ⟨fun h => ?_, fun h => ?_, id⟩
  · rcases eq_or_ne rs [] with rfl | hne
    · simpa using h
    · have := hroom hne
      refine ⟨by simp; omega, fun hfull => ?_⟩
      simp at hfull
      omega
  · intro x hx
    rcases List.mem_append.1 hx with hx | hx
    · exact h x hx
    · intro n hn
      have := hr x hx
      rw [EventRecord.isOverflow, hn] at this
      cases this

theorem isOverflow_iff {r : EventRecord} : r.isOverflow = true ↔ ∃ n, r.body = .overflow n := by
  unfold EventRecord.isOverflow
  split
  · next n h => exact ⟨fun _ => ⟨n, h⟩, fun _ => rfl⟩
  · next h => exact ⟨nofun, fun ⟨n, hn⟩ => absurd hn (h n)⟩

theorem hasRoom_iff {ps : PortState} : ps.hasRoom = true ↔ ps.queue.length < 47 := decide_eq_true_iff

/-- R97, R103, R104: an offer of a droppable event. -/
theorem offer_kept (ps : PortState) {b : EventBody} (hb : b.isDroppable = true) : PortKept ps (ps.offer b) := by
  have hplain : ∀ n, b ≠ .overflow n := fun n h => by
    rw [h] at hb
    cases hb
  unfold PortState.offer
  split
  · exact .rfl
  · split
    · next hroom =>
      exact ⟨fun _ => queueOk_append (hasRoom_iff.1 hroom), fun h => overflowOk_append h fun n hn => absurd hn (hplain n), id⟩
    · next hroom =>
      rw [hasRoom_iff, Nat.not_lt] at hroom
      unfold PortState.countDrop
      split
      · next n alerts hlast =>
        obtain ⟨q, hq⟩ : ∃ q, ps.queue = q ++ [{ body := .overflow n, alerts := alerts }] :=
          List.getLast?_eq_some_iff.1 hlast
        refine ⟨fun h => ?_, fun h => ?_, id⟩
        · have := h.1
          rw [hq] at this ⊢
          refine ⟨by simpa using this, fun _ => ⟨_, List.getLast?_concat .., Eq.refl _⟩⟩
        · rw [hq] at h ⊢
          obtain ⟨halerts, hpos, -⟩ := h _ (List.mem_append_right _ List.mem_cons_self) n rfl
          rw [List.dropLast_concat]
          refine overflowOk_append (fun r hr => h r (List.mem_append_left _ hr)) fun k hk => ?_
          cases hk
          exact ⟨halerts, by simp only [Config.droppedMax]; omega, by simp only [Config.droppedMax]; omega⟩
      · next hlast =>
        refine ⟨fun h => ⟨?_, fun _ => ⟨_, List.getLast?_concat .., Eq.refl _⟩⟩,
          fun h => overflowOk_append h fun k hk => ?_, id⟩
        · obtain ⟨hlength, hfull⟩ := h
          have : ps.queue.length ≠ 48 := fun h48 => by
            obtain ⟨r, hr, hover⟩ := hfull h48
            obtain ⟨n, hn⟩ := isOverflow_iff.1 hover
            exact hlast n r.alerts (by rw [hr, ← hn])
          simp [PortState.takeIn]
          omega
        · cases hk
          exact ⟨by simp [PortState.filterOf, EventBody.filterKind], by omega, by omega⟩

/-- R101, R102. -/
theorem filter_kept (ps : PortState) {k : FilterKind} {f : Filter} (h : ¬ (f = .drop ∧ k.isHeld = true)) :
    PortKept ps { ps with filters := put ps.filters k.slot f } := by
  refine ⟨id, id, fun hf j hj => ?_⟩
  rw [look_put]
  split
  · next hslot =>
    have hjk : k = j := by cases k <;> cases j <;> first | rfl | (simp [FilterKind.slot] at hslot)
    subst hjk
    exact fun hd => h ⟨hd, hj⟩
  · exact hf j hj

theorem filters_reset_ok : heldFiltersOk Filters.reset := by
  intro k hk
  cases k <;> simp [FilterKind.isHeld] at hk <;> decide


/-! ### A single entry -/

/-- An entry that is not FREE before or after, with its bounds kept. -/
theorem EntryKept.of_used {c d : ConnEntry} (hd : d.state ≠ .free) (hbounds : c.boundsOk → d.boundsOk) :
    EntryKept c d := ⟨fun _ h => absurd h hd, hbounds⟩

theorem boundsOk_empty : ({} : ConnEntry).boundsOk := by
  simp [ConnEntry.boundsOk, noticeCount]

theorem EntryKept.empty {c : ConnEntry} : EntryKept c {} := ⟨fun _ _ => Eq.refl _, fun _ => boundsOk_empty⟩

/-- A change outside the state, the messages and the notices, which leaves an entry at its reset values as it is. -/
theorem EntryKept.of_fields {c d : ConnEntry} (hstate : d.state = c.state) (hqueue : d.sendQueue = c.sendQueue)
    (hunacked : d.unacked.length = c.unacked.length) (hnotices : d.notices = c.notices)
    (hfree : c.state ≠ .free ∨ (c = {} → d = {})) : EntryKept c d := by
  refine ⟨fun hc hd => ?_, fun h => ?_⟩
  · rw [hstate] at hd
    exact hfree.resolve_left (not_not.2 hd) (hc hd)
  · have hnil : d.unacked ≠ [] ↔ c.unacked ≠ [] := by
      rw [← List.length_pos_iff, ← List.length_pos_iff, hunacked]
    unfold ConnEntry.boundsOk at h ⊢
    rwa [hstate, hqueue, hunacked, hnotices, hnil]

theorem settleTimer_eq (c : ConnEntry) :
    c.settleTimer =
      { c with answerTimer := c.settleTimer.answerTimer, answerPhase := c.settleTimer.answerPhase } := by
  unfold ConnEntry.settleTimer
  split <;> rfl

theorem endOfBusy_eq (c : ConnEntry) : c.endOfBusy = { c with flags := c.endOfBusy.flags } := by
  unfold ConnEntry.endOfBusy
  split <;> rfl

/-- R88: a re-evaluation changes nothing but flags and the answer timer, and nothing at all of an entry that is not
starved. -/
theorem reconsider_eq (pool : Pool) (c : ConnEntry) :
    c.reconsider pool =
      { c with
        flags := (c.reconsider pool).flags, answerTimer := (c.reconsider pool).answerTimer
        answerPhase := (c.reconsider pool).answerPhase } := by
  unfold ConnEntry.reconsider
  split
  · split
    · rw [settleTimer_eq, endOfBusy_eq]
    · rfl
  · rfl

theorem reconsider_kept (pool : Pool) (c : ConnEntry) : EntryKept c (c.reconsider pool) := by
  rw [reconsider_eq]
  refine .of_fields rfl rfl rfl rfl (.inr ?_)
  rintro rfl
  rw [reconsider_fed pool (Eq.refl _)]

theorem release_kept (p : Port) (h : Handle) : Kept s (s.release p h) := by
  refine ⟨poolRelease_kept s.pool p h, fun q => ?_, fun e => ?_, id⟩
  · exact .rfl
  · rw [release_entry]
    exact reconsider_kept _ _

theorem releaseAll_kept (p : Port) (hs : List Handle) : Kept s (s.releaseAll p hs) :=
  foldl_kept (fun _ h => release_kept p h) hs s

/-- A Tuned entry is OPEN or DRAINING. -/
theorem tuned_kept {c d : ConnEntry} (hlive : c.live = true) (h : c.Tunes d) : EntryKept c d := by
  have hused : c.state ≠ .free := by
    rcases live_iff.1 hlive with h | h <;> rw [h] <;> nofun
  rw [h.fields]
  exact .of_fields rfl rfl rfl rfl (.inl hused)

/-! #### Counts of notices -/

theorem noticeCount_append (k : FilterKind) (ns ms : List Notice) :
    noticeCount k (ns ++ ms) = noticeCount k ns + noticeCount k ms := by
  simp [noticeCount]

theorem noticeCount_sublist (k : FilterKind) {ns ms : List Notice} (h : ns.Sublist ms) :
    noticeCount k ns ≤ noticeCount k ms := (h.filter _).length_le

/-- Every notice is of one of the four held kinds. -/
theorem length_eq_counts (ns : List Notice) :
    ns.length = noticeCount .arrived ns + noticeCount .received ns + noticeCount .unsent ns + noticeCount .ended ns := by
  induction ns with
  | nil => rfl
  | cons n ns ih =>
    cases n <;> simp [noticeCount] at ih ⊢ <;> omega

@[simp] theorem noticeCount_unsent (k : FilterKind) (ms : List Msg) :
    noticeCount k (ms.map Msg.unsent) = if k = .unsent then ms.length else 0 := by
  cases k <;> simp [noticeCount, Msg.unsent, List.filter_map, Function.comp_def]

theorem noticeCount_received (ns : List Notice) :
    noticeCount .received ns = (ns.filter Notice.isReceived).length :=
  congrArg List.length (List.filter_congr fun n _ => by cases n <;> rfl)

/-- R4: the 22 notices follow from the bounds of their kinds. -/
theorem boundsOk_of_counts {c : ConnEntry}
    (hmessages : c.sendQueue.length + c.unacked.length + noticeCount .unsent c.notices ≤ 16)
    (hreceived : noticeCount .received c.notices ≤ 4) (harrived : noticeCount .arrived c.notices ≤ 1)
    (hunsent : c.state = .opening ∨ c.state = .opened ∨ c.state = .draining → noticeCount .unsent c.notices = 0)
    (hended : c.state ≠ .ended ∨ c.unacked ≠ [] → c.state ≠ .free → noticeCount .ended c.notices = 0)
    (hone : noticeCount .ended c.notices ≤ 1) : c.boundsOk := by
  refine ⟨hmessages, hreceived, harrived, ?_, hunsent, hended, hone⟩
  have := length_eq_counts c.notices
  omega

/-- Fewer notices in the list keep the bounds. -/
theorem boundsOk_sublist {c : ConnEntry} {ns : List Notice} (h : ns.Sublist c.notices) (hc : c.boundsOk) :
    ({ c with notices := ns } : ConnEntry).boundsOk := by
  obtain ⟨hmessages, hreceived, harrived, hlength, hunsent, hended, hone⟩ := hc
  have hle := fun k => noticeCount_sublist k h
  have hlen := h.length_le
  refine ⟨(Nat.add_le_add_left (hle .unsent) _).trans hmessages, (hle _).trans hreceived, (hle _).trans harrived, hlen.trans hlength,
    fun hs => ?_, fun hs hf => ?_, (hle _).trans hone⟩
  · exact Nat.le_zero.1 ((hle _).trans (hunsent hs).le)
  · exact Nat.le_zero.1 ((hle _).trans (hended hs hf).le)

/-- An entry changed, and its owner told of it: the bounds are kept if they hold with every notice in the entry's list. -/
theorem changeAndTell_kept {e : EntryIdx} {c : ConnEntry} {ns : List Notice} (hused : c.state ≠ .free)
    (hns : (s.entry e).boundsOk → ({ c with notices := c.notices ++ ns } : ConnEntry).boundsOk) :
    Kept s ((s.setEntry e c).makeNotices e ns) := by
  have hkept : ∀ kept : List Notice, kept.Sublist ns →
      EntryKept (s.entry e) { c with notices := c.notices ++ kept } := fun kept hsub =>
    .of_used hused fun h =>
      boundsOk_sublist (c := { c with notices := c.notices ++ ns }) (hsub.append_left c.notices) (hns h)
  rcases makeNotices_cases (s.setEntry e c) e ns with heq | ⟨p, told, kept, -, -, rfl, hsplit, heq⟩ <;> rw [heq]
  · have := hkept [] (List.nil_sublist _)
    rw [List.append_nil] at this
    exact setEntry_kept this
  · have hport : PortKept ((s.setEntry e c).port p)
        { (s.setEntry e c).port p with
          queue := ((s.setEntry e c).port p).queue ++ told.map (((s.setEntry e c).port p).heldRecord e) } := by
      refine notOverflow_kept ((s.setEntry e c).port p).admission (fun hne => ?_) fun r hr => ?_
      · simpa using (hsplit.room (by simpa using hne)).2
      · obtain ⟨n, -, rfl⟩ := List.mem_map.1 hr
        rfl
    have hentry := hkept kept (List.sublist_append_right told kept)
    refine (setPort_kept (s := s) (p := p) hport).trans ?_
    have hswap : (s.setEntry e c).afterNotices p e told kept =
        (s.setPort p { (s.setEntry e c).port p with
          queue := ((s.setEntry e c).port p).queue ++ told.map (((s.setEntry e c).port p).heldRecord e) }).setEntry e
          { c with notices := c.notices ++ kept } := by
      rw [State.afterNotices, entry_setEntry_same]
      exact setEntry_setEntry (s.setPort p _) e c _
    rw [hswap]
    exact setEntry_kept hentry


/-! #### What passages and frames make of the bounds -/

/-- R3: the messages dealt with at once and the one that stays are all of the entry's. -/
theorem messagesBut_length (c : ConnEntry) (x : Option Seq) :
    (c.messagesBut x).length + (c.keepOnly x).unacked.length = c.sendQueue.length + c.unacked.length := by
  have h := List.length_eq_length_filter_add (l := c.unacked) fun m => decide (some m.sn = x)
  have hnot : (c.unacked.filter fun m => decide (some m.sn ≠ x)).length =
      (c.unacked.filter fun m => !decide (some m.sn = x)).length :=
    congrArg List.length (List.filter_congr fun m _ => by simp)
  simp only [ConnEntry.messagesBut, ConnEntry.keepOnly, List.length_append, List.length_map, hnot]
  omega

/-- What R4 says of an entry that is neither CLOSING nor ENDED nor FREE. -/
theorem boundsOk_early {c : ConnEntry} (h : c.boundsOk) (hs : c.state = .opening ∨ c.live = true) :
    c.sendQueue.length + c.unacked.length ≤ 16 ∧ noticeCount .received c.notices ≤ 4 ∧
      noticeCount .arrived c.notices ≤ 1 ∧ noticeCount .unsent c.notices = 0 ∧ noticeCount .ended c.notices = 0 := by
  obtain ⟨hmessages, hreceived, harrived, -, hunsent, hended, -⟩ := h
  rw [live_iff] at hs
  have h0 := hunsent hs
  refine ⟨by omega, hreceived, harrived, h0, hended (.inl ?_) ?_⟩ <;> rcases hs with h | h | h <;> rw [h] <;> nofun

/-- An entry that has made no notice of an ending yet. -/
theorem boundsOk_quiet {c : ConnEntry} (hmessages : c.sendQueue.length + c.unacked.length ≤ 16)
    (hreceived : noticeCount .received c.notices ≤ 4) (harrived : noticeCount .arrived c.notices ≤ 1)
    (hunsent : noticeCount .unsent c.notices = 0) (hended : noticeCount .ended c.notices = 0) : c.boundsOk :=
  boundsOk_of_counts (by omega) hreceived harrived (fun _ => hunsent) (fun _ _ => hended) (by omega)

theorem abortEntry_kept {e : EntryIdx} (hlive : (s.entry e).live = true) : Kept s (s.abortEntry e) := by
  rw [abortEntry_eq]
  refine changeAndTell_kept (by nofun) fun h => ?_
  obtain ⟨hmessages, hreceived, harrived, hunsent, hended⟩ := boundsOk_early h (.inr hlive)
  have hlength := messagesBut_length (s.entry e) (s.messageOnLine e)
  have hnotices : ((s.entry e).keepOnly (s.messageOnLine e)).toClosing.notices = (s.entry e).notices := rfl
  have hqueue : ((s.entry e).keepOnly (s.messageOnLine e)).toClosing.sendQueue = [] := rfl
  have hunacked : ((s.entry e).keepOnly (s.messageOnLine e)).toClosing.unacked =
    ((s.entry e).keepOnly (s.messageOnLine e)).unacked := rfl
  refine boundsOk_of_counts ?_ ?_ ?_ (by rintro (h | h | h) <;> cases h) (fun _ _ => ?_) ?_ <;>
    simp [hnotices, hqueue, hunacked, noticeCount_append, hunsent, hended] <;> omega

theorem endEntry_kept {e : EntryIdx} (r : EndReason) (hs : (s.entry e).state = .opening ∨ (s.entry e).live = true) :
    Kept s (s.endEntry e r) := by
  rw [endEntry_eq]
  refine changeAndTell_kept (by nofun) fun h => ?_
  obtain ⟨hmessages, hreceived, harrived, hunsent, hended⟩ := boundsOk_early h hs
  have hlength := messagesBut_length (s.entry e) (s.messageOnLine e)
  have hlast : ∀ k, noticeCount k (if ((s.entry e).keepOnly (s.messageOnLine e)).unacked.isEmpty then
      [Notice.ended r] else []) =
      if k = .ended ∧ ((s.entry e).keepOnly (s.messageOnLine e)).unacked = [] then 1 else 0 := by
    intro k
    cases k <;> cases ((s.entry e).keepOnly (s.messageOnLine e)).unacked <;> rfl
  have hnotices : (((s.entry e).keepOnly (s.messageOnLine e)).toEnded r).notices = (s.entry e).notices := rfl
  have hqueue : (((s.entry e).keepOnly (s.messageOnLine e)).toEnded r).sendQueue = [] := rfl
  have hunacked : (((s.entry e).keepOnly (s.messageOnLine e)).toEnded r).unacked =
    ((s.entry e).keepOnly (s.messageOnLine e)).unacked := rfl
  have hstate : (((s.entry e).keepOnly (s.messageOnLine e)).toEnded r).state = .ended := rfl
  refine boundsOk_of_counts ?_ ?_ ?_ (by rintro (h | h | h) <;> cases h) (fun hx _ => ?_) ?_ <;>
    simp only [hnotices, hqueue, hunacked, ConnEntry.endNotices, noticeCount_append, noticeCount_unsent, hunsent,
      hended, hlast] <;> simp
  · omega
  · omega
  · omega
  · simpa [hunacked, hstate] using hx
  · split <;> omega

/-- R18: a deferred message that leaves and is told. -/
theorem deferred_bounds {c : ConnEntry} {sn : Seq} {m : SentMsg}
    (hfind : c.unacked.find? (fun m => m.sn = sn) = some m) (hs : c.state = .closing ∨ c.state = .ended)
    (h : c.boundsOk) :
    ({ c.without sn with notices := (c.without sn).notices ++ c.deferredNotices sn m } : ConnEntry).boundsOk := by
  obtain ⟨hmessages, hreceived, harrived, -, -, hended, hone⟩ := h
  have hmem := List.mem_of_find?_eq_some hfind
  have hsn : m.sn = sn := by simpa using List.find?_some hfind
  have hfewer : (c.without sn).unacked.length < c.unacked.length :=
    List.length_filter_lt_length_iff_exists.2 ⟨m, hmem, by simp [hsn]⟩
  have hne : c.unacked ≠ [] := List.ne_nil_of_mem hmem
  have hzero : noticeCount .ended c.notices = 0 :=
    hended (.inr hne) (by rcases hs with h | h <;> rw [h] <;> nofun)
  have hdeferred : ∃ last : List Notice, c.deferredNotices sn m = m.msg.unsent :: last ∧
      (last = [] ∨ (c.state = .ended ∧ (c.without sn).unacked = [] ∧ ∃ r, last = [.ended r])) := by
    unfold ConnEntry.deferredNotices
    refine ⟨_, rfl, ?_⟩
    split
    · next r hr _ =>
      split
      · next hnil => exact .inr ⟨hr, by simpa using hnil, r, rfl⟩
      · exact .inl rfl
    · exact .inl rfl
  obtain ⟨last, heq, hlast⟩ := hdeferred
  have hunsent : ∀ k, noticeCount k [m.msg.unsent] = if k = .unsent then 1 else 0 := fun k => noticeCount_unsent k [m.msg]
  have hcount : ∀ k, noticeCount k (c.notices ++ m.msg.unsent :: last) =
      noticeCount k c.notices + ((if k = .unsent then 1 else 0) + noticeCount k last) := fun k => by
    rw [← List.singleton_append, noticeCount_append, noticeCount_append, hunsent]
  have hempty : ∀ k, noticeCount k ([] : List Notice) = 0 := fun _ => rfl
  have hend : ∀ k r, noticeCount k [Notice.ended r] = if k = .ended then 1 else 0 := fun k r => by cases k <;> rfl
  rw [heq]
  refine boundsOk_of_counts ?_ ?_ ?_ ?_ ?_ ?_
  · show c.sendQueue.length + (c.without sn).unacked.length + noticeCount .unsent (c.notices ++ m.msg.unsent :: last) ≤ 16
    rcases hlast with rfl | ⟨-, -, r, rfl⟩ <;> simp [hcount, hempty, hend] <;> omega
  · show noticeCount .received (c.notices ++ m.msg.unsent :: last) ≤ 4
    rcases hlast with rfl | ⟨-, -, r, rfl⟩ <;> simpa [hcount, hempty, hend] using hreceived
  · show noticeCount .arrived (c.notices ++ m.msg.unsent :: last) ≤ 1
    rcases hlast with rfl | ⟨-, -, r, rfl⟩ <;> simpa [hcount, hempty, hend] using harrived
  · show c.state = .opening ∨ c.state = .opened ∨ c.state = .draining → _
    rcases hs with h | h <;> simp [h]
  · show c.state ≠ .ended ∨ (c.without sn).unacked ≠ [] → _ → noticeCount .ended (c.notices ++ m.msg.unsent :: last) = 0
    rcases hlast with rfl | ⟨hstate, hnil, r, rfl⟩
    · simp [hcount, hempty, hzero]
    · simp [hstate, hnil]
  · show noticeCount .ended (c.notices ++ m.msg.unsent :: last) ≤ 1
    rcases hlast with rfl | ⟨-, -, r, rfl⟩ <;> simp [hcount, hempty, hend, hzero]

/-- Fewer messages keep the bounds. -/
theorem boundsOk_fewer {c d : ConnEntry} (hstate : d.state = c.state) (hnotices : d.notices = c.notices)
    (hqueue : d.sendQueue.length ≤ c.sendQueue.length) (hunacked : d.unacked.length ≤ c.unacked.length)
    (h : c.boundsOk) : d.boundsOk := by
  have hnil : d.unacked ≠ [] → c.unacked ≠ [] := by
    rw [← List.length_pos_iff, ← List.length_pos_iff]
    omega
  obtain ⟨hmessages, hreceived, harrived, hlength, hunsent, hended, hone⟩ := h
  unfold ConnEntry.boundsOk
  rw [hstate, hnotices]
  exact ⟨by omega, hreceived, harrived, hlength, hunsent, fun h => hended (h.imp_right hnil), hone⟩

theorem finishDeferred_kept {e : EntryIdx} (sn : Seq)
    (hs : (s.entry e).state = .closing ∨ (s.entry e).state = .ended) : Kept s (s.finishDeferred e sn) := by
  have hused : (s.entry e).state ≠ .free := by rcases hs with h | h <;> rw [h] <;> nofun
  have hwithout : Kept s (s.setEntry e ((s.entry e).without sn)) :=
    setEntry_kept (.of_used hused (boundsOk_fewer rfl rfl le_rfl (List.length_filter_le ..)))
  cases hfind : (s.entry e).unacked.find? (fun m => m.sn = sn) with
  | none =>
    rw [finishDeferred_absent hfind]
    exact .rfl
  | some m =>
    rw [finishDeferred_found hfind]
    split
    · cases (s.entry e).owner with
      | none => exact hwithout
      | some p => exact hwithout.trans (release_kept p _)
    · exact changeAndTell_kept hused (deferred_bounds hfind hs)

theorem freeEntry_kept (e : EntryIdx) : Kept s (s.freeEntry e) :=
  (setEntry_kept (s := s) (e := e) .empty).trans (.of_eq rfl rfl rfl rfl)

theorem lineEvent_kept (c : LineCode) : Kept s (s.lineEvent c) :=
  ⟨.rfl, fun p => by rw [lineEvent_port]; exact offer_kept _ rfl, fun _ => .rfl, id⟩

theorem closedEvent_kept (owner : Option Port) (e : EntryIdx) (timedOut : Bool) :
    Kept s (s.closedEvent owner e timedOut) := by
  unfold State.closedEvent
  split
  · exact setPort_kept (offer_kept _ rfl)
  · exact .rfl

theorem entryEvent_kept (e : EntryIdx) {b : EventBody} (hb : b.isDroppable = true) : Kept s (s.entryEvent e b) := by
  rcases entryEvent_cases s e b with h | ⟨p, -, -, h⟩ <;> rw [h]
  · exact .rfl
  · exact setPort_kept (offer_kept _ hb)

theorem startFrame_kept (o : Origin) (f : Frame) (sn : Option Seq) (d : Discharged) :
    Kept s (s.startFrame o f sn d) := by
  rw [startFrame_eq]
  exact .of_eq rfl rfl rfl rfl

theorem toClosing_bounds {c : ConnEntry} (hs : c.state = .closing ∨ c.live = true) (h : c.boundsOk) :
    c.toClosing.boundsOk := by
  obtain ⟨hmessages, hreceived, harrived, hlength, -, hended, hone⟩ := h
  rw [live_iff] at hs
  have hstate : c.state ≠ .ended ∧ c.state ≠ .free := by
    rcases hs with h | h | h <;> rw [h] <;> exact ⟨nofun, nofun⟩
  have hlate : ¬ (c.toClosing.state = .opening ∨ c.toClosing.state = .opened ∨ c.toClosing.state = .draining) := by
    rintro (h | h | h) <;> cases h
  exact ⟨hmessages, hreceived, harrived, hlength, fun h => absurd h hlate,
    fun _ _ => hended (.inl hstate.1) hstate.2, hone⟩

/-- An entry that loses its notices keeps its bounds, whatever its state becomes. -/
theorem boundsOk_muted {c d : ConnEntry} (hnotices : d.notices = []) (hqueue : d.sendQueue.length ≤ c.sendQueue.length)
    (hunacked : d.unacked.length ≤ c.unacked.length) (h : c.boundsOk) : d.boundsOk := by
  have hmessages := h.1
  refine boundsOk_of_counts ?_ ?_ ?_ ?_ ?_ ?_ <;> simp [hnotices, noticeCount]
  omega

/-- R22. -/
theorem resetEntry_kept (p : Port) (e : EntryIdx) : Kept s (s.resetEntry p e) := by
  have hmuted : ∀ d : ConnEntry, d.state ≠ .free → d.notices = [] →
      d.sendQueue.length ≤ (s.entry e).sendQueue.length → d.unacked.length ≤ (s.entry e).unacked.length →
      ∀ hs, Kept s ((s.setEntry e d).releaseAll p hs) := fun d hd hn hq hu hs =>
    (setEntry_kept (.of_used hd (boundsOk_muted hn hq hu))).trans (releaseAll_kept p hs)
  have hkeep := List.length_filter_le (fun m : SentMsg => decide (some m.sn = s.messageOnLine e)) (s.entry e).unacked
  have hstays : (s.entry e).state ≠ .free → Kept s
      ((s.setEntry e { s.entry e with orphan := true, notices := [] }).releaseAll p
        (noticeBuffers (s.entry e).notices)) := fun h =>
      hmuted { s.entry e with orphan := true, notices := [] } h (Eq.refl _) le_rfl le_rfl _
  have hleaves : Kept s
      ((s.setEntry e
        { ((s.entry e).toClosing.keepOnly (s.messageOnLine e)) with orphan := true, notices := [] }).releaseAll p
          (((s.entry e).messagesBut (s.messageOnLine e)).map (·.handle) ++ noticeBuffers (s.entry e).notices)) :=
    hmuted _ (show EntryState.closing ≠ .free by nofun) (Eq.refl _) (Nat.zero_le _) hkeep _
  have hended : Kept s ((s.setEntry e { s.entry e with notices := [] }).releaseAll p
      (noticeBuffers (s.entry e).notices)) ∨ (s.entry e).state = .free := by
    by_cases h : (s.entry e).state = .free
    · exact .inr h
    · exact .inl (hmuted { s.entry e with notices := [] } h (Eq.refl _) le_rfl le_rfl _)
  unfold State.resetEntry
  dsimp only
  split
  · split
    · exact .rfl
    · exact freeEntry_kept e
    · exact hleaves
    · exact hleaves
    · next h =>
      split
      · exact (hstays (by rw [h]; nofun)).trans (freeEntry_kept e)
      · exact hstays (by rw [h]; nofun)
    · next h =>
      split
      · exact (hended.resolve_right (by rw [h]; nofun)).trans (freeEntry_kept e)
      · exact hmuted { (s.entry e).toClosing with orphan := true, notices := [] } (show EntryState.closing ≠ .free by nofun) (Eq.refl _)
          le_rfl le_rfl _
  · exact .rfl

theorem endCloseExchange_kept {e : EntryIdx} (timedOut : Bool) (hs : (s.entry e).state = .closing) :
    Kept s (s.endCloseExchange e timedOut) := by
  unfold State.endCloseExchange
  dsimp only
  split
  · exact freeEntry_kept e
  · split
    · exact (freeEntry_kept e).trans (closedEvent_kept _ _ _)
    · exact setEntry_kept (.of_fields rfl rfl rfl rfl (.inl (by rw [hs]; nofun)))

/-- R108: what follows an admission. -/
theorem afterAdmission_kept {e : EntryIdx} {c : ConnEntry} (n : Notice) (hstate : (s.entry e).state = c.state) :
    Kept s (s.afterAdmission e c n) := by
  have hbusy : Kept s
      (if n.isReceived && c.live && c.noticeFull then s.modEntry e ConnEntry.endOfBusy else s) := by
    split
    · next h =>
      simp only [Bool.and_eq_true] at h
      refine setEntry_kept ?_
      rw [endOfBusy_eq]
      refine .of_fields rfl rfl rfl rfl (.inl ?_)
      rw [hstate]
      rcases live_iff.1 h.1.2 with h | h <;> rw [h] <;> nofun
    · exact .rfl
  unfold State.afterAdmission
  dsimp only
  generalize (if n.isReceived && c.live && c.noticeFull then s.modEntry e ConnEntry.endOfBusy else s) = t at hbusy ⊢
  split
  · exact (hbusy.trans (freeEntry_kept e)).trans (closedEvent_kept _ _ _)
  · exact hbusy

/-- R107, R108: an admission. -/
theorem admit_kept {p : Port} {e : EntryIdx} {n : Notice} {rest : List Notice} (hroom : (s.port p).hasRoom = true)
    (hnotices : (s.entry e).notices = n :: rest) :
    Kept s
      (((s.setEntry e { s.entry e with notices := rest }).modPort p fun ps =>
        { ps.takeIn (.held e n) with admission := e }).afterAdmission e (s.entry e) n) := by
  have hentry : Kept s (s.setEntry e { s.entry e with notices := rest }) := by
    refine setEntry_kept ⟨fun hc hd => ?_, boundsOk_sublist (by rw [hnotices]; exact List.sublist_cons_self n rest)⟩
    rw [hc hd] at hnotices
    cases hnotices
  have hport : Kept (s.setEntry e { s.entry e with notices := rest })
      ((s.setEntry e { s.entry e with notices := rest }).modPort p fun ps =>
        { ps.takeIn (.held e n) with admission := e }) := by
    refine setPort_kept (notOverflow_kept e (rs := [(s.port p).heldRecord e n]) (fun _ => ?_) fun r hr => ?_)
    · exact hasRoom_iff.1 hroom
    · rw [List.mem_singleton.1 hr]
      rfl
  exact (hentry.trans hport).trans (afterAdmission_kept n (by simp))

theorem takeRecords_kept (p : Port) (n : Nat) : Kept s (s.takeRecords p n) := by
  have hhold : ∀ (hs : List Handle) (pool : Pool), PoolKept pool (hs.foldl (fun pool h => pool.hold p h) pool) := by
    intro hs
    induction hs with
    | nil => exact fun _ => .rfl
    | cons h hs ih => exact fun pool => (hold_kept pool p h).trans (ih _)
  have hport : Kept s (s.modPort p fun ps => { ps with queue := ps.queue.drop n }) :=
    setPort_kept ⟨queueOk_drop n, overflowOk_drop n, id⟩
  exact hport.trans (withPool_kept (hhold _ _))

theorem resetQueue_kept (p : Port) : Kept s (s.resetQueue p) := by
  have hport : Kept s (s.modPort p PortState.resetEvents) :=
    setPort_kept ⟨fun _ => ⟨by simp [PortState.resetEvents], by simp [PortState.resetEvents]⟩,
      fun _ => by simp [PortState.resetEvents, overflowOk], fun _ => filters_reset_ok⟩
  exact hport.trans (releaseAll_kept p _)

theorem resetHeld_kept (p : Port) : Kept s (s.resetHeld p) := by
  have hpool : Kept s (s.withPool (s.pool.modAccount p fun a => { a with held := [] })) :=
    withPool_kept (modHeld_kept s.pool p (g := fun _ => []) fun _ _ => List.Pairwise.nil)
  exact hpool.trans (releaseAll_kept p _)


/-! #### A transfer frame -/

theorem takeAck_kept {c : ConnEntry} (en : Seq) (n : Nat) (hused : c.state ≠ .free) : EntryKept c (c.takeAck en n) :=
  .of_used hused (boundsOk_fewer rfl rfl le_rfl (by simp [ConnEntry.takeAck]))

theorem acknowledgeOne_kept (e : EntryIdx) (m : SentMsg) : Kept s (s.acknowledgeOne e m) := by
  have hrelease : Kept s
      (match (s.entry e).owner with
        | some p => s.release p m.msg.handle
        | none => s) := by
    split
    · exact release_kept _ _
    · exact .rfl
  unfold State.acknowledgeOne
  dsimp only
  split
  · exact Kept.trans hrelease (entryEvent_kept e rfl)
  · exact hrelease

theorem acknowledge_kept {e : EntryIdx} (en : Seq) (n : Nat) (hused : (s.entry e).state ≠ .free) :
    Kept s (s.acknowledge e en n) :=
  Kept.trans (setEntry_kept (takeAck_kept en n hused)) (foldl_kept (fun _ m => acknowledgeOne_kept e m) _ _)


/-- What an acknowledgement keeps of its entry. -/
theorem acknowledgeOne_state (e k : EntryIdx) (m : SentMsg) :
    ((s.acknowledgeOne e m).entry k).state = (s.entry k).state := by
  have hevent : ∀ t : State, ((t.entryEvent e (.sent e m.msg.tag)).entry k) = t.entry k := fun t => by
    rcases entryEvent_cases t e (.sent e m.msg.tag) with h | ⟨p, -, -, h⟩ <;> rw [h]
    rfl
  unfold State.acknowledgeOne
  dsimp only
  cases (s.entry e).owner with
  | none =>
    split
    · rw [hevent]
    · rfl
  | some p =>
    have hrelease : ((s.release p m.msg.handle).entry k).state = (s.entry k).state := by
      rw [release_entry]
      exact (reconsider_fields _ _).1
    split
    · rw [hevent, hrelease]
    · exact hrelease

theorem acknowledge_state (e : EntryIdx) (en : Seq) (n : Nat) (k : EntryIdx) :
    ((s.acknowledge e en n).entry k).state = (s.entry k).state := by
  have hfold : ∀ (ms : List SentMsg) (t : State),
      ((ms.foldl (fun s m => s.acknowledgeOne e m) t).entry k).state = (t.entry k).state := by
    intro ms
    induction ms with
    | nil => exact fun _ => rfl
    | cons m ms ih => exact fun t => (ih _).trans (acknowledgeOne_state e k m)
  rw [State.acknowledge, hfold]
  by_cases hk : e = k
  · subst hk
    simp [ConnEntry.takeAck]
  · simp [entry_setEntry_other _ _ hk]

/-- A change of an entry in use outside its state, messages and notices. -/
theorem modEntry_kept {e : EntryIdx} {f : ConnEntry → ConnEntry} (hused : (s.entry e).state ≠ .free)
    (hf : (f (s.entry e)).state = (s.entry e).state ∧ (f (s.entry e)).sendQueue = (s.entry e).sendQueue ∧
      (f (s.entry e)).unacked.length = (s.entry e).unacked.length ∧ (f (s.entry e)).notices = (s.entry e).notices) :
    Kept s (s.modEntry e f) :=
  setEntry_kept (.of_fields hf.1 hf.2.1 hf.2.2.1 hf.2.2.2 (.inl hused))

theorem takeAnswer_fields (c : ConnEntry) (a : Bool) :
    (c.takeAnswer a).state = c.state ∧ (c.takeAnswer a).sendQueue = c.sendQueue ∧
      (c.takeAnswer a).unacked.length = c.unacked.length ∧ (c.takeAnswer a).notices = c.notices := by
  unfold ConnEntry.takeAnswer
  split
  · exact ⟨rfl, rfl, by simp [ConnEntry.markAll], rfl⟩
  · exact ⟨rfl, rfl, rfl, rfl⟩

/-- R51. -/
theorem noticeFull_iff {c : ConnEntry} : c.noticeFull = true ↔ 4 ≤ noticeCount .received c.notices := by
  rw [noticeCount_received]
  exact decide_eq_true_iff

/-- R40: a RECEIVED notice of an entry that is not notice-full. -/
theorem acceptData_bounds {c : ConnEntry} (h : Handle) (n : Nat) (hlive : c.live = true) (hbusy : c.busy = false)
    (hc : c.boundsOk) :
    ({ c.acceptData with notices := c.notices ++ [.received h n] } : ConnEntry).boundsOk := by
  obtain ⟨hmessages, hreceived, harrived, hunsent, hended⟩ := boundsOk_early hc (.inr hlive)
  have hfew : noticeCount .received c.notices < 4 := by
    simp only [ConnEntry.busy, Bool.or_eq_false_iff] at hbusy
    by_contra hfull
    rw [noticeFull_iff.2 (Nat.le_of_not_lt hfull)] at hbusy
    cases hbusy.2
  have hone : ∀ k, noticeCount k [Notice.received h n] = if k = .received then 1 else 0 := fun k => by cases k <;> rfl
  have hcount := fun k => (noticeCount_append k c.notices [.received h n]).trans (congrArg _ (hone k))
  refine boundsOk_of_counts ?_ ?_ ?_ (fun _ => ?_) (fun _ _ => ?_) ?_ <;> simp only [hcount] <;>
    simp [hunsent, hended, ConnEntry.acceptData] <;> omega

theorem storeData_kept {e : EntryIdx} {payload : List Byte} {h : Handle} {pool : Pool} {p : Port}
    (hlive : (s.entry e).live = true) (hbusy : (s.entry e).busy = false) (ha : s.pool.allocate p = some (h, pool))
    (hlength : payload.length ≤ 240) : Kept s (s.storeData e payload h pool) := by
  have hused : (s.entry e).state ≠ .free := by
    rcases live_iff.1 hlive with h | h <;> rw [h] <;> nofun
  have hpool : Kept s (s.withPool (pool.store h 0 payload)) :=
    withPool_kept ((allocate_kept ha).trans (store_kept pool h 0 payload (by omega)))
  have hnotice : Kept (s.withPool (pool.store h 0 payload))
      (((s.withPool (pool.store h 0 payload)).modEntry e ConnEntry.acceptData).makeNotice e
        (.received h payload.length)) :=
    changeAndTell_kept (s := s.withPool (pool.store h 0 payload)) (ns := [.received h payload.length]) hused
      (acceptData_bounds h payload.length hlive hbusy)
  refine (hpool.trans hnotice).trans (modEntry_kept ?_ ?_)
  · rw [makeNotice_entry, modEntry_eq, entry_setEntry_same]
    exact hused
  · unfold ConnEntry.announceBusy ConnEntry.oweWait
    split <;> exact ⟨rfl, rfl, rfl, rfl⟩

theorem takeData_kept {e : EntryIdx} (sn : Seq) {payload : List Byte} (hlive : (s.entry e).live = true)
    (hlength : payload.length ≤ 240) : Kept s (s.takeData e sn payload) := by
  have hused : (s.entry e).state ≠ .free := by
    rcases live_iff.1 hlive with h | h <;> rw [h] <;> nofun
  unfold State.takeData
  dsimp only
  split
  · refine modEntry_kept hused ?_
    unfold ConnEntry.outOfOrder
    split <;> exact ⟨rfl, rfl, rfl, rfl⟩
  · split
    · exact modEntry_kept hused ⟨rfl, rfl, rfl, rfl⟩
    · next hbusy =>
      split
      · next h pool ha =>
        obtain ⟨p, -, ha⟩ := Option.bind_eq_some_iff.1 ha
        exact storeData_kept hlive (by simpa using hbusy) ha hlength
      · exact (modEntry_kept hused ⟨rfl, rfl, rfl, rfl⟩).trans (entryEvent_kept e rfl)

theorem takeStatus_kept {e : EntryIdx} (waiting : Bool) (hused : (s.entry e).state ≠ .free) :
    Kept s (s.takeStatus e waiting) := by
  have hset : Kept s (s.setEntry e
      { s.entry e with flags := { (s.entry e).flags with peerWaiting := waiting } }) :=
    modEntry_kept (f := fun c => { c with flags := { c.flags with peerWaiting := waiting } }) hused
      ⟨rfl, rfl, rfl, rfl⟩
  unfold State.takeStatus
  dsimp only
  split
  · exact hset
  · refine hset.trans (entryEvent_kept e ?_)
    cases waiting <;> rfl

theorem takeKind_kept {e : EntryIdx} {f : Frame} (hlive : (s.entry e).live = true)
    (hpayload : f.kind = .data → f.payload.length ≤ 240) : Kept s (s.takeKind e f) := by
  have hused : (s.entry e).state ≠ .free := by
    rcases live_iff.1 hlive with h | h <;> rw [h] <;> nofun
  unfold State.takeKind
  split
  · next hkind => exact takeData_kept _ hlive (hpayload hkind)
  · exact takeStatus_kept false hused
  · exact takeStatus_kept true hused
  · exact modEntry_kept hused ⟨rfl, rfl, by simp [ConnEntry.markAll], rfl⟩
  · exact .rfl


/-- An event of an entry changes no entry. -/
theorem entryEvent_entry (e k : EntryIdx) (b : EventBody) : (s.entryEvent e b).entry k = s.entry k := by
  rcases entryEvent_cases s e b with h | ⟨p, -, -, h⟩ <;> rw [h]
  rfl

/-- What a transfer frame's kind keeps of its entry. -/
theorem takeKind_state (e : EntryIdx) (f : Frame) : ((s.takeKind e f).entry e).state = (s.entry e).state := by
  have hannounce : ∀ c : ConnEntry, c.announceBusy.state = c.state := fun c => by
    unfold ConnEntry.announceBusy
    split <;> rfl
  have horder : ∀ c : ConnEntry, c.outOfOrder.state = c.state := fun c => by
    unfold ConnEntry.outOfOrder
    split <;> rfl
  have hstatus : ∀ w, ((s.takeStatus e w).entry e).state = (s.entry e).state := fun w => by
    unfold State.takeStatus
    dsimp only
    split
    · simp
    · simp [entryEvent_entry]
  unfold State.takeKind
  split
  · unfold State.takeData
    dsimp only
    split
    · simp [horder]
    · split
      · simp only [modEntry_eq, entry_setEntry_same]
        rfl
      · split
        · simp only [State.storeData, modEntry_eq, entry_setEntry_same, hannounce]
          rw [makeNotice_entry, entry_setEntry_same]
          rfl
        · simp only [modEntry_eq, entryEvent_entry, entry_setEntry_same]
          rfl
  · exact hstatus false
  · exact hstatus true
  · simp [ConnEntry.markAll]
  · rfl

theorem takeQuery_fields (c : ConnEntry) (q : Bool) :
    (c.takeQuery q).state = c.state ∧ (c.takeQuery q).sendQueue = c.sendQueue ∧ (c.takeQuery q).unacked = c.unacked ∧
      (c.takeQuery q).notices = c.notices := by
  unfold ConnEntry.takeQuery
  split <;> exact ⟨rfl, rfl, rfl, rfl⟩

theorem frameTimer_fields (c : ConnEntry) (w p : Bool) :
    (c.frameTimer w p).state = c.state ∧ (c.frameTimer w p).sendQueue = c.sendQueue ∧
      (c.frameTimer w p).unacked = c.unacked ∧ (c.frameTimer w p).notices = c.notices := by
  unfold ConnEntry.frameTimer
  split
  · exact ⟨rfl, rfl, rfl, rfl⟩
  · split <;> exact ⟨rfl, rfl, rfl, rfl⟩

theorem settleTimer_fields (c : ConnEntry) :
    c.settleTimer.state = c.state ∧ c.settleTimer.sendQueue = c.sendQueue ∧ c.settleTimer.unacked = c.unacked ∧
      c.settleTimer.notices = c.notices := by
  rw [settleTimer_eq]
  exact ⟨rfl, rfl, rfl, rfl⟩

/-- R12: a DRAINING entry that enters CLOSING keeps its bounds. -/
theorem drained_kept {c : ConnEntry} (hlive : c.live = true) : EntryKept c c.drained := by
  unfold ConnEntry.drained
  split
  · exact .of_used (show EntryState.closing ≠ .free by nofun) (toClosing_bounds (.inr hlive))
  · exact .rfl

theorem state_ne_free {c : ConnEntry} (hlive : c.live = true) : c.state ≠ .free := by
  rcases live_iff.1 hlive with h | h <;> rw [h] <;> nofun

theorem takeTransfer_kept {e : EntryIdx} {f : Frame} (hlive : (s.entry e).live = true)
    (hpayload : f.kind = .data → f.payload.length ≤ 240) : Kept s (s.takeTransfer e f) := by
  have live_of : ∀ t : State, (t.entry e).state = (s.entry e).state → (t.entry e).live = true := fun t ht => by
    rw [live_iff, ht]
    exact live_iff.1 hlive
  unfold State.takeTransfer
  split
  · exact endEntry_kept .badAck (.inr hlive)
  · next n _ =>
    dsimp only
    have h1 := acknowledge_state (s := s) e (seqEN f.seq) n e
    have k1 := acknowledge_kept (s := s) (seqEN f.seq) n (state_ne_free hlive)
    generalize s.acknowledge e (seqEN f.seq) n = s1 at h1 k1 ⊢
    have h2 : ((s1.modEntry e (·.takeAnswer (seqA f.seq))).entry e).state = (s.entry e).state := by
      rw [modEntry_eq, entry_setEntry_same, (takeAnswer_fields _ _).1, h1]
    have k2 := modEntry_kept (f := fun c => c.takeAnswer (seqA f.seq)) (state_ne_free (live_of s1 h1)) (takeAnswer_fields (s1.entry e) (seqA f.seq))
    generalize s1.modEntry e (·.takeAnswer (seqA f.seq)) = s2 at h2 k2 ⊢
    have h3 := (takeKind_state (s := s2) e f).trans h2
    have k3 := takeKind_kept (live_of s2 h2) hpayload
    generalize s2.takeKind e f = s3 at h3 k3 ⊢
    refine (k1.trans (k2.trans k3)).trans (setEntry_kept ?_)
    have hlive3 := live_of s3 h3
    obtain ⟨q1, q2, q3, q4⟩ := takeQuery_fields (s3.entry e) (seqQ f.seq)
    obtain ⟨f1, f2, f3, f4⟩ := frameTimer_fields ((s3.entry e).takeQuery (seqQ f.seq)) (f.kind = .wait)
      (0 < n || seqA f.seq)
    obtain ⟨t1, t2, t3, t4⟩ := settleTimer_fields (((s3.entry e).takeQuery (seqQ f.seq)).frameTimer (f.kind = .wait)
      (0 < n || seqA f.seq))
    have hstate := t1.trans (f1.trans q1)
    refine (EntryKept.of_fields hstate (t2.trans (f2.trans q2)) (by rw [t3, f3, q3]) (t4.trans (f4.trans q4))
      (.inl (state_ne_free hlive3))).trans (drained_kept ?_)
    rw [live_iff, hstate]
    exact live_iff.1 hlive3


/-! #### Transmissions -/

/-- A change that keeps state, send queue, notices and the number of unacknowledged messages. -/
structure ConnEntry.Alike (c d : ConnEntry) : Prop where
  state : d.state = c.state
  queue : d.sendQueue = c.sendQueue
  unacked : d.unacked.length = c.unacked.length
  notices : d.notices = c.notices

theorem ConnEntry.Alike.kept {c d : ConnEntry} (h : c.Alike d) (hused : c.state ≠ .free) : EntryKept c d :=
  .of_fields h.state h.queue h.unacked h.notices (.inl hused)

theorem startAfterSend_fields (c : ConnEntry) :
    c.startAfterSend =
      { c with answerTimer := c.startAfterSend.answerTimer, answerPhase := c.startAfterSend.answerPhase } := by
  unfold ConnEntry.startAfterSend
  split <;> rfl

theorem sentLive_alike (c : ConnEntry) (t : TxRecord) : c.Alike (c.sentLive t) := by
  unfold ConnEntry.sentLive
  split
  · rw [startAfterSend_fields]
    exact ⟨rfl, rfl, rfl, rfl⟩
  · split
    · rw [startAfterSend_fields]
      exact ⟨rfl, rfl, rfl, rfl⟩
    · split <;> exact ⟨rfl, rfl, rfl, rfl⟩

theorem ConnEntry.Alike.settleTimer {c d : ConnEntry} (h : c.Alike d) : c.Alike d.settleTimer := by
  obtain ⟨hstate, hqueue, hunacked, hnotices⟩ := settleTimer_fields d
  exact ⟨hstate.trans h.state, hqueue.trans h.queue, (congrArg List.length hunacked).trans h.unacked,
    hnotices.trans h.notices⟩

theorem frameSent_kept (e : EntryIdx) (t : TxRecord) : Kept s (s.frameSent e t) := by
  have hlive : (s.entry e).state ≠ .free → Kept s (s.modEntry e fun c => (c.sentLive t).settleTimer) := fun h =>
    setEntry_kept ((sentLive_alike _ t).settleTimer.kept h)
  have hcontrol : (s.entry e).state ≠ .free → Kept s (s.modEntry e ConnEntry.sentControl) := fun h =>
    setEntry_kept (.of_fields rfl rfl rfl rfl (.inl h))
  unfold State.frameSent
  split
  · next h => exact hlive (by rw [h]; nofun)
  · next h => exact hlive (by rw [h]; nofun)
  · next h =>
    split
    · exact hcontrol (by rw [h]; nofun)
    · exact .rfl
  · next h =>
    split
    · exact hcontrol (by rw [h]; nofun)
    · split
      · exact finishDeferred_kept _ (.inl h)
      · exact .rfl
  · next h =>
    split
    · exact finishDeferred_kept _ (.inr h)
    · exact .rfl
  · exact .rfl

theorem frameFailed_kept (e : EntryIdx) (t : TxRecord) : Kept s (s.frameFailed e t) := by
  have hlive : (s.entry e).state ≠ .free → Kept s
      (s.modEntry e fun c => ({ c with flags := c.flags.restore t.discharged } : ConnEntry).remark t.sn) := fun h =>
    setEntry_kept (.of_fields rfl rfl (by simp [ConnEntry.remark]) rfl (.inl h))
  unfold State.frameFailed
  split
  · next h => exact hlive (by rw [h]; nofun)
  · next h => exact hlive (by rw [h]; nofun)
  · next h =>
    split
    · exact finishDeferred_kept _ (.inl h)
    · exact .rfl
  · next h =>
    split
    · exact finishDeferred_kept _ (.inr h)
    · exact .rfl
  all_goals exact .rfl

theorem originSent_kept (t : TxRecord) : Kept s (s.originSent t) := by
  unfold State.originSent
  split
  · split
    · exact .rfl
    · exact frameSent_kept _ t
  · exact .of_eq rfl rfl rfl rfl
  · exact .rfl

theorem originFailed_kept (t : TxRecord) : Kept s (s.originFailed t) := by
  unfold State.originFailed
  split
  · split
    · exact .rfl
    · exact frameFailed_kept _ t
  all_goals exact .rfl

theorem clearTx_kept : Kept s s.clearTx := .of_eq rfl rfl rfl rfl

theorem giveFrame_kept {e : EntryIdx} {c : ConnEntry} (h : EntryKept (s.entry e) c) (f : Frame) (sn : Option Seq)
    (d : Discharged) : Kept s (s.giveFrame e c f sn d) :=
  (setEntry_kept h).trans (startFrame_kept _ _ _ _)

theorem takeMarked_length {list : List SentMsg} {r : SentMsg × List SentMsg} (h : takeMarked list = some r) :
    r.2.length = list.length := by
  induction list generalizing r with
  | nil => cases h
  | cons m rest ih =>
    unfold takeMarked at h
    split at h
    · cases h
      rfl
    · obtain ⟨x, hx, rfl⟩ := Option.map_eq_some_iff.1 h
      simp [ih hx]

/-- R30: a DATA frame moves a message within its entry. -/
theorem takeMessage_fields {c d : ConnEntry} {m : Msg} {sn : Seq} (h : c.takeMessage = some (m, sn, d)) :
    d.state = c.state ∧ d.notices = c.notices ∧
      d.sendQueue.length + d.unacked.length = c.sendQueue.length + c.unacked.length ∧
      d.sendQueue.length ≤ c.sendQueue.length := by
  unfold ConnEntry.takeMessage at h
  split at h
  · next m' list hlist =>
    cases h
    exact ⟨rfl, rfl, by simp [takeMarked_length hlist], le_rfl⟩
  · split at h
    · cases h
    · next m' rest hq =>
      cases h
      exact ⟨rfl, rfl, by simp [hq]; omega, by simp [hq]⟩

theorem giveData_kept {e : EntryIdx} (hlive : (s.entry e).live = true) : Kept s (s.giveData e) := by
  unfold State.giveData
  split
  · exact .rfl
  · next m sn c htake =>
    obtain ⟨hstate, hnotices, hsum, hle⟩ := takeMessage_fields htake
    have hcstate : c.afterData.state ≠ .free := by
      show c.state ≠ .free
      rw [hstate]
      exact state_ne_free hlive
    refine giveFrame_kept (.of_used hcstate fun h => ?_) _ _ _
    obtain ⟨hmessages, hreceived, harrived, hunsent, hended⟩ := boundsOk_early h (.inr hlive)
    have hn : c.afterData.notices = (s.entry e).notices := hnotices
    exact boundsOk_quiet (hsum ▸ hmessages) (hn ▸ hreceived) (hn ▸ harrived) (hn ▸ hunsent) (hn ▸ hended)

theorem eligible_live {c : ConnEntry} (h : c.eligible = true) : c.live = true := by
  simp only [ConnEntry.eligible, Bool.and_eq_true] at h
  exact h.1.1.1

theorem giveStatus_kept {e : EntryIdx} (hused : (s.entry e).state ≠ .free) : Kept s (s.giveStatus e) :=
  giveFrame_kept (c := (s.entry e).afterStatus) (.of_fields rfl rfl rfl rfl (.inl hused)) _ _ _

theorem giveResponse_kept {e : EntryIdx} (hlive : (s.entry e).live = true) : Kept s (s.giveResponse e) := by
  unfold State.giveResponse
  dsimp only
  split
  · exact giveFrame_kept .rfl _ _ _
  · split
    · exact giveFrame_kept
        (c := { s.entry e with flags := { (s.entry e).flags with repeatDue := false, ackDue := false } })
        (.of_fields rfl rfl rfl rfl (.inl (state_ne_free hlive))) _ _ _
    · split
      · exact giveStatus_kept (state_ne_free hlive)
      · split
        · exact giveData_kept hlive
        · exact giveStatus_kept (state_ne_free hlive)

theorem giveInitiative_kept (e : EntryIdx) : Kept s (s.giveInitiative e) := by
  unfold State.giveInitiative
  split
  · exact giveFrame_kept .rfl _ _ _
  · next h =>
    exact giveFrame_kept (c := (s.entry e).settleAbort) (.of_fields rfl rfl rfl rfl (.inl (by rw [h]; nofun))) _ _ _
  · next h => exact giveStatus_kept (by rw [h]; nofun)
  · next h => exact giveStatus_kept (by rw [h]; nofun)
  all_goals exact .rfl

/-- R145: the entry that the response class gives is OPEN or DRAINING. -/
theorem chooseResponse_live {e : EntryIdx} (h : s.chooseResponse = some e) : (s.entry e).live = true := by
  have := (roundRobin_some.1 h).1
  simp only [ConnEntry.inResponse, Bool.and_eq_true] at this
  exact this.1

/-- R145: the choices, by their class. -/
theorem choose_cases {c : Choice} (h : s.choose = some c) :
    (∃ r, s.sched.strays.head? = some r ∧ c = .stray r) ∨ (∃ e, s.chooseResponse = some e ∧ c = .response e) ∨
      s.chooseUnprompted = some c := by
  unfold State.choose at h
  simp only [Option.orElse_eq_some, Option.map_eq_some_iff] at h
  rcases h with ⟨r, hr, rfl⟩ | ⟨-, ⟨e, he, rfl⟩ | ⟨-, h⟩⟩
  · exact .inl ⟨r, hr, rfl⟩
  · exact .inr (.inl ⟨e, he, rfl⟩)
  · exact .inr (.inr h)

theorem abortedInPlace_closing {e : EntryIdx} {q : Fin 4} (h : s.abortedInPlace e q = true) :
    (s.entry e).state = .closing := by
  simp only [State.abortedInPlace, Bool.and_eq_true, decide_eq_true_eq] at h
  exact h.1.1.2

theorem startChoice_kept {c : Choice} (h : s.choose = some c) : Kept s (s.startChoice c) := by
  have hfor := choose_for h
  have hmove : Kept s (s.withSched (s.sched.moveTo c)) := .of_eq rfl rfl rfl rfl
  rcases choose_cases h with ⟨r, -, rfl⟩ | ⟨e, he, rfl⟩ | h
  · exact hmove.trans (startFrame_kept _ _ _ _)
  · exact hmove.trans (giveResponse_kept (s := s.withSched _) (chooseResponse_live (s := s) he))
  · rcases chooseUnprompted_some h with ⟨e, -, rfl⟩ | ⟨p, e, -, -, rfl⟩ | ⟨e, p, k, -, -, habort, -, rfl⟩
    · exact hmove.trans (giveInitiative_kept e)
    · exact hmove.trans (giveData_kept (eligible_live hfor))
    · have hclosing := abortedInPlace_closing habort
      have hsettle : Kept (s.withSched (s.sched.moveTo (.passing e p k)))
          ((s.withSched (s.sched.moveTo (.passing e p k))).modEntry e ConnEntry.settleAbort) :=
        setEntry_kept (.of_fields rfl rfl rfl rfl (.inl (by rw [withSched_entry, hclosing]; nofun)))
      exact (hmove.trans hsettle).trans (giveData_kept (eligible_live hfor))

/-! ### The whole part -/

theorem dropClosing_kept : Kept s s.dropClosing := by
  unfold State.dropClosing
  refine foldl_kept (fun t e => ?_) allEntries s
  split
  · exact freeEntry_kept e
  · exact .rfl

theorem goOffline_kept : Kept s s.goOffline := by
  have hdrop := dropClosing_kept (s := s)
  unfold State.goOffline
  dsimp only
  generalize s.dropClosing = t at hdrop ⊢
  refine (hdrop.trans (.of_eq ?_ ?_ ?_ ?_)).trans (lineEvent_kept .stopped) <;> rfl

theorem tick_fields (c : ConnEntry) :
    c.tick = { c with answerTimer := c.tick.answerTimer, answerPhase := c.tick.answerPhase } := by
  unfold ConnEntry.tick
  split
  · split
    · rfl
    · split <;> rfl
  · rfl

theorem countDown_entry (e : EntryIdx) : s.countDown.entry e = (s.entry e).tick := by
  simp [State.countDown, State.entry]

theorem countDown_kept : Kept s s.countDown := by
  refine ⟨.rfl, fun _ => .rfl, fun e => ?_, id⟩
  rw [countDown_entry, tick_fields]
  refine .of_fields rfl rfl rfl rfl (.inr ?_)
  intro h
  rw [h]
  rfl

theorem deviceReset_port (p : Port) :
    s.deviceReset.port p = PortState.afterReset (s.port p).inReset (s.port p).selectLow := by
  simp [State.deviceReset, State.port]

theorem deviceReset_entry (e : EntryIdx) : s.deviceReset.entry e = {} := look_replicate _ e

theorem reset_account (p : Port) : Pool.reset.account p = {} := by simp [Pool.reset, Pool.account]

/-- R94: the pool after reset has its promises. -/
theorem poolReset_ok : Pool.reset.memoryOk ∧ Pool.reset.quotasOk ∧ Pool.reset.reserveLaw ∧
    ∀ p, heldOk (Pool.reset.account p).held := by
  refine ⟨⟨rfl, nofun⟩, ⟨fun p => ?_, ?_⟩, ?_, fun p => ?_⟩
  · rw [reset_account]
    decide
  · simp only [sum_four, reset_account]
    decide
  · have hlength : Pool.reset.freeList.length = 192 := List.length_finRange
    unfold Pool.reserveLaw Pool.unusedTotal
    simp only [sum_four, reset_account, hlength]
    decide
  · rw [reset_account]
    exact List.Pairwise.nil

theorem listenOk_nil : listenOk [] := ⟨Nat.zero_le _, nofun, List.Pairwise.nil⟩

theorem afterReset_ok (a b : Bool) :
    queueOk (PortState.afterReset a b).queue ∧ overflowOk (PortState.afterReset a b).queue ∧
      heldFiltersOk (PortState.afterReset a b).filters :=
  ⟨⟨Nat.zero_le _, nofun⟩, nofun, filters_reset_ok⟩

theorem deviceReset_kept : Kept s s.deviceReset := by
  obtain ⟨hmemory, hquotas, hreserve, hheld⟩ := poolReset_ok
  refine ⟨⟨fun _ => hmemory, fun _ => hquotas, fun _ => hreserve, fun _ => hheld⟩, fun p => ?_, fun e => ?_,
    fun _ => listenOk_nil⟩
  · rw [deviceReset_port]
    obtain ⟨hbound, hoverflow, hfilters⟩ := afterReset_ok (s.port p).inReset (s.port p).selectLow
    exact ⟨fun _ => hbound, fun _ => hoverflow, fun _ => hfilters⟩
  · rw [deviceReset_entry]
    exact .empty

theorem boundsOk_fresh {c : ConnEntry} (hqueue : c.sendQueue = []) (hunacked : c.unacked = [])
    (hnotices : c.notices = []) : c.boundsOk := by
  refine boundsOk_of_counts ?_ ?_ ?_ ?_ ?_ ?_ <;> simp [hqueue, hunacked, hnotices, noticeCount]

/-- R9: an entry that accepts an OPEN has at most its ARRIVED notice. -/
theorem accepted_bounds (l : ListenEntry) (station index service : Byte) (window : Nat) :
    ({ ConnEntry.accepted l station index service window with
       notices := [.arrived station service] } : ConnEntry).boundsOk := by
  refine boundsOk_of_counts ?_ ?_ ?_ ?_ ?_ ?_ <;> simp [ConnEntry.accepted, noticeCount]

/-- R25: below 16 messages there is room for one more. -/
theorem enqueue_kept {c : ConnEntry} (m : Msg) (hopened : c.state = .opened)
    (hroom : c.sendQueue.length + c.unacked.length < 16) : EntryKept c (c.enqueue m).settleTimer := by
  obtain ⟨hstate, hqueue, hunacked, hnotices⟩ := settleTimer_fields (c.enqueue m)
  have hs : (c.enqueue m).settleTimer.state = .opened := hstate.trans hopened
  refine .of_used (by rw [hs]; nofun) fun h => ?_
  obtain ⟨-, hreceived, harrived, hunsent, hended⟩ := boundsOk_early h (.inr (live_iff.2 (.inl hopened)))
  have hn : (c.enqueue m).settleTimer.notices = c.notices := hnotices
  refine boundsOk_quiet ?_ (hn ▸ hreceived) (hn ▸ harrived) (hn ▸ hunsent) (hn ▸ hended)
  rw [hqueue, hunacked]
  simp [ConnEntry.enqueue]
  omega

/-- R11: the DRAIN form of a close. -/
theorem drain_kept {c : ConnEntry} (hopened : c.state = .opened) : EntryKept c c.toDraining.settleTimer.drained := by
  obtain ⟨hstate, hqueue, hunacked, hnotices⟩ := settleTimer_fields c.toDraining
  have hlive : c.toDraining.settleTimer.live = true := live_iff.2 (.inr hstate)
  refine EntryKept.trans (.of_used (state_ne_free hlive) fun h => ?_) (drained_kept hlive)
  obtain ⟨hmessages, hreceived, harrived, hunsent, hended⟩ := boundsOk_early h (.inr (live_iff.2 (.inl hopened)))
  have hn : c.toDraining.settleTimer.notices = c.notices := hnotices
  refine boundsOk_quiet ?_ (hn ▸ hreceived) (hn ▸ harrived) (hn ▸ hunsent) (hn ▸ hended)
  rw [hqueue, hunacked]
  exact hmessages

/-- R69: an OPENING entry that becomes OPEN. -/
theorem toOpen_kept {c : ConnEntry} (index : Byte) (window : Nat) (h : c.state = .opening) :
    EntryKept c (c.toOpen index window) := by
  refine .of_used (show EntryState.opened ≠ .free by nofun) fun hb => ?_
  obtain ⟨hmessages, hreceived, harrived, hunsent, hended⟩ := boundsOk_early hb (.inl h)
  exact boundsOk_quiet hmessages hreceived harrived hunsent hended

/-- Every effect keeps the promises of the pool, the queues, the listen table and single entries. -/
theorem Effect.kept {t : State} (h : Effect s t) : Kept s t := by
  cases h with
  | transaction p ps hqueue hfilters _ =>
    exact setPort_kept ⟨by rw [hqueue]; exact id, by rw [hqueue]; exact id, by rw [hfilters]; exact id⟩
  | offer p b hb => exact setPort_kept (offer_kept _ hb)
  | lineEvent c => exact lineEvent_kept c
  | filter p k f h => exact setPort_kept (filter_kept _ h)
  | fetch p n => exact takeRecords_kept p n
  | admission p e n rest hroom _ hnotices => exact admit_kept hroom hnotices
  | resetEntry p e => exact resetEntry_kept p e
  | resetQueue p => exact resetQueue_kept p
  | resetHeld p => exact resetHeld_kept p
  | getBuffer p h pool ha => exact withPool_kept ((allocate_kept ha).trans (hold_kept pool p h))
  | putBuffer p h _ => exact (withPool_kept (unhold_kept s.pool p h)).trans (release_kept p h)
  | store h offset bytes hb => exact withPool_kept (store_kept s.pool h offset bytes hb)
  | quota q reserve limit hlimit hsum hlaw => exact withPool_kept (withQuota_kept hlimit hsum hlaw)
  | station a _ => exact .of_eq rfl rfl rfl rfl
  | aside t hentries hports hpool hlisten _ _ _ => exact .of_eq hpool hports hentries hlisten
  | listen l hl => exact ⟨.rfl, fun _ => .rfl, fun _ => .rfl, hl⟩
  | reset => exact deviceReset_kept
  | openEntry p e service station window pr limit time _ _ _ _ _ =>
    exact setEntry_kept (.of_used (show EntryState.opening ≠ .free by nofun) fun _ => boundsOk_fresh rfl rfl rfl)
  | send p e m _ hopened hroom _ =>
    exact (withPool_kept (unhold_kept s.pool p m.handle)).trans (setEntry_kept (enqueue_kept m hopened hroom))
  | tune e d hlive hd => exact setEntry_kept (tuned_kept hlive hd)
  | retry e d hstate _ _ =>
    refine setEntry_kept (.of_fields rfl rfl rfl rfl (.inl ?_))
    rcases hstate with ⟨h, -⟩ | ⟨h, -⟩ <;> rw [h] <;> nofun
  | abort e b hlive =>
    have hmark : Kept s (s.setEntry e { s.entry e with aborted := b }) :=
      setEntry_kept (.of_fields rfl rfl rfl rfl (.inl (state_ne_free hlive)))
    refine hmark.trans (abortEntry_kept ?_)
    rw [entry_setEntry_same]
    exact hlive
  | drain e hopened => exact setEntry_kept (drain_kept hopened)
  | free e _ => exact freeEntry_kept e
  | finish e r h => exact endEntry_kept r h
  | badAccept e index h =>
    have hindex : Kept s (s.setEntry e { s.entry e with remoteIndex := some index }) :=
      setEntry_kept (.of_fields rfl rfl rfl rfl (.inl (by rw [h]; nofun)))
    refine hindex.trans (endEntry_kept .protocol (.inl ?_))
    rw [entry_setEntry_same]
    exact h
  | toOpen e station index window h _ _ _ => exact setEntry_kept (toOpen_kept index window h)
  | accept l e station index service window _ _ _ _ _ =>
    exact changeAndTell_kept (ns := [.arrived station service]) (show EntryState.opened ≠ .free by nofun)
      fun _ => accepted_bounds l station index service window
  | transfer e f hlive hpayload _ => exact takeTransfer_kept hlive hpayload
  | endExchange e timedOut h _ => exact endCloseExchange_kept timedOut h
  | sent t _ => exact (originSent_kept t).trans clearTx_kept
  | failed t _ => exact (originFailed_kept t).trans clearTx_kept
  | start c _ _ hc => exact startChoice_kept hc
  | offerStray r => rcases offerStray_cases s r with h | ⟨-, -, h⟩ | h <;> rw [h] <;> exact .of_eq rfl rfl rfl rfl
  | retime tc _ _ _ => exact .of_eq rfl rfl rfl rfl
  | toWaiting tc _ _ _ _ => exact .of_eq rfl rfl rfl rfl
  | toHolding tc _ _ _ => exact .of_eq rfl rfl rfl rfl
  | toStopping tc _ _ _ _ _ => exact .of_eq rfl rfl rfl rfl
  | sendTurn tc a _ _ _ => exact Kept.trans (t := s.withTurn tc) (.of_eq rfl rfl rfl rfl) (startFrame_kept _ _ _ _)
  | offline _ _ => exact goOffline_kept
  | countDown => exact countDown_kept

theorem Becomes.kept {t : State} (h : Becomes s t) : Kept s t := by
  induction h with
  | refl => exact .rfl
  | tail _ k ih => exact ih.trans k.kept

/-- Settles O54: the pool's promises are kept by every effect, and a step is a chain of effects. -/
theorem everyStepKeepsThePool : Obligations.EveryStepKeepsThePool := by
  intro s t h
  have k := (step_becomes h).kept.pool
  exact ⟨k.memory, k.quotas, k.reserve, k.held⟩

/-- Settles O55: the promises of each port's event side are kept by every effect. -/
theorem everyStepKeepsTheQueues : Obligations.EveryStepKeepsTheQueues := by
  intro s t h
  have k := (step_becomes h).kept.ports
  exact ⟨fun hs p => (k p).bound (hs p), fun hs p => (k p).overflow (hs p), fun hs p => (k p).filters (hs p)⟩

/-- Settles O57: the listen table and each entry by itself keep their promises at every effect. -/
theorem everyStepKeepsTheTables : Obligations.EveryStepKeepsTheTables := by
  intro s t h
  have k := (step_becomes h).kept
  exact ⟨k.listen, fun hs e => (k.entries e).free (hs e), fun hs e => (k.entries e).bounds (hs e)⟩

end Sys2Proof.Machine
end

section
/-! The promises about the turn list, the frame on the line, the stray replies and the turn response timer: each is kept
by every effect. -/

namespace Sys2Proof.Machine

/-- The promises about the line are each kept from themselves. -/
structure LineKept (s t : State) : Prop where
  list : turnListOk s.config.station s.turn.list → turnListOk t.config.station t.turn.list
  transmits : transmitsOk s → transmitsOk t
  handing : handingSendsTurn s → handingSendsTurn t
  strays : straysOk s → straysOk t
  waits : handingWaits s → handingWaits t

theorem LineKept.rfl {s : State} : LineKept s s := ⟨id, id, id, id, id⟩

theorem LineKept.trans {s t u : State} (h : LineKept s t) (k : LineKept t u) : LineKept s u :=
  ⟨k.list ∘ h.list, k.transmits ∘ h.transmits, k.handing ∘ h.handing, k.strays ∘ h.strays, k.waits ∘ h.waits⟩

/-- The turn controller, the station address, the stray replies and the origin of the frame on the line are the same. -/
structure LineSame (s t : State) : Prop where
  turn : t.turn = s.turn
  station : t.config.station = s.config.station
  strays : t.sched.strays = s.sched.strays
  origin : t.sched.tx.map (·.origin) = s.sched.tx.map (·.origin)

theorem LineSame.rfl {s : State} : LineSame s s := ⟨Eq.refl _, Eq.refl _, Eq.refl _, Eq.refl _⟩

theorem LineSame.trans {s t u : State} (h : LineSame s t) (k : LineSame t u) : LineSame s u :=
  ⟨k.turn.trans h.turn, k.station.trans h.station, k.strays.trans h.strays, k.origin.trans h.origin⟩

theorem Aside.lineSame {s t : State} (h : Aside s t) : LineSame s t :=
  ⟨h.turn, by rw [h.config], by rw [h.sched], by rw [h.sched]⟩

theorem LineSame.kept {s t : State} (h : LineSame s t) : LineKept s t := by
  have hsome : t.sched.tx.isSome = s.sched.tx.isSome := by
    have := congrArg Option.isSome h.origin
    simpa only [Option.isSome_map] using this
  refine ⟨by rw [h.turn, h.station]; exact id, fun hs => ?_, fun hs he x hx => ?_, ?_, fun hs hr => ?_⟩
  · unfold transmitsOk at hs ⊢
    rwa [hsome, h.turn]
  · obtain ⟨y, hy, hxy⟩ := Option.map_eq_some_iff.1 (h.origin.symm.trans (congrArg (Option.map (·.origin)) hx))
    obtain ⟨a, ha⟩ := hs (h.turn ▸ he) y hy
    exact ⟨a, hxy.symm.trans ha⟩
  · unfold straysOk
    rw [h.strays, h.turn]
    exact id
  · obtain ⟨hengine, htx⟩ := hs (h.turn ▸ hr)
    refine ⟨h.turn ▸ hengine, ?_⟩
    rw [← Option.not_isSome_iff_eq_none, hsome, htx]
    nofun

variable {s : State}

/-! ### What leaves the line alone -/

theorem setPort_lineSame (p : Port) (ps : PortState) : LineSame s (s.setPort p ps) := (setPort_aside s p ps).lineSame

theorem setEntry_lineSame (e : EntryIdx) (c : ConnEntry) : LineSame s (s.setEntry e c) := (setEntry_aside s e c).lineSame

theorem withPool_lineSame (pool : Pool) : LineSame s (s.withPool pool) := by constructor <;> rfl

/-- R17: a frame that is detached keeps its origin. -/
theorem detachFrom_origin (e : EntryIdx) (t : TxRecord) : (t.detachFrom e).origin = t.origin := by
  unfold TxRecord.detachFrom
  split <;> rfl

theorem freeEntry_lineSame (e : EntryIdx) : LineSame s (s.freeEntry e) := by
  refine ⟨rfl, rfl, rfl, ?_⟩
  rw [freeEntry_eq]
  simp [Function.comp_def, detachFrom_origin]

theorem closedEvent_lineSame (owner : Option Port) (e : EntryIdx) (b : Bool) : LineSame s (s.closedEvent owner e b) := by
  unfold State.closedEvent
  split
  · exact setPort_lineSame _ _
  · exact .rfl

theorem releaseAll_lineSame (p : Port) (hs : List Handle) : LineSame s (s.releaseAll p hs) :=
  (releaseAll_aside s p hs).lineSame

theorem resetEntry_lineSame (p : Port) (e : EntryIdx) : LineSame s (s.resetEntry p e) := by
  have hgive : ∀ d hs, LineSame s ((s.setEntry e d).releaseAll p hs) := fun d hs =>
    (setEntry_lineSame e d).trans (releaseAll_lineSame p hs)
  unfold State.resetEntry
  dsimp only
  split
  · split
    · exact .rfl
    · exact freeEntry_lineSame e
    · exact hgive _ _
    · exact hgive _ _
    · split
      · exact (hgive _ _).trans (freeEntry_lineSame e)
      · exact hgive _ _
    · split
      · exact (hgive _ _).trans (freeEntry_lineSame e)
      · exact hgive _ _
  · exact .rfl

theorem afterAdmission_lineSame (e : EntryIdx) (c : ConnEntry) (n : Notice) : LineSame s (s.afterAdmission e c n) := by
  have hbusy : LineSame s
      (if n.isReceived && c.live && c.noticeFull then s.modEntry e ConnEntry.endOfBusy else s) := by
    split
    · exact setEntry_lineSame e _
    · exact .rfl
  unfold State.afterAdmission
  dsimp only
  generalize (if n.isReceived && c.live && c.noticeFull then s.modEntry e ConnEntry.endOfBusy else s) = t at hbusy ⊢
  split
  · exact (hbusy.trans (freeEntry_lineSame e)).trans (closedEvent_lineSame _ _ _)
  · exact hbusy

theorem endCloseExchange_lineSame (e : EntryIdx) (b : Bool) : LineSame s (s.endCloseExchange e b) := by
  unfold State.endCloseExchange
  dsimp only
  split
  · exact freeEntry_lineSame e
  · split
    · exact (freeEntry_lineSame e).trans (closedEvent_lineSame _ _ _)
    · exact setEntry_lineSame e _

theorem acknowledgeOne_aside (e : EntryIdx) (m : SentMsg) : Aside s (s.acknowledgeOne e m) := by
  have hrelease : Aside s
      (match (s.entry e).owner with
        | some p => s.release p m.msg.handle
        | none => s) := by
    split
    · exact release_aside s _ _
    · exact Aside.rfl
  unfold State.acknowledgeOne
  dsimp only
  split
  · exact hrelease.trans (entryEvent_aside _ e _)
  · exact hrelease

theorem acknowledge_aside (e : EntryIdx) (en : Seq) (n : Nat) : Aside s (s.acknowledge e en n) :=
  (setEntry_aside s e _).trans (foldl_aside (fun _ m => acknowledgeOne_aside e m) _ _)

theorem withPool_aside (pool : Pool) : Aside s (s.withPool pool) := by constructor <;> rfl

theorem takeKind_aside (e : EntryIdx) (f : Frame) : Aside s (s.takeKind e f) := by
  have hmod : ∀ g, Aside s (s.modEntry e g) := fun g => setEntry_aside s e _
  have hstatus : ∀ w, Aside s (s.takeStatus e w) := fun w => by
    unfold State.takeStatus
    dsimp only
    split
    · exact setEntry_aside s e _
    · exact (setEntry_aside s e _).trans (entryEvent_aside _ e _)
  unfold State.takeKind
  split
  · unfold State.takeData
    dsimp only
    split
    · exact hmod _
    · split
      · exact hmod _
      · split
        · exact (((withPool_aside _).trans (setEntry_aside _ e _)).trans (makeNotice_aside _ e _)).trans
            (setEntry_aside _ e _)
        · exact (hmod _).trans (entryEvent_aside _ e _)
  · exact hstatus false
  · exact hstatus true
  · exact hmod _
  · exact Aside.rfl

/-- R33: a transfer frame changes entries, ports and the pool alone. -/
theorem takeTransfer_aside (e : EntryIdx) (f : Frame) : Aside s (s.takeTransfer e f) := by
  unfold State.takeTransfer
  split
  · exact endEntry_aside s e _
  · exact (((acknowledge_aside e _ _).trans (setEntry_aside _ e _)).trans (takeKind_aside e f)).trans
      (setEntry_aside _ e _)

theorem finishDeferred_aside (e : EntryIdx) (sn : Seq) : Aside s (s.finishDeferred e sn) := by
  cases hfind : (s.entry e).unacked.find? (fun m => m.sn = sn) with
  | none =>
    rw [finishDeferred_absent hfind]
    exact Aside.rfl
  | some m =>
    rw [finishDeferred_found hfind]
    split
    · cases (s.entry e).owner with
      | none => exact setEntry_aside s e _
      | some p => exact (setEntry_aside s e _).trans (release_aside _ p _)
    · exact (setEntry_aside s e _).trans (makeNotices_aside _ e _)

theorem frameSent_aside (e : EntryIdx) (t : TxRecord) : Aside s (s.frameSent e t) := by
  have hmod : ∀ g, Aside s (s.modEntry e g) := fun g => setEntry_aside s e _
  unfold State.frameSent
  split
  · exact hmod _
  · exact hmod _
  · split
    · exact hmod _
    · exact Aside.rfl
  · split
    · exact hmod _
    · split
      · exact finishDeferred_aside e _
      · exact Aside.rfl
  · split
    · exact finishDeferred_aside e _
    · exact Aside.rfl
  · exact Aside.rfl

theorem frameFailed_aside (e : EntryIdx) (t : TxRecord) : Aside s (s.frameFailed e t) := by
  unfold State.frameFailed
  split
  · exact setEntry_aside s e _
  · exact setEntry_aside s e _
  · split
    · exact finishDeferred_aside e _
    · exact Aside.rfl
  · split
    · exact finishDeferred_aside e _
    · exact Aside.rfl
  all_goals exact Aside.rfl

/-! ### What ends a transmission -/

/-- The frame on the line gone, and some stray replies with it. -/
theorem lineKept_cleared {t : State} (hturn : t.turn = s.turn) (hstation : t.config.station = s.config.station)
    (hstrays : t.sched.strays.Sublist s.sched.strays) (htx : t.sched.tx = none) : LineKept s t := by
  refine ⟨by rw [hturn, hstation]; exact id, fun _ h => ?_, fun _ _ x hx => ?_, fun ⟨hlength, hoff⟩ => ⟨?_, fun h => ?_⟩,
    fun hs hr => ⟨?_, htx⟩⟩
  · rw [htx] at h
    cases h
  · rw [htx] at hx
    cases hx
  · exact hstrays.length_le.trans hlength
  · rw [hturn] at h
    exact List.sublist_nil.1 (hoff h ▸ hstrays)
  · rw [hturn] at hr ⊢
    exact (hs hr).1

theorem originSent_line (t : TxRecord) :
    (s.originSent t).turn = s.turn ∧ (s.originSent t).config.station = s.config.station ∧
      (s.originSent t).sched.strays.Sublist s.sched.strays := by
  unfold State.originSent
  split
  · next e _ =>
    split
    · exact ⟨rfl, rfl, .refl _⟩
    · have h := frameSent_aside (s := s) e t
      exact ⟨h.turn, by rw [h.config], by rw [h.sched]⟩
  · exact ⟨rfl, rfl, List.drop_sublist 1 _⟩
  · exact ⟨rfl, rfl, .refl _⟩

theorem originFailed_aside (t : TxRecord) : Aside s (s.originFailed t) := by
  unfold State.originFailed
  split
  · split
    · exact Aside.rfl
    · exact frameFailed_aside _ t
  all_goals exact Aside.rfl

/-! ### What starts a frame -/

/-- The turn controller, the configuration and the stray replies are the same. -/
structure TurnSame (s t : State) : Prop where
  turn : t.turn = s.turn
  config : t.config = s.config
  strays : t.sched.strays = s.sched.strays

theorem TurnSame.rfl {s : State} : TurnSame s s := ⟨Eq.refl _, Eq.refl _, Eq.refl _⟩

theorem TurnSame.trans {s t u : State} (h : TurnSame s t) (k : TurnSame t u) : TurnSame s u :=
  ⟨k.turn.trans h.turn, k.config.trans h.config, k.strays.trans h.strays⟩

theorem startFrame_turnSame (o : Origin) (f : Frame) (sn : Option Seq) (d : Discharged) :
    TurnSame s (s.startFrame o f sn d) := by
  rw [startFrame_eq]
  exact ⟨rfl, rfl, rfl⟩

theorem giveFrame_turnSame (e : EntryIdx) (c : ConnEntry) (f : Frame) (sn : Option Seq) (d : Discharged) :
    TurnSame s (s.giveFrame e c f sn d) := by
  have hset : TurnSame s (s.setEntry e c) := ⟨rfl, rfl, rfl⟩
  exact hset.trans (startFrame_turnSame _ f sn d)

theorem giveData_turnSame (e : EntryIdx) : TurnSame s (s.giveData e) := by
  unfold State.giveData
  split
  · exact .rfl
  · exact giveFrame_turnSame e _ _ _ _

theorem giveResponse_turnSame (e : EntryIdx) : TurnSame s (s.giveResponse e) := by
  unfold State.giveResponse
  dsimp only
  split
  · exact giveFrame_turnSame e _ _ _ _
  · split
    · exact giveFrame_turnSame e _ _ _ _
    · split
      · exact giveFrame_turnSame e _ _ _ _
      · split
        · exact giveData_turnSame e
        · exact giveFrame_turnSame e _ _ _ _

theorem giveInitiative_turnSame (e : EntryIdx) : TurnSame s (s.giveInitiative e) := by
  unfold State.giveInitiative
  split
  · exact giveFrame_turnSame e _ _ _ _
  · exact giveFrame_turnSame e _ _ _ _
  · exact giveFrame_turnSame e _ _ _ _
  · exact giveFrame_turnSame e _ _ _ _
  all_goals exact .rfl

theorem moveTo_strays (k : Scheduler) (c : Choice) : (k.moveTo c).strays = k.strays := by cases c <;> rfl

/-- R148 to R151: the frame of a choice leaves the turn and the stray replies as they are. -/
theorem startChoice_turnSame (c : Choice) : TurnSame s (s.startChoice c) := by
  have hmove : TurnSame s (s.withSched (s.sched.moveTo c)) := ⟨rfl, rfl, moveTo_strays _ c⟩
  cases c with
  | stray r => exact hmove.trans (startFrame_turnSame _ _ _ _)
  | response e => exact hmove.trans (giveResponse_turnSame e)
  | initiative e => exact hmove.trans (giveInitiative_turnSame e)
  | data p e => exact hmove.trans (giveData_turnSame e)
  | passing e p k =>
    have hsettle : TurnSame (s.withSched (s.sched.moveTo (.passing e p k)))
        ((s.withSched (s.sched.moveTo (.passing e p k))).modEntry e ConnEntry.settleAbort) := ⟨rfl, rfl, rfl⟩
    exact (hmove.trans hsettle).trans (giveData_turnSame k)

/-- R117: a frame of the scheduler starts in HOLDING. -/
theorem lineKept_start {t : State} (h : TurnSame s t) (hengine : s.turn.engine = .holding) : LineKept s t := by
  refine ⟨by rw [h.turn, h.config]; exact id, fun _ _ => .inl (by rw [h.turn, hengine]), fun _ he => ?_, ?_,
    fun hs hr => ?_⟩
  · rw [h.turn, hengine] at he
    cases he
  · unfold straysOk
    rw [h.strays, h.turn]
    exact id
  · rw [h.turn] at hr
    have := (hs hr).1
    rw [hengine] at this
    cases this

/-! ### Every effect -/

theorem dropClosing_lineSame : LineSame s s.dropClosing := by
  have hfold : ∀ (es : List EntryIdx) (t : State),
      LineSame t (es.foldl (fun s e => if (s.entry e).state = .closing then s.freeEntry e else s) t) := by
    intro es
    induction es with
    | nil => exact fun _ => .rfl
    | cons e es ih =>
      refine fun t => LineSame.trans ?_ (ih _)
      dsimp only
      split
      · exact freeEntry_lineSame e
      · exact .rfl
  exact hfold allEntries s

/-- R140: what OFFLINE takes over from the part without its CLOSING entries. -/
theorem goOffline_rest :
    s.goOffline.turn.list = s.dropClosing.turn.list ∧ s.goOffline.config = s.dropClosing.config ∧
      s.goOffline.sched.tx = s.dropClosing.sched.tx ∧ s.goOffline.entries = s.dropClosing.entries ∧
      s.goOffline.pool = s.dropClosing.pool := by
  unfold State.goOffline
  dsimp only
  generalize s.dropClosing = t
  exact ⟨rfl, rfl, rfl, rfl, rfl⟩

/-- R140: OFFLINE is reached with no frame on the line. -/
theorem goOffline_lineKept (hquiet : s.sched.tx = none ∨ s.turn.engine = .waiting) : LineKept s s.goOffline := by
  have hdrop := dropClosing_lineSame (s := s)
  obtain ⟨hengine, -, -, -, -, -, hresponse, hstrays⟩ := goOffline_fields s
  obtain ⟨hlist, hconfig, htx, -, -⟩ := goOffline_rest (s := s)
  refine ⟨fun h => ?_, fun hs ht => ?_, fun _ he => ?_, fun _ => ⟨?_, fun _ => hstrays⟩,
    fun _ hr => absurd hresponse hr⟩
  · rwa [hlist, hconfig, hdrop.turn, hdrop.station]
  · have hsome : s.sched.tx.isSome = true := by
      have := congrArg Option.isSome hdrop.origin
      simp only [Option.isSome_map] at this
      rw [← this, ← htx]
      exact ht
    rcases hquiet with hnone | hwaiting
    · rw [hnone] at hsome
      cases hsome
    · have := hs hsome
      rw [hwaiting] at this
      simp at this
  · rw [hengine] at he
    cases he
  · rw [hstrays]
    exact Nat.zero_le _

/-- The turn controller changes, and the rest of the line with it stays. -/
theorem withTurn_lineKept {tc : TurnController}
    (hlist : turnListOk s.config.station s.turn.list → turnListOk s.config.station tc.list)
    (htransmits : transmitsOk s → transmitsOk (s.withTurn tc)) (hhanding : tc.engine = .handing → s.turn.engine = .handing)
    (hoffline : tc.engine = .offline → s.turn.engine = .offline)
    (hwaits : handingWaits s → handingWaits (s.withTurn tc)) : LineKept s (s.withTurn tc) :=
  ⟨hlist, htransmits, fun hs he => hs (hhanding he), fun ⟨hlength, hoff⟩ => ⟨hlength, fun he => hoff (hoffline he)⟩,
    hwaits⟩

/-- R129: the TURN frame starts in HANDING or STOPPING. -/
theorem sendTurn_lineKept {tc : TurnController} (a : Byte) (hlist : tc.list = s.turn.list)
    (hengine : (tc.engine = .handing ∧ tc.responseTimer = none) ∨
      (tc.engine = .stopping ∧ tc.responseTimer = s.turn.responseTimer ∧ s.turn.engine = .stopping)) :
    LineKept s ((s.withTurn tc).sendTurn a) := by
  have hturn : ((s.withTurn tc).sendTurn a).turn = tc := startFrame_turn _ _ _ _ _
  have hstate : tc.engine = .handing ∨ tc.engine = .stopping := hengine.imp (·.1) (·.1)
  unfold State.sendTurn at hturn ⊢
  rw [startFrame_eq] at hturn ⊢
  refine ⟨?_, fun _ _ => ?_, fun _ _ x hx => ⟨a, ?_⟩, fun hs => ⟨hs.1, fun he => ?_⟩, fun hs hr => ?_⟩
  · rw [hturn, hlist]
    exact id
  · rw [hturn]
    exact .inr hstate
  · rw [← Option.some.inj hx]
  · rw [hturn] at he
    rcases hstate with h | h <;> rw [h] at he <;> cases he
  · rw [hturn] at hr
    rcases hengine with ⟨-, hnone⟩ | ⟨-, hsame, hstopping⟩
    · exact absurd hnone hr
    · have := (hs (hsame ▸ hr)).1
      rw [hstopping] at this
      cases this

theorem knows_false {t : TurnController} {a : Byte} (h : t.knows a = false) : ∀ r ∈ t.list, r.address ≠ a := by
  simpa [TurnController.knows] using h

theorem deviceReset_lineKept : LineKept s s.deviceReset := by
  refine ⟨fun _ => ⟨List.Pairwise.nil, nofun, Nat.zero_le _⟩, fun _ h => (nomatch h), fun _ h => (nomatch h),
    fun _ => ⟨Nat.zero_le _, fun _ => rfl⟩, fun _ h => absurd rfl h⟩

theorem offerStray_lineKept (r : StrayReply) : LineKept s (s.offerStray r) := by
  rcases offerStray_cases s r with h | ⟨hengine, hroom, h⟩ | h
  · rw [h]
    exact .rfl
  · rw [h]
    refine ⟨id, id, id, fun _ => ⟨?_, fun he => absurd he hengine⟩, id⟩
    show (s.sched.strays ++ [r]).length ≤ 8
    rw [List.length_append, List.length_singleton]
    omega
  · rw [h]
    exact ⟨id, id, id, id, id⟩

theorem tickDown_none {t : Option Nat} : tickDown t = none ↔ t = none := Option.map_eq_none_iff

/-- R117, R118, R129, R143: every effect keeps the promises about the line. -/
theorem Effect.lineKept {t : State} (h : Effect s t) : LineKept s t := by
  cases h with
  | transaction p ps _ _ _ => exact (setPort_lineSame p ps).kept
  | offer p b _ => exact (setPort_lineSame p _).kept
  | lineEvent c => exact (lineEvent_aside s c).lineSame.kept
  | filter p _ _ _ => exact (setPort_lineSame p _).kept
  | fetch p n => exact LineSame.kept ((setPort_lineSame p _).trans (withPool_lineSame _))
  | admission p e n rest _ _ _ =>
    exact LineSame.kept (((setEntry_lineSame e _).trans (setPort_lineSame p _)).trans (afterAdmission_lineSame e _ n))
  | resetEntry p e => exact (resetEntry_lineSame p e).kept
  | resetQueue p => exact LineSame.kept ((setPort_lineSame p _).trans (releaseAll_lineSame p _))
  | resetHeld p => exact LineSame.kept ((withPool_lineSame _).trans (releaseAll_lineSame p _))
  | getBuffer p h pool _ => exact (withPool_lineSame _).kept
  | putBuffer p h _ => exact LineSame.kept ((withPool_lineSame _).trans (release_aside _ p h).lineSame)
  | store h offset bytes _ => exact (withPool_lineSame _).kept
  | quota q r l _ _ _ => exact (withPool_lineSame _).kept
  | station a hfree =>
    refine ⟨fun ⟨hsorted, hrange, hlength⟩ => ⟨hsorted, fun r hr => ⟨(hrange r hr).1, ?_⟩, hlength⟩, id, id, id, id⟩
    exact knows_false hfree r hr
  | aside t _ _ _ _ hturn hsched hstation =>
    exact LineSame.kept ⟨hturn, hstation, by rw [hsched], by rw [hsched]⟩
  | listen l _ => exact ⟨id, id, id, id, id⟩
  | reset => exact deviceReset_lineKept
  | openEntry p e service station window pr limit time _ _ _ _ _ => exact (setEntry_lineSame e _).kept
  | send p e m _ _ _ _ => exact LineSame.kept ((withPool_lineSame _).trans (setEntry_lineSame e _))
  | tune e d _ _ => exact (setEntry_lineSame e d).kept
  | retry e d _ _ _ => exact (setEntry_lineSame e _).kept
  | abort e b _ => exact LineSame.kept ((setEntry_lineSame e _).trans (abortEntry_aside _ e).lineSame)
  | drain e _ => exact (setEntry_lineSame e _).kept
  | free e _ => exact (freeEntry_lineSame e).kept
  | finish e r _ => exact (endEntry_aside s e r).lineSame.kept
  | badAccept e index _ => exact LineSame.kept ((setEntry_lineSame e _).trans (endEntry_aside _ e _).lineSame)
  | toOpen e station index window _ _ _ _ => exact (setEntry_lineSame e _).kept
  | accept l e station index service window _ _ _ _ _ =>
    exact LineSame.kept ((setEntry_lineSame e _).trans (makeNotice_aside _ e _).lineSame)
  | transfer e f _ _ _ => exact (takeTransfer_aside e f).lineSame.kept
  | endExchange e b _ _ => exact (endCloseExchange_lineSame e b).kept
  | sent t _ =>
    obtain ⟨hturn, hstation, hstrays⟩ := originSent_line (s := s) t
    exact lineKept_cleared hturn hstation hstrays rfl
  | failed t _ =>
    have h := originFailed_aside (s := s) t
    exact lineKept_cleared h.turn (congrArg _ h.config) (by rw [← h.sched]; exact .refl _) rfl
  | start c hengine _ _ => exact lineKept_start (startChoice_turnSame c) hengine
  | offerStray r => exact offerStray_lineKept r
  | retime tc hengine hlist hresponse =>
    refine withTurn_lineKept hlist (fun hs ht => hengine ▸ hs ht) (fun he => hengine ▸ he) (fun he => hengine ▸ he)
      fun hs hr => ?_
    show tc.engine = _ ∧ _
    rw [hengine]
    exact (hresponse hr).elim hs id
  | toWaiting tc hengine hlist hresponse hquiet =>
    refine withTurn_lineKept (hlist ▸ id) (fun hs ht => ?_) (fun he => ?_) (fun he => ?_) fun _ hr => absurd hresponse hr
    · rcases hquiet with hnone | hoffline
      · have hsome : s.sched.tx.isSome = true := ht
        rw [hnone] at hsome
        cases hsome
      · have := hs ht
        rw [hoffline] at this
        simp at this
    · rw [hengine] at he
      cases he
    · rw [hengine] at he
      cases he
  | toHolding tc hengine hlist hfrom =>
    refine withTurn_lineKept (hlist ▸ id) (fun _ _ => .inl hengine) (fun he => ?_) (fun he => ?_) fun hs hr => ?_
    · rw [hengine] at he
      cases he
    · rw [hengine] at he
      cases he
    · rcases hfrom with ⟨hwaiting, hsame⟩ | ⟨-, hnone⟩
      · have := (hs (hsame ▸ hr)).1
        rw [hwaiting] at this
        cases this
      · exact absurd hnone hr
  | toStopping tc hengine hlist hresponse hfrom _ =>
    refine withTurn_lineKept (hlist ▸ id) (fun _ _ => .inr (.inr hengine)) (fun he => ?_) (fun he => ?_)
      fun _ hr => absurd hresponse hr
    · rw [hengine] at he
      cases he
    · rw [hengine] at he
      cases he
  | sendTurn tc a hlist hengine _ => exact sendTurn_lineKept a hlist (hengine.imp_left fun h => ⟨h.1, h.2.1⟩)
  | offline hquiet _ => exact goOffline_lineKept hquiet
  | countDown =>
    refine ⟨id, id, id, id, fun hs hr => hs fun hnone => hr ?_⟩
    exact tickDown_none.2 hnone

theorem Becomes.lineKept {t : State} (h : Becomes s t) : LineKept s t := by
  induction h with
  | refl => exact .rfl
  | tail _ k ih => exact ih.trans k.lineKept

end Sys2Proof.Machine
end

section
/-! No step leaves a scheduler that is offered the line with a choice to make: a command makes the choice as its last
effect, or takes the line out of HOLDING, or gives the scheduler no new work. -/

namespace Sys2Proof.Machine

/-- R145: the entry is a member of a class. -/
def ConnEntry.wants (c : ConnEntry) : Bool := c.inResponse || c.inInitiative || (c.eligible && c.priority.isSome)

theorem inData_wants {c : ConnEntry} {p : Fin 4} (h : c.inData p = true) : c.wants = true := by
  simp only [ConnEntry.inData, Bool.and_eq_true, decide_eq_true_eq] at h
  simp [ConnEntry.wants, h.1, h.2]

/-- R145: an entry that is a member of no class has no message and no flag to send. -/
theorem wants_false_iff {c : ConnEntry} :
    c.wants = false ↔ c.inResponse = false ∧ c.inInitiative = false ∧ ∀ p, c.inData p = false := by
  constructor
  · intro h
    refine ⟨?_, ?_, fun p => Bool.eq_false_iff.2 fun hp => ?_⟩
    · simp only [ConnEntry.wants, Bool.or_eq_false_iff] at h
      exact h.1.1
    · simp only [ConnEntry.wants, Bool.or_eq_false_iff] at h
      exact h.1.2
    · rw [inData_wants hp] at h
      cases h
  · rintro ⟨hresponse, hinitiative, hdata⟩
    cases hp : c.priority with
    | none => simp [ConnEntry.wants, hresponse, hinitiative, hp]
    | some p =>
      have := hdata p
      simp only [ConnEntry.inData, hp, decide_true, Bool.and_true] at this
      simp [ConnEntry.wants, hresponse, hinitiative, this]

variable {s : State}

theorem chooseUnprompted_none :
    s.chooseUnprompted = none ↔ s.chooseInitiative = none ∧ s.chooseDataClass = none := by
  unfold State.chooseUnprompted
  split
  · next hi hd =>
    rw [hi]
    split <;> simp
  · next hi hd => simp [hi]
  · next hi hd => simp [hd]
  · next hi hd => simp [hi, hd]

/-- R145: no class has a member. -/
theorem hasWork_false_iff : s.hasWork = false ↔ s.sched.strays = [] ∧ ∀ e, (s.entry e).wants = false := by
  have hstrays : s.sched.strays.head?.map Choice.stray = none ↔ s.sched.strays = [] := by
    rw [Option.map_eq_none_iff, List.head?_eq_none_iff]
  have hdata : s.chooseDataClass = none ↔ ∀ p e, (s.entry e).inData p = false :=
    chooseDataClass_none.trans (forall_congr' fun _ => roundRobin_none)
  have hresponse : s.chooseResponse.map Choice.response = none ↔ ∀ e, (s.entry e).inResponse = false :=
    Option.map_eq_none_iff.trans roundRobin_none
  have hinitiative : s.chooseInitiative = none ↔ ∀ e, (s.entry e).inInitiative = false := roundRobin_none
  have hnone : s.choose = none ↔ s.sched.strays = [] ∧ (∀ e, (s.entry e).inResponse = false) ∧
      (∀ e, (s.entry e).inInitiative = false) ∧ ∀ p e, (s.entry e).inData p = false := by
    rw [State.choose, ← hstrays, ← hresponse, ← hinitiative, ← hdata, ← chooseUnprompted_none]
    cases s.sched.strays.head? <;> cases s.chooseResponse <;> simp
  rw [State.hasWork, Option.isSome_eq_false_iff, Option.isNone_iff_eq_none, hnone]
  refine and_congr_right fun _ => ⟨fun ⟨hr, hi, hd⟩ e => wants_false_iff.2 ⟨hr e, hi e, fun p => hd p e⟩, fun h => ?_⟩
  exact ⟨fun e => (wants_false_iff.1 (h e)).1, fun e => (wants_false_iff.1 (h e)).2.1,
    fun p e => (wants_false_iff.1 (h e)).2.2 p⟩

/-! ### What gives the scheduler no work -/

/-- From `s` to `t` the line is not offered anew, no class gets its first member, and sole mode stays. -/
structure Calm (s t : State) : Prop where
  offered : t.offered = true → s.offered = true
  work : s.hasWork = false → t.hasWork = false
  sole : s.turn.sole = true → t.turn.sole = true

theorem Calm.rfl {s : State} : Calm s s := ⟨id, id, id⟩

theorem Calm.trans {s t u : State} (h : Calm s t) (k : Calm t u) : Calm s u :=
  ⟨h.offered ∘ k.offered, k.work ∘ h.work, k.sole ∘ h.sole⟩

theorem Calm.settled {s t : State} (h : Calm s t) (hs : settled s) : settled t := fun ht =>
  ⟨h.work (hs (h.offered ht)).1, h.sole (hs (h.offered ht)).2⟩

/-- The line is as it was, and no entry becomes a member of a class. -/
theorem Calm.of_entries {s t : State} (hturn : t.turn = s.turn) (htx : t.sched.tx = none → s.sched.tx = none)
    (hstrays : t.sched.strays = s.sched.strays) (hconfig : t.config.params = s.config.params)
    (hwants : ∀ e, (s.entry e).wants = false → (t.entry e).wants = false) : Calm s t := by
  refine ⟨fun ht => ?_, fun hw => ?_, fun hs => by rwa [hturn]⟩
  · obtain ⟨hengine, hnone, hcount, htimer⟩ := offered_iff.1 ht
    rw [hturn] at hengine hcount htimer
    rw [hconfig] at hcount
    exact offered_iff.2 ⟨hengine, htx hnone, hcount, htimer⟩
  · obtain ⟨hnone, hall⟩ := hasWork_false_iff.1 hw
    exact hasWork_false_iff.2 ⟨hstrays.trans hnone, fun e => hwants e (hall e)⟩

theorem Calm.of_eq {s t : State} (hturn : t.turn = s.turn) (hsched : t.sched = s.sched)
    (hconfig : t.config.params = s.config.params) (hentries : t.entries = s.entries) : Calm s t :=
  .of_entries hturn (by rw [hsched]; exact id) (by rw [hsched]) hconfig
    fun e h => by rw [State.entry, hentries]; exact h

theorem setPort_calm (p : Port) (ps : PortState) : Calm s (s.setPort p ps) := .of_eq rfl rfl rfl rfl

theorem wants_free {c : ConnEntry} (h : c.state = .free ∨ c.state = .ended) : c.wants = false := by
  rcases h with h | h <;>
    simp [ConnEntry.wants, ConnEntry.inResponse, ConnEntry.inInitiative, ConnEntry.eligible, ConnEntry.live, h]

theorem freeEntry_calm (e : EntryIdx) : Calm s (s.freeEntry e) := by
  refine .of_entries rfl (fun h => ?_) rfl rfl fun k hk => ?_
  · rw [freeEntry_eq] at h
    exact Option.map_eq_none_iff.1 h
  · by_cases hek : e = k
    · rw [← hek, freeEntry_entry]
      rfl
    · rwa [freeEntry_entry_other s hek]

theorem closedEvent_calm (owner : Option Port) (e : EntryIdx) (b : Bool) : Calm s (s.closedEvent owner e b) := by
  unfold State.closedEvent
  split
  · exact setPort_calm _ _
  · exact .rfl

/-- R15: an entry that ends leaves the classes. -/
theorem endEntry_calm (e : EntryIdx) (r : EndReason) : Calm s (s.endEntry e r) := by
  have haside := endEntry_aside s e r
  refine .of_entries haside.turn (by rw [haside.sched]; exact id) (by rw [haside.sched]) (by rw [haside.config])
    fun k hk => ?_
  rw [endEntry_eq]
  by_cases hek : e = k
  · rw [← hek, makeNotices_entry, entry_setEntry_same]
    exact wants_free (.inr rfl)
  · rwa [makeNotices_entry_other _ _ hek, entry_setEntry_other _ _ hek]

/-- R14: an entry whose close exchange ends leaves the classes. -/
theorem endCloseExchange_calm {e : EntryIdx} (b : Bool) (h : (s.entry e).state = .closing) :
    Calm s (s.endCloseExchange e b) := by
  unfold State.endCloseExchange
  dsimp only
  split
  · exact freeEntry_calm e
  · split
    · exact (freeEntry_calm e).trans (closedEvent_calm _ _ _)
    · refine .of_entries rfl id rfl rfl fun k hk => ?_
      by_cases hek : e = k
      · rw [← hek, entry_setEntry_same]
        simp [ConnEntry.wants, ConnEntry.inResponse, ConnEntry.inInitiative, ConnEntry.eligible, ConnEntry.live,
          ConnEntry.stopTimer, h]
      · rwa [entry_setEntry_other _ _ hek]

/-- A line engine outside HOLDING is settled. -/
theorem settled_of_engine (h : s.turn.engine ≠ .holding) : settled s := fun ho => absurd (offered_iff.1 ho).1 h

/-- A part that transmits is settled. -/
theorem settled_of_sends (h : s.sends) : settled s := fun ho => by
  rw [State.sends, (offered_iff.1 ho).2.1] at h
  cases h

theorem settled_of_hold (h : s.turn.holdTimer = none) : settled s := fun ho => by
  have := (offered_iff.1 ho).2.2.2
  rw [h] at this
  cases this

/-- R127: outside sole mode the end of a turn starts a TURN. -/
theorem endTurn_settled (h : s.turn.sole = false) : settled s.endTurn := settled_of_sends (endTurn_sends h)

/-! ### Host transactions -/

theorem transact_settled {p : Port} {sdi : List Bool} {taken : State → State} (h : ∀ t, settled t → settled (taken t))
    (hs : settled s) : settled (s.transact p sdi taken) := by
  unfold State.transact
  dsimp only
  split
  · exact hs
  · split
    · exact (setPort_calm _ _).settled (h _ ((setPort_calm _ _).settled ((setPort_calm p _).settled hs)))
    · exact (setPort_calm _ _).settled ((setPort_calm _ _).settled ((setPort_calm p _).settled hs))

theorem answer_settled {r : Req} {surplus : Bool} {handle : State → Answer}
    (h : ∀ t, settled t → settled (handle t).after) (hs : settled s) : settled (s.answer r surplus handle) := by
  unfold State.answer
  dsimp only
  refine (setPort_calm _ _).settled ?_
  split
  · exact hs
  · exact h s hs

theorem request_settled {r : Req} {code : Byte} {args : List Byte} {handle : State → Answer}
    (h : ∀ t, settled t → settled (handle t).after) (hs : settled s) : settled (s.request r code args handle) :=
  transact_settled (fun _ ht => answer_settled h ht) hs

theorem requestWithData_settled {r : Req} {code : Byte} {args : List Byte} {handle : State → Answer}
    (h : ∀ t, settled t → settled (handle t).after) (hs : settled s) :
    settled (s.requestWithData r code args handle) :=
  transact_settled (fun _ ht => answer_settled h ht) hs

theorem answerBufGet_settled (p : Port) (hs : settled s) : settled (answerBufGet p s).after := by
  unfold answerBufGet
  split
  · exact (Calm.of_eq rfl rfl rfl rfl).settled hs
  · exact hs

theorem answerBufPut_settled (p : Port) (handle : Byte) (hs : settled s) : settled (answerBufPut p handle s).after := by
  unfold answerBufPut
  split
  · exact hs
  · split
    · exact schedule_settled _
    · exact hs

theorem answerBufWrite_settled (p : Port) (handle offset count : Byte) (data : List Byte) (hs : settled s) :
    settled (answerBufWrite p handle offset count data s).after := by
  unfold answerBufWrite
  split
  · exact hs
  · split
    · exact hs
    · split
      · exact (Calm.of_eq rfl rfl rfl rfl).settled hs
      · exact hs

theorem answerBufRead_settled (p : Port) (handle offset count : Byte) (hs : settled s) :
    settled (answerBufRead p handle offset count s).after := by
  unfold answerBufRead
  split
  · exact hs
  · split
    · exact hs
    · split <;> exact hs

theorem answerCfgTake_settled (p : Port) (hs : settled s) : settled (answerCfgTake p s).after := by
  unfold answerCfgTake
  split
  · exact (Calm.of_eq rfl rfl rfl rfl).settled hs
  · split <;> exact hs

theorem answerCfgPass_settled (p : Port) (heir : Byte) (hs : settled s) : settled (answerCfgPass p heir s).after := by
  unfold answerCfgPass
  split
  · exact hs
  · split
    · exact hs
    · exact (Calm.of_eq rfl rfl rfl rfl).settled hs

theorem answerCfgStation_settled (p : Port) (station : Byte) (hs : settled s) :
    settled (answerCfgStation p station s).after := by
  unfold answerCfgStation
  split
  · exact hs
  · split
    · exact hs
    · split
      · exact hs
      · split
        · exact hs
        · exact (Calm.of_eq rfl rfl rfl rfl).settled hs

theorem changeBitRate_turn (rate : BitRate) : (s.changeBitRate rate).turn = s.turn := by
  by_cases h : rate = s.config.params.bitRate ∨ s.line.receiving = false
  · rw [changeBitRate_keeps h]
  · obtain ⟨hrate, hrec⟩ := not_or.1 h
    rw [changeBitRate_abandons hrate (by simpa using hrec)]

/-- R192: the parameters change OFFLINE alone. -/
theorem answerCfgLine_settled (p : Port) (params : Option LineParams) (hs : settled s) :
    settled (answerCfgLine p params s).after := by
  unfold answerCfgLine
  split
  · exact hs
  · next l =>
    split
    · exact hs
    · split
      · exact hs
      · next hoff =>
        refine settled_of_engine ?_
        show (s.changeBitRate l.bitRate).turn.engine ≠ _
        rw [changeBitRate_turn, not_not.1 hoff]
        nofun

theorem answerCfgQuota_settled (p : Port) (port reserve limit : Byte) (hs : settled s) :
    settled (answerCfgQuota p port reserve limit s).after := by
  unfold answerCfgQuota
  split
  · exact hs
  · dsimp only
    split
    · exact hs
    · split
      · exact hs
      · split
        · exact hs
        · split
          · exact hs
          · exact (Calm.of_eq rfl rfl rfl rfl).settled hs

theorem withOwnEntry_settled {p : Port} {entry : Byte} {handle : EntryIdx → ConnEntry → Answer}
    (h : ∀ e, settled (handle e (s.entry e)).after) (hs : settled s) :
    settled (withOwnEntry p entry s handle).after := by
  unfold withOwnEntry
  split
  · exact hs
  · next e _ =>
    split
    · exact h e
    · exact hs

theorem answerConnOpen_settled (p : Port) (service station window priority retryLimit : Byte) (answerTime : Half)
    (hs : settled s) : settled (answerConnOpen p service station window priority retryLimit answerTime s).after := by
  unfold answerConnOpen
  split
  · exact hs
  · split
    · exact hs
    · split
      · exact hs
      · split
        · exact hs
        · exact schedule_settled _

theorem answerConnSend_settled (p : Port) (entry handle length : Byte) (hostTag : Half) (notify : Byte)
    (hs : settled s) : settled (answerConnSend p entry handle length hostTag notify s).after := by
  unfold answerConnSend
  split
  · split
    · exact hs
    · refine withOwnEntry_settled (fun e => ?_) hs
      split
      · exact hs
      · split
        · exact hs
        · split
          · exact hs
          · exact schedule_settled _
  · exact hs

theorem answerConnHold_settled (p : Port) (entry : Byte) (hs : settled s) :
    settled (answerConnHold p entry s).after := by
  refine withOwnEntry_settled (fun e => ?_) hs
  split
  · exact hs
  · split
    · exact hs
    · exact schedule_settled _

theorem answerConnResume_settled (p : Port) (entry : Byte) (hs : settled s) :
    settled (answerConnResume p entry s).after := by
  refine withOwnEntry_settled (fun e => ?_) hs
  split
  · exact hs
  · split
    · exact hs
    · exact schedule_settled _

theorem closeEntry_settled (e : EntryIdx) (abort : Bool) (hs : settled s) :
    settled (closeEntry e (s.entry e) abort s).after := by
  unfold closeEntry
  split
  · exact ((freeEntry_calm e).trans (closedEvent_calm _ e false)).settled hs
  · split
    · exact schedule_settled _
    · exact schedule_settled _
  · split
    · exact schedule_settled _
    · exact hs
  all_goals exact hs

theorem answerConnClose_settled (p : Port) (entry form : Byte) (hs : settled s) :
    settled (answerConnClose p entry form s).after := by
  unfold answerConnClose
  split
  · exact hs
  · exact withOwnEntry_settled (fun e => closeEntry_settled e _ hs) hs

theorem answerConnRelease_settled (p : Port) (entry : Byte) (hs : settled s) :
    settled (answerConnRelease p entry s).after := by
  refine withOwnEntry_settled (fun e => ?_) hs
  split
  · exact (freeEntry_calm e).settled hs
  · exact hs

theorem answerConnQuery_settled (entry : Byte) (hs : settled s) : settled (answerConnQuery entry s).after := by
  unfold answerConnQuery
  split <;> exact hs

theorem answerEvtFetch_settled (p : Port) (n : Byte) (hs : settled s) : settled (answerEvtFetch p n s).after := by
  unfold answerEvtFetch
  split
  · exact hs
  · show settled (s.fetch p n.toNat)
    unfold State.fetch
    split
    · exact hs
    · exact schedule_settled _

theorem answerEvtFilter_settled (p : Port) (kind filter : Byte) (hs : settled s) :
    settled (answerEvtFilter p kind filter s).after := by
  unfold answerEvtFilter
  split
  · split
    · exact hs
    · exact (setPort_calm _ _).settled hs
  · exact hs

theorem answerListenAdd_settled (p : Port) (service stationMatch stationMask windowMax priority retryLimit : Byte)
    (answerTime : Half) (accepts : Byte) (hs : settled s) :
    settled
      (answerListenAdd p service stationMatch stationMask windowMax priority retryLimit answerTime accepts s).after := by
  unfold answerListenAdd
  split
  · exact hs
  · split
    · exact hs
    · split
      · exact hs
      · split
        · exact hs
        · exact (Calm.of_eq rfl rfl rfl rfl).settled hs

theorem answerListenDrop_settled (p : Port) (service stationMatch stationMask : Byte) (hs : settled s) :
    settled (answerListenDrop p service stationMatch stationMask s).after := by
  unfold answerListenDrop
  split
  · exact hs
  · split
    · exact hs
    · split
      · exact (Calm.of_eq rfl rfl rfl rfl).settled hs
      · exact hs

/-- R119, R133: a new PRESENT station ends sole mode. -/
theorem insertStation_sole (a : Byte) (t : TurnController) :
    ({ t with list := insertStation a t.list } : TurnController).sole = false := by
  simp only [TurnController.sole, Bool.not_eq_false', List.any_eq_true]
  exact ⟨{ address := a, present := true }, mem_insertStation.2 (.inl rfl), rfl⟩

/-- R133: the end of sole mode offers the line or ends the turn. -/
theorem soleEnds_settled (h : s.turn.sole = false) : settled s.soleEnds := by
  unfold State.soleEnds
  split
  · split
    · exact schedule_settled s
    · exact endTurn_settled h
  · next hnot =>
    intro ho
    obtain ⟨hengine, hnone, -, -⟩ := offered_iff.1 ho
    simp [hengine, hnone] at hnot

theorem addStation_settled (a : Byte) (hs : settled s) : settled (s.addStation a) := by
  unfold State.addStation
  dsimp only
  split
  · exact soleEnds_settled (insertStation_sole a _)
  · next hsole => exact fun ho => absurd (hs ho).2 hsole

theorem answerTurnAdd_settled (p : Port) (station : Byte) (hs : settled s) :
    settled (answerTurnAdd p station s).after := by
  unfold answerTurnAdd
  split
  · exact hs
  · split
    · exact hs
    · split
      · exact hs
      · split
        · exact hs
        · split
          · exact hs
          · exact addStation_settled station hs

/-- R120: fewer stations keep sole mode. -/
theorem removeStation_calm (a : Byte) :
    Calm s (s.withTurn { s.turn with list := s.turn.list.filter fun r => r.address ≠ a }) := by
  refine ⟨id, id, fun hsole => ?_⟩
  simp only [TurnController.sole, Bool.not_eq_true', List.any_eq_false] at hsole ⊢
  exact fun r hr => hsole r (List.mem_filter.1 hr).1

theorem answerTurnRemove_settled (p : Port) (station : Byte) (hs : settled s) :
    settled (answerTurnRemove p station s).after := by
  unfold answerTurnRemove
  split
  · exact hs
  · split
    · exact hs
    · split
      · exact hs
      · exact (removeStation_calm station).settled hs

theorem answerLineStart_settled (p : Port) (hs : settled s) : settled (answerLineStart p s).after := by
  unfold answerLineStart
  split
  · exact hs
  · split
    · exact hs
    · split
      · exact hs
      · exact settled_of_engine nofun

theorem goOffline_settled : settled s.goOffline := settled_of_engine (by rw [(goOffline_fields s).1]; nofun)

theorem stopTurn_settled : settled s.stopTurn := by
  unfold State.stopTurn
  split
  · exact settled_of_sends (startFrame_sends _ _ _ _ _)
  · exact goOffline_settled

/-- R139: LINE.STOP takes the line out of HOLDING. -/
theorem stopLine_settled (hs : settled s) : settled s.stopLine := by
  unfold State.stopLine
  split
  · exact goOffline_settled
  · split
    · exact settled_of_engine nofun
    · exact goOffline_settled
  · split
    · exact settled_of_engine nofun
    · split
      · exact goOffline_settled
      · exact stopTurn_settled
  all_goals exact hs

theorem answerLineStop_settled (p : Port) (hs : settled s) : settled (answerLineStop p s).after := by
  unfold answerLineStop
  split
  · exact hs
  · split
    · exact hs
    · split
      · exact hs
      · exact stopLine_settled hs

theorem answerLineStatus_settled (p : Port) (clear : Byte) (hs : settled s) :
    settled (answerLineStatus p clear s).after := by
  unfold answerLineStatus
  split
  · exact hs
  · exact hs
  · split
    · exact hs
    · exact (Calm.of_eq rfl rfl rfl rfl).settled hs

/-! ### Reception -/

theorem endCloseExchange_turn (e : EntryIdx) (b : Bool) : (s.endCloseExchange e b).turn = s.turn :=
  (endCloseExchange_lineSame e b).turn

theorem offerStray_turn (r : StrayReply) : (s.offerStray r).turn = s.turn := by
  rcases offerStray_cases s r with h | ⟨-, -, h⟩ | h <;> rw [h] <;> rfl

theorem takeStray_turn (f : Frame) : (s.takeStray f).turn = s.turn := by
  unfold State.takeStray
  dsimp only
  split
  · rfl
  · exact offerStray_turn _

theorem acceptOpen_turn (l : ListenEntry) (e : EntryIdx) (f : Frame) (service : Byte) (window : Nat) :
    (s.acceptOpen l e f service window).turn = s.turn := by
  have hnotice := (makeNotice_aside (s.setEntry e (ConnEntry.accepted l f.src f.sci service window)) e
    (.arrived f.src service)).turn
  unfold State.acceptOpen
  dsimp only
  split
  · exact hnotice
  · exact hnotice

theorem decideOpen_turn (f : Frame) (service : Byte) (window : Nat) :
    (s.decideOpen f service window).turn = s.turn := by
  unfold State.decideOpen
  split
  · rfl
  · split
    · exact offerStray_turn _
    · split
      · exact offerStray_turn _
      · split
        · exact offerStray_turn _
        · exact acceptOpen_turn _ _ _ _ _

theorem listenHandling_turn (f : Frame) : (s.listenHandling f).turn = s.turn := by
  unfold State.listenHandling
  dsimp only
  split
  · rfl
  · split
    · rfl
    · exact decideOpen_turn _ _ _

theorem badAccept_turn (e : EntryIdx) (f : Frame) : (s.badAccept e f).turn = s.turn :=
  (offerStray_turn _).trans (endEntry_aside (s.modEntry e _) e .protocol).turn

theorem takeAccept_turn (e : EntryIdx) (f : Frame) : (s.takeAccept e f).turn = s.turn := by
  unfold State.takeAccept
  dsimp only
  split
  · exact (endEntry_aside s e _).turn
  · split
    · exact badAccept_turn e f
    · split
      · exact badAccept_turn e f
      · exact (entryEvent_aside _ e _).turn

theorem takeAtEntry_turn (e : EntryIdx) (f : Frame) : (s.takeAtEntry e f).turn = s.turn := by
  have hlive : (s.takeLive e f).turn = s.turn := by
    unfold State.takeLive
    split
    · exact (takeTransfer_aside e f).turn
    · exact (takeTransfer_aside e f).turn
    · exact (takeTransfer_aside e f).turn
    · exact (takeTransfer_aside e f).turn
    · exact (offerStray_turn _).trans (endEntry_aside s e _).turn
    · exact (endEntry_aside s e _).turn
    · exact (endEntry_aside s e _).turn
    all_goals rfl
  have hclosing : (s.takeClosing e f).turn = s.turn := by
    unfold State.takeClosing
    dsimp only
    split
    · split
      · rfl
      · exact endCloseExchange_turn e false
    · split
      · exact offerStray_turn _
      · exact (endCloseExchange_turn e false).trans (offerStray_turn _)
    · rfl
  unfold State.takeAtEntry
  split
  · unfold State.takeOpening
    split
    · exact takeAccept_turn e f
    · exact (endEntry_aside s e _).turn
    · exact (endEntry_aside s e _).turn
    · rfl
  · exact hlive
  · exact hlive
  · exact hclosing
  all_goals rfl

/-- R164: routing leaves the turn to the turn controller, which has taken the frame before. -/
theorem routeFrame_turn (f : Frame) : (s.routeFrame f).turn = s.turn := by
  unfold State.routeFrame
  split
  · rfl
  · exact listenHandling_turn f
  · split
    · exact takeStray_turn f
    · split
      · exact takeStray_turn f
      · exact takeAtEntry_turn _ f

/-- R135 to R137: a good frame leaves HOLDING, or a turn with its first choice made. -/
theorem turnFrameEnd_settled (f : Frame) : settled (s.turnFrameEnd f) := by
  unfold State.turnFrameEnd
  dsimp only
  split
  · split
    · exact schedule_settled _
    · exact settled_of_engine nofun
  · split
    · exact schedule_settled _
    · next h _ => exact settled_of_engine (by rw [h]; nofun)
  all_goals (next h => exact settled_of_engine (by rw [h]; nofun))

/-- R135: a frame other than a TURN to the part ends or prevents HOLDING. -/
theorem turnFrameEnd_engine {f : Frame} (hkind : f.kind ≠ .turn) : (s.turnFrameEnd f).turn.engine ≠ .holding := by
  unfold State.turnFrameEnd
  simp only [hkind, decide_false, Bool.false_and, Bool.false_eq_true, if_false]
  split
  · nofun
  all_goals (next h => rw [h]; nofun)

theorem dispatch_settled (f : Frame) : settled (s.dispatch f) := by
  unfold State.dispatch
  dsimp only
  split
  · by_cases hkind : f.kind = .turn
    · rw [State.routeFrame, hkind]
      exact turnFrameEnd_settled f
    · exact settled_of_engine (by rw [routeFrame_turn]; exact turnFrameEnd_engine hkind)
  · exact turnFrameEnd_settled f

theorem frameStarts_settled (hs : settled s) : settled s.frameStarts := by
  have hturn : settled s.turnFrameStart := by
    unfold State.turnFrameStart
    split
    · next h => exact settled_of_engine (by show s.turn.engine ≠ _; rw [h]; nofun)
    · split
      · unfold State.handoverSuccess
        dsimp only
        split
        · split
          · exact settled_of_engine nofun
          · exact settled_of_engine nofun
        · exact settled_of_engine nofun
      · exact hs
    all_goals exact hs
  exact Calm.settled (.of_eq rfl rfl rfl rfl) hturn

theorem receiveFrame_settled (verdict : Byte → Verdict) (hs : settled s) : settled (s.receiveFrame verdict) := by
  have hstarted : settled (if s.line.receiving then s else s.frameStarts) := by
    split
    · exact hs
    · exact frameStarts_settled hs
  unfold State.receiveFrame
  dsimp only
  split
  · exact hs
  · unfold State.takeVerdict
    split
    · exact Calm.settled (.of_eq rfl rfl rfl rfl) hstarted
    · exact Calm.settled (.of_eq rfl rfl rfl rfl) hstarted
    · exact dispatch_settled _

theorem ignoreIf_settled (b : Bool) (hs : settled s) : settled (s.ignoreIf b) := by
  unfold State.ignoreIf
  split
  · exact Calm.settled (.of_eq rfl rfl rfl rfl) hs
  · exact hs

/-! ### Transmission and timers -/

theorem transmissionEnds_settled (hs : settled s) : settled s.transmissionEnds := by
  unfold State.transmissionEnds
  split
  · exact hs
  · exact schedule_settled _

/-- R138: a transmit fault takes the line out of HOLDING. -/
theorem transmissionFails_settled (hs : settled s) : settled s.transmissionFails := by
  unfold State.transmissionFails
  split
  · exact hs
  · unfold State.turnFault
    split
    · exact settled_of_engine nofun
    · exact settled_of_engine nofun
    · exact goOffline_settled
    all_goals (next h => exact settled_of_engine (by rw [h]; nofun))

theorem answerExpiry_settled (e : EntryIdx) (hs : settled s) : settled (s.answerExpiry e) := by
  unfold State.answerExpiry
  dsimp only
  split
  · exact hs
  · split
    · split
      · exact (endEntry_calm e _).settled hs
      · exact schedule_settled _
    · split
      · exact (endEntry_calm e _).settled hs
      · exact schedule_settled _
    · split
      · exact (endEntry_calm e _).settled hs
      · exact schedule_settled _
    · next hclosing =>
      split
      · exact (endCloseExchange_calm true hclosing).settled hs
      · exact schedule_settled _
    all_goals exact hs

theorem lostExpiry_settled (hs : settled s) : settled s.lostExpiry := by
  unfold State.lostExpiry
  split
  · exact schedule_settled _
  · exact hs

/-- R127, R133: an expired hold timer offers the line anew, ends the turn, or offers the line no more. -/
theorem holdExpiry_settled (hs : settled s) : settled s.holdExpiry := by
  unfold State.holdExpiry
  dsimp only
  split
  · split
    · exact settled_of_hold rfl
    · split
      · exact schedule_settled _
      · next hsole => exact endTurn_settled (Bool.eq_false_iff.2 hsole)
  · exact hs

theorem afterFailure_settled (b : Bool) : settled (s.afterFailure b) := by
  unfold State.afterFailure
  split
  · exact settled_of_sends (startFrame_sends _ _ _ _ _)
  · exact schedule_settled _

/-- R131, R132: an expired turn response timer starts a TURN, or the turn of sole mode with its first choice. -/
theorem responseExpiry_settled (hs : settled s) : settled s.responseExpiry := by
  unfold State.responseExpiry
  dsimp only
  split
  · next hrun =>
    split
    · exact afterFailure_settled false
    · split
      · exact settled_of_sends (startFrame_sends _ _ _ _ _)
      · exact afterFailure_settled true
    · simp only [Bool.and_eq_true, decide_eq_true_eq] at hrun
      exact settled_of_engine (by show s.turn.engine ≠ _; rw [hrun.1]; nofun)
  · exact hs

theorem wants_of_timer {c d : ConnEntry}
    (h : d = { c with answerTimer := d.answerTimer, answerPhase := d.answerPhase }) : d.wants = c.wants := by
  rw [h]
  rfl

theorem countDown_calm : Calm s s.countDown := by
  refine ⟨fun ho => ?_, fun hw => ?_, id⟩
  · obtain ⟨hengine, hnone, hcount, htimer⟩ := offered_iff.1 ho
    refine offered_iff.2 ⟨hengine, hnone, hcount, ?_⟩
    simpa only [State.countDown, tickDown, Option.isSome_map] using htimer
  · obtain ⟨hstrays, hall⟩ := hasWork_false_iff.1 hw
    refine hasWork_false_iff.2 ⟨hstrays, fun e => ?_⟩
    rw [countDown_entry, wants_of_timer (tick_fields _)]
    exact hall e

theorem foldl_settled {α : Type} {f : State → α → State} (h : ∀ t a, settled t → settled (f t a)) (xs : List α)
    (hs : settled s) : settled (xs.foldl f s) := by
  induction xs generalizing s with
  | nil => exact hs
  | cons x xs ih => exact ih (h s x hs)

theorem tick_settled (hs : settled s) : settled s.tick := by
  have hif : ∀ (b : Bool) (t u : State), settled t → settled u → settled (if b then u else t) := by
    intro b t u ht hu
    cases b
    · exact ht
    · exact hu
  unfold State.tick
  dsimp only
  refine foldl_settled (fun t e ht => hif _ _ _ ht (answerExpiry_settled e ht)) _ ?_
  have hlost := hif (runsOut s.turn.lostTimer) _ _ (countDown_calm.settled hs) (lostExpiry_settled (countDown_calm.settled hs))
  have hhold := hif (runsOut s.turn.holdTimer) _ _ hlost (holdExpiry_settled hlost)
  exact hif (runsOut s.turn.responseTimer) _ _ hhold (responseExpiry_settled hhold)

theorem idle_settled (hs : settled s) : settled s.idle := by
  unfold State.idle
  split
  · exact hs
  · exact tick_settled hs

/-! ### The commands -/

theorem prstnAsserted_settled (p : Port) (hs : settled s) {t : State} (h : execPrstnAsserted p s = .next t) :
    settled t := by
  unfold execPrstnAsserted at h
  split at h
  · exact Host.Outcome.next.inj h ▸ hs
  · split at h
    · exact Host.Outcome.next.inj h ▸ (setPort_calm p _).settled hs
    · exact Host.Outcome.next.inj h ▸ schedule_settled _

theorem exec_settled (i : Instr) (hs : settled s) {t : State} (hnext : exec i s = .next t) : settled t := by
  have hrefuse : ∀ (st : Status) (u : State), settled u → settled (Answer.refuse st u).after := fun _ _ h => h
  have hreceive : ∀ v, settled (s.receiveFrame v) := fun v => receiveFrame_settled v hs
  cases i
  case prstnAsserted p => exact prstnAsserted_settled p hs hnext
  case resetAsserted =>
    unfold exec execResetAsserted at hnext
    dsimp only at hnext
    split at hnext
    · exact Host.Outcome.next.inj hnext ▸ hs
    · exact Host.Outcome.next.inj hnext ▸ settled_of_engine nofun
  case frameStart =>
    unfold exec execFrameStart at hnext
    dsimp only at hnext
    split at hnext
    · exact Host.Outcome.next.inj hnext ▸ hs
    · exact Host.Outcome.next.inj hnext ▸ frameStarts_settled hs
  all_goals rw [← Host.Outcome.next.inj hnext]
  case bufGet r => exact request_settled (fun _ => answerBufGet_settled r.port) hs
  case bufPut r h => exact request_settled (fun _ => answerBufPut_settled r.port h) hs
  case bufWrite r h o c => exact requestWithData_settled (fun _ => answerBufWrite_settled r.port h o c r.rest) hs
  case bufRead r h o c => exact request_settled (fun _ => answerBufRead_settled r.port h o c) hs
  case connOpen r sv st w pr rl t => exact request_settled (fun _ => answerConnOpen_settled r.port sv st w pr rl t) hs
  case connSend r e h l tag n => exact request_settled (fun _ => answerConnSend_settled r.port e h l tag n) hs
  case connHold r e => exact request_settled (fun _ => answerConnHold_settled r.port e) hs
  case connResume r e => exact request_settled (fun _ => answerConnResume_settled r.port e) hs
  case connClose r e f => exact request_settled (fun _ => answerConnClose_settled r.port e f) hs
  case connRelease r e => exact request_settled (fun _ => answerConnRelease_settled r.port e) hs
  case connQuery r e => exact request_settled (fun _ => answerConnQuery_settled e) hs
  case listenAdd r sv m k w pr rl t a =>
    exact request_settled (fun _ => answerListenAdd_settled r.port sv m k w pr rl t a) hs
  case listenDrop r sv m k => exact request_settled (fun _ => answerListenDrop_settled r.port sv m k) hs
  case listenList r => exact request_settled (fun _ => id) hs
  case evtFetch r n => exact request_settled (fun _ => answerEvtFetch_settled r.port n) hs
  case evtFilter r k f => exact request_settled (fun _ => answerEvtFilter_settled r.port k f) hs
  case portInfo r => exact request_settled (fun _ => id) hs
  case portResetRequest r =>
    exact request_settled (fun _ _ => by rw [answerPortReset_after]; exact schedule_settled _) hs
  case cfgTake r => exact request_settled (fun _ => answerCfgTake_settled r.port) hs
  case cfgPass r h => exact request_settled (fun _ => answerCfgPass_settled r.port h) hs
  case cfgStation r a => exact request_settled (fun _ => answerCfgStation_settled r.port a) hs
  case cfgLine r _ _ _ _ _ _ _ => exact request_settled (fun _ => answerCfgLine_settled r.port _) hs
  case cfgRead r => exact request_settled (fun _ => id) hs
  case cfgQuota r p re l => exact request_settled (fun _ => answerCfgQuota_settled r.port p re l) hs
  case turnAdd r a => exact request_settled (fun _ => answerTurnAdd_settled r.port a) hs
  case turnRemove r a => exact request_settled (fun _ => answerTurnRemove_settled r.port a) hs
  case turnList r => exact request_settled (fun _ => id) hs
  case lineStart r => exact request_settled (fun _ => answerLineStart_settled r.port) hs
  case lineStop r => exact request_settled (fun _ => answerLineStop_settled r.port) hs
  case lineStatus r c => exact request_settled (fun _ => answerLineStatus_settled r.port c) hs
  case unknownRequest r code => exact requestWithData_settled (hrefuse .unknown) hs
  case truncatedRequest p sdi => exact transact_settled (fun _ => (setPort_calm p _).settled) hs
  case collect p sdi => exact transact_settled (fun _ => id) hs
  case ignoredTransaction p sdi => exact transact_settled (fun _ => id) hs
  case prstnReleased p => exact (setPort_calm p _).settled hs
  case resetReleased => exact Calm.settled (.of_eq rfl rfl rfl rfl) hs
  case frameEnd status bytes => exact ignoreIf_settled _ (hreceive _)
  case endOfTransmission => exact transmissionEnds_settled hs
  case transmitFault => exact transmissionFails_settled hs
  case answerTimerExpiry e => exact answerExpiry_settled e hs
  case lostTimerExpiry => exact lostExpiry_settled hs
  case holdTimerExpiry => exact holdExpiry_settled hs
  case turnResponseTimerExpiry => exact responseExpiry_settled hs
  case schedulerChoice => exact schedule_settled s
  case noticeAdmission p => exact schedule_settled _
  case lineReturnsToIdle => exact Calm.settled (.of_eq rfl rfl rfl rfl) hs
  case selectFalls fall => exact (setPort_calm _ _).settled hs
  all_goals exact hreceive _

theorem step_settled {t : State} (h : step s = .next t) (hs : settled s) : settled t := by
  unfold step at h
  split at h
  · exact Host.Outcome.next.inj h ▸ idle_settled hs
  · next c rest _ => exact exec_settled c (s := s.withPending rest) (Calm.settled (.of_eq rfl rfl rfl rfl) hs) h

/-- Settles O56: every effect keeps the line, and no command leaves a choice to make. -/
theorem everyStepKeepsTheLine : Obligations.EveryStepKeepsTheLine := by
  intro s t h
  have k := (step_becomes h).lineKept
  exact ⟨k.list, k.transmits, k.handing, k.strays, k.waits, step_settled h⟩

end Sys2Proof.Machine
end

section
/-! The step and reset, and the re-evaluation of an entry after an event. -/

namespace Sys2Proof.Machine

variable {s : State}

/-! ### The step -/

/-- Settles O1: a step runs the command in front, and without one the part idles. -/
theorem stepRunsFrontCommand : Obligations.StepRunsFrontCommand := by
  refine ⟨fun c rest s hs => by rw [step, hs], fun s hs => ⟨fun hlow => ?_, fun hhigh => ?_⟩⟩
  · rw [step, hs]
    simp [State.idle, hlow]
  · rw [step, hs]
    simp [State.idle, hhigh]

/-! ### Device reset (Section 9.6) -/

theorem reset_entry (e : EntryIdx) : State.reset.entry e = {} := look_replicate _ e

theorem reset_port (p : Port) : State.reset.port p = PortState.afterReset false false := look_replicate _ p

/-- R184: RESET that is asserted gives every block its values after reset. -/
theorem exec_resetAsserted (h : s.resetLow = false) : exec .resetAsserted s = .next s.deviceReset := by
  show execResetAsserted s = _
  rw [execResetAsserted, h]
  rfl

theorem exec_resetAsserted_again (h : s.resetLow = true) : exec .resetAsserted s = .next s := by
  show execResetAsserted s = _
  rw [execResetAsserted, h]
  rfl

/-- Settles O2: each block's values after reset, and what RESET's edges do. -/
theorem deviceReset : Obligations.DeviceReset := by
  refine ⟨⟨fun h offset => rfl, rfl, List.length_finRange, fun p => ⟨reset_account p, ?_⟩, fun e => ?_⟩,
    ⟨reset_entry, rfl, fun p => ?_, ?_, ⟨rfl, rfl, rfl, fun pr => look_replicate _ pr, rfl⟩, ?_, ?_⟩,
    fun s => ⟨fun hlow => ?_, exec_resetAsserted_again, rfl⟩⟩
  · rw [reset_port]
    rfl
  · rw [reset_entry]
    exact ⟨rfl, rfl, rfl, rfl, rfl⟩
  · rw [reset_port]
    exact ⟨rfl, rfl, rfl, rfl, rfl, rfl, rfl, rfl, rfl, rfl, rfl⟩
  · exact ⟨rfl, rfl, rfl, rfl, rfl, rfl, rfl, rfl, rfl, rfl, rfl⟩
  · exact ⟨rfl, rfl, rfl, rfl, rfl, rfl⟩
  · exact ⟨rfl, rfl, rfl, rfl, rfl, rfl, rfl, rfl, rfl⟩
  · refine ⟨_, exec_resetAsserted hlow, rfl, rfl, rfl, rfl, rfl, rfl, rfl, rfl, rfl, rfl, fun p => ?_⟩
    rw [deviceReset_port, reset_port]
    rfl

/-! ### The checks of an entry after an event (R44, R47, R50) -/

/-- R44: nothing waits for the peer. -/
theorem settleTimer_stops {c : ConnEntry} (hlive : c.state = .opened ∨ c.state = .draining) (hunacked : c.unacked = [])
    (hwaiting : c.flags.peerWaiting = false) (hquery : c.flags.queryOutstanding = false) :
    c.settleTimer = { c with answerTimer := none, answerPhase := 0 } := by
  simp [ConnEntry.settleTimer, ConnEntry.stopTimer, live_iff.2 hlive, hunacked, hwaiting, hquery]

theorem settleTimer_leaves {c : ConnEntry}
    (h : ¬ ((c.state = .opened ∨ c.state = .draining) ∧ c.unacked = [] ∧ c.flags.peerWaiting = false ∧
      c.flags.queryOutstanding = false)) : c.settleTimer = c := by
  refine if_neg fun hall => h ?_
  simp only [Bool.and_eq_true, Bool.not_eq_true', List.isEmpty_iff] at hall
  obtain ⟨⟨⟨hlive, hunacked⟩, hwaiting⟩, hquery⟩ := hall
  exact ⟨live_iff.1 hlive, hunacked, hwaiting, hquery⟩

/-- R47: a READY is owed when busy was announced and no cause of busy holds. -/
theorem endOfBusy_flags (c : ConnEntry) :
    c.endOfBusy =
      { c with
        flags :=
          { c.flags with
            busyAnnounced := c.flags.busyAnnounced && !(c.flags.busyAnnounced && !c.busy)
            statusDue := c.flags.statusDue || (c.flags.busyAnnounced && !c.busy) } } := by
  unfold ConnEntry.endOfBusy
  cases hannounced : c.flags.busyAnnounced with
  | false =>
    have hsame : c = { c with flags := { c.flags with busyAnnounced := false } } := by rw [← hannounced]
    simpa using hsame
  | true =>
    cases hbusy : c.busy with
    | false => simp
    | true =>
      have hsame : c = { c with flags := { c.flags with busyAnnounced := true } } := by rw [← hannounced]
      simpa using hsame

/-- R50: the entry that a release feeds, before its timer is judged. -/
def ConnEntry.fed (c : ConnEntry) : ConnEntry :=
  let ready := c.flags.busyAnnounced && !c.flags.hostHold && !c.noticeFull
  { c with
    flags :=
      { c.flags with
        starved := false, busyAnnounced := c.flags.busyAnnounced && !ready,
        statusDue := c.flags.statusDue || ready } }

theorem reconsider_hungry {pool : Pool} {c : ConnEntry} {p : Port} (howner : c.owner = some p)
    (hroom : pool.canAllocate p = true) (hstarved : c.flags.starved = true) :
    c.reconsider pool = c.fed.settleTimer := by
  have hfed : ({ c with flags := { c.flags with starved := false } } : ConnEntry).endOfBusy = c.fed := by
    rw [endOfBusy_flags]
    simp [ConnEntry.fed, ConnEntry.busy, ConnEntry.noticeFull, Bool.and_assoc]
  unfold ConnEntry.reconsider
  split
  · next q hq =>
    obtain rfl : p = q := Option.some.inj (howner.symm.trans hq)
    rw [hstarved, hroom, Bool.and_true, if_pos rfl, hfed]
  · next hnone =>
    rw [howner] at hnone
    cases hnone

theorem reconsider_refused {pool : Pool} {c : ConnEntry} {p : Port} (howner : c.owner = some p)
    (hnone : pool.canAllocate p = false) : c.reconsider pool = c := by
  simp [ConnEntry.reconsider, howner, hnone]

theorem reconsider_unowned {pool : Pool} {c : ConnEntry} (howner : c.owner = none) : c.reconsider pool = c := by
  simp [ConnEntry.reconsider, howner]

/-- Settles O5: the re-evaluation by what the entry and the pool say, and the judgement of the answer timer. -/
theorem entryChecksAfterAnEvent : Obligations.EntryChecksAfterAnEvent := by
  refine ⟨fun pool c => ⟨reconsider_fed pool, fun p => reconsider_refused, reconsider_unowned,
    fun p howner hroom hstarved => ⟨fun ⟨hlive, hunacked, hwaiting, hquery⟩ => ?_, fun hwaits => ?_⟩⟩,
    fun c => ⟨settleTimer_stops, settleTimer_leaves⟩⟩
  · rw [reconsider_hungry howner hroom hstarved]
    exact settleTimer_stops (c := c.fed) hlive hunacked hwaiting hquery
  · rw [reconsider_hungry howner hroom hstarved]
    exact settleTimer_leaves (c := c.fed) hwaits

end Sys2Proof.Machine
end

section
/-! The requests BUF.PUT, CONN.SEND, CONN.HOLD, CONN.RESUME and CONN.CLOSE, and the refusals that need only the
ownership or the right. -/

namespace Sys2Proof.Machine

variable {s : State} {p : Port} {e : EntryIdx} {entry handle : Byte}

/-! ### BUF.PUT -/

/-- R90: the held buffer `h` of port `p` at the tail of the free list. -/
theorem unhold_release (pool : Pool) (p : Port) (h : Handle) :
    (pool.unhold p h).release p h =
      { pool with
        freeList := pool.freeList ++ [h]
        accounts :=
          put pool.accounts p
            { pool.account p with
              charge := (pool.account p).charge - 1, held := (pool.account p).held.filter (· ≠ h) } } := by
  simp [Pool.unhold, Pool.release, Pool.modAccount, Pool.account]

theorem answerBufPut_badArg (h : 191 < handle.toNat) : answerBufPut p handle s = .refuse .badArg s := by
  simp [answerBufPut, handleArg_of_lt h]

theorem answerBufPut_badHandle {h : Handle} (hh : handle.toNat = h.val) (hnot : h ∉ (s.account p).held) :
    answerBufPut p handle s = .refuse .badHandle s := by
  simp [answerBufPut, handleArg_of_eq hh, mt holds_iff.1 hnot]

theorem answerBufPut_ok {h : Handle} (hh : handle.toNat = h.val) (hheld : h ∈ (s.account p).held) :
    answerBufPut p handle s =
      .ok [] ({ s with
        pool := (s.pool.unhold p h).release p h
        entries := s.entries.map (ConnEntry.reconsider ((s.pool.unhold p h).release p h)) } : State).schedule := by
  simp only [answerBufPut, handleArg_of_eq hh, holds_iff.2 hheld, if_true]
  rfl

/-- Settles O4: the handle decides the refusals, and a held buffer is released. -/
theorem bufPutReleases : Obligations.BufPutReleases := by
  intro s r handle hs hr
  refine ⟨fun hout => ?_, fun h hh => ⟨fun hnot => ?_, fun hheld => ?_⟩⟩
  · exact congrArg _ (request_refuses hs hr (answerBufPut_badArg hout))
  · exact congrArg _ (request_refuses hs hr (answerBufPut_badHandle hh hnot))
  · refine congrArg _ (request_serves_keepingPorts _ hs hr ?_ fun t => ?_)
    · rw [answerBufPut_ok hh (by rwa [taking_account]), unhold_release]
      rfl
    · rw [schedule_ports]

/-! ### CONN.SEND -/

theorem choiceArg_of_le {b : Byte} (h : b.toNat ≤ 1) : choiceArg b = some (decide (b = 1)) := by
  have hb : b = 0 ∨ b = 1 := by
    rcases Nat.le_one_iff_eq_zero_or_eq_one.1 h with h | h
    · exact .inl (BitVec.eq_of_toNat_eq h)
    · exact .inr (BitVec.eq_of_toNat_eq h)
  rcases hb with rfl | rfl <;> rfl

theorem choiceArg_of_lt {b : Byte} (h : 1 < b.toNat) : choiceArg b = none := by
  have hzero : b ≠ 0 := by
    rintro rfl
    exact absurd h (by decide)
  have hone : b ≠ 1 := by
    rintro rfl
    exact absurd h (by decide)
  rw [choiceArg, if_neg hzero, if_neg hone]

section
variable {length notify : Byte} {hostTag : Half} {h : Handle}

theorem length_within : within 1 240 length.toNat = true ↔ 1 ≤ length.toNat ∧ length.toNat ≤ 240 := by
  simp [within]

theorem answerConnSend_badArg
    (hout : ¬ (entry.toNat ≤ 31 ∧ handle.toNat ≤ 191 ∧ 1 ≤ length.toNat ∧ length.toNat ≤ 240 ∧ notify.toNat ≤ 1)) :
    answerConnSend p entry handle length hostTag notify s = .refuse .badArg s := by
  by_cases hh : 191 < handle.toNat
  · simp [answerConnSend, handleArg_of_lt hh]
  by_cases hn : 1 < notify.toNat
  · simp [answerConnSend, choiceArg_of_lt hn]
  have hhandle : handleArg handle = some ⟨handle.toNat, Nat.lt_succ_of_le (Nat.le_of_not_lt hh)⟩ := handleArg_of_eq rfl
  by_cases hl : within 1 240 length.toNat = true
  · have hentry : 31 < entry.toNat := by
      rw [length_within] at hl
      omega
    simp [answerConnSend, hhandle, choiceArg_of_le (Nat.le_of_not_lt hn), withOwnEntry_badArg hentry]
  · simp [answerConnSend, hhandle, choiceArg_of_le (Nat.le_of_not_lt hn), hl]

/-- With the arguments in range the entry decides. -/
theorem answerConnSend_inRange (hh : handle.toNat = h.val) (hl : 1 ≤ length.toNat ∧ length.toNat ≤ 240)
    (hn : notify.toNat ≤ 1) :
    answerConnSend p entry handle length hostTag notify s =
      withOwnEntry p entry s fun e c =>
        if c.state ≠ .opened then .refuse .badState s
        else if 16 ≤ c.sendQueue.length + c.unacked.length then .refuse .queueFull s
        else if !s.pool.holds p h then .refuse .badHandle s
        else
          .ok []
            ((s.withPool (s.pool.unhold p h)).setEntry e
              (c.enqueue
                { handle := h, length := length.toNat, tag := hostTag, notify := decide (notify = 1) }).settleTimer).schedule
      := by
  simp only [answerConnSend, handleArg_of_eq hh, choiceArg_of_le hn, length_within.2 hl, Bool.not_true,
    Bool.false_eq_true, if_false]
  rfl

theorem answerConnSend_notOwner (hh : handle.toNat = h.val) (hl : 1 ≤ length.toNat ∧ length.toNat ≤ 240)
    (hn : notify.toNat ≤ 1) (he : entry.toNat = e.val) (hown : ¬ (s.entry e).ownedBy p = true) :
    answerConnSend p entry handle length hostTag notify s = .refuse .notOwner s := by
  rw [answerConnSend_inRange hh hl hn, withOwnEntry_notOwner he hown]

theorem answerConnSend_badState (hh : handle.toNat = h.val) (hl : 1 ≤ length.toNat ∧ length.toNat ≤ 240)
    (hn : notify.toNat ≤ 1) (he : entry.toNat = e.val) (hown : (s.entry e).ownedBy p = true)
    (hstate : (s.entry e).state ≠ .opened) :
    answerConnSend p entry handle length hostTag notify s = .refuse .badState s := by
  rw [answerConnSend_inRange hh hl hn, withOwnEntry_own he hown, if_pos hstate]

theorem answerConnSend_queueFull (hh : handle.toNat = h.val) (hl : 1 ≤ length.toNat ∧ length.toNat ≤ 240)
    (hn : notify.toNat ≤ 1) (he : entry.toNat = e.val) (hown : (s.entry e).ownedBy p = true)
    (hstate : (s.entry e).state = .opened) (hfull : 16 ≤ (s.entry e).sendQueue.length + (s.entry e).unacked.length) :
    answerConnSend p entry handle length hostTag notify s = .refuse .queueFull s := by
  rw [answerConnSend_inRange hh hl hn, withOwnEntry_own he hown, if_neg (not_not.2 hstate), if_pos hfull]

theorem answerConnSend_badHandle (hh : handle.toNat = h.val) (hl : 1 ≤ length.toNat ∧ length.toNat ≤ 240)
    (hn : notify.toNat ≤ 1) (he : entry.toNat = e.val) (hown : (s.entry e).ownedBy p = true)
    (hstate : (s.entry e).state = .opened) (hroom : (s.entry e).sendQueue.length + (s.entry e).unacked.length < 16)
    (hnot : h ∉ (s.account p).held) :
    answerConnSend p entry handle length hostTag notify s = .refuse .badHandle s := by
  rw [answerConnSend_inRange hh hl hn, withOwnEntry_own he hown, if_neg (not_not.2 hstate),
    if_neg (Nat.not_le_of_lt hroom), if_pos (by simpa using mt holds_iff.1 hnot)]

theorem answerConnSend_ok (hh : handle.toNat = h.val) (hl : 1 ≤ length.toNat ∧ length.toNat ≤ 240)
    (hn : notify.toNat ≤ 1) (he : entry.toNat = e.val) (hown : (s.entry e).ownedBy p = true)
    (hstate : (s.entry e).state = .opened) (hroom : (s.entry e).sendQueue.length + (s.entry e).unacked.length < 16)
    (hheld : h ∈ (s.account p).held) :
    answerConnSend p entry handle length hostTag notify s =
      .ok []
        ((s.withPool (s.pool.unhold p h)).setEntry e
          ((s.entry e).enqueue
            { handle := h, length := length.toNat, tag := hostTag, notify := decide (notify = 1) }).settleTimer).schedule
    := by
  rw [answerConnSend_inRange hh hl hn, withOwnEntry_own he hown, if_neg (not_not.2 hstate),
    if_neg (Nat.not_le_of_lt hroom), if_neg (by simpa using holds_iff.2 hheld)]

end

/-- Settles O8: the checks in their order, and the message queued with the buffer out of the held set. -/
theorem connSendQueuesTheMessage : Obligations.ConnSendQueuesTheMessage := by
  intro s r entry handle length hostTag notify hs hr
  refine ⟨fun hout => congrArg _ (request_refuses hs hr (answerConnSend_badArg hout)), fun e h hin he hh => ?_⟩
  obtain ⟨-, -, hlow, hhigh, hn⟩ := hin
  refine ⟨fun hown => ?_, fun hown hstate => ?_, fun hown hstate hfull => ?_, fun hown hstate hroom hnot => ?_,
    fun hown hstate hroom hheld => ?_⟩
  · exact congrArg _ (request_refuses hs hr
      (answerConnSend_notOwner hh ⟨hlow, hhigh⟩ hn he (mt ownedBy_iff.1 hown)))
  · exact congrArg _ (request_refuses hs hr
      (answerConnSend_badState hh ⟨hlow, hhigh⟩ hn he (ownedBy_iff.2 hown) hstate))
  · exact congrArg _ (request_refuses hs hr
      (answerConnSend_queueFull hh ⟨hlow, hhigh⟩ hn he (ownedBy_iff.2 hown) hstate hfull))
  · exact congrArg _ (request_refuses hs hr
      (answerConnSend_badHandle hh ⟨hlow, hhigh⟩ hn he (ownedBy_iff.2 hown) hstate hroom hnot))
  · exact congrArg _ (request_serves_keepingPorts _ hs hr
      ((answerConnSend_ok (s := s.taking r.port _) hh ⟨hlow, hhigh⟩ hn he (ownedBy_iff.2 hown) hstate hroom hheld).trans
        rfl) fun t => by rw [schedule_ports])

/-! ### CONN.HOLD and CONN.RESUME -/

/-- An own entry that is OPENING, CLOSING or ENDED is not live. -/
theorem not_live_of_state {c : ConnEntry} (h : c.state = .opening ∨ c.state = .closing ∨ c.state = .ended) :
    ¬ c.live = true := by
  rw [live_iff]
  rcases h with h | h | h <;> rw [h] <;> nofun

theorem not_free_of_state {c : ConnEntry} (h : c.state = .opening ∨ c.state = .closing ∨ c.state = .ended) :
    c.state ≠ .free := by
  rcases h with h | h | h <;> rw [h] <;> nofun

/-- R47, R49: host hold cleared, with the READY that is then owed. -/
theorem holdOff_endOfBusy (c : ConnEntry) :
    c.holdOff.endOfBusy =
      { c with
        flags :=
          { c.flags with
            hostHold := false
            busyAnnounced := c.flags.busyAnnounced && !(c.flags.busyAnnounced && !c.flags.starved && !c.noticeFull)
            statusDue := c.flags.statusDue || (c.flags.busyAnnounced && !c.flags.starved && !c.noticeFull) } } := by
  have hbusy : c.holdOff.busy = (c.flags.starved || c.noticeFull) := by
    simp only [ConnEntry.busy, ConnEntry.holdOff, Bool.false_or]
    rfl
  rw [endOfBusy_flags, hbusy, Bool.not_or, ← Bool.and_assoc]
  rfl

section
variable (he : entry.toNat = e.val) (hown : (s.entry e).ownedBy p = true)
include he hown

theorem answerConnHold_badState (hlive : ¬ (s.entry e).live = true) :
    answerConnHold p entry s = .refuse .badState s := by
  rw [answerConnHold, withOwnEntry_own he hown, if_pos (by simpa using hlive)]

theorem answerConnHold_again (hlive : (s.entry e).live = true) (hhold : (s.entry e).flags.hostHold = true) :
    answerConnHold p entry s = .ok [] s := by
  rw [answerConnHold, withOwnEntry_own he hown, if_neg (by simpa using hlive), if_pos hhold]

theorem answerConnHold_ok (hlive : (s.entry e).live = true) (hhold : (s.entry e).flags.hostHold = false) :
    answerConnHold p entry s = .ok [] (s.setEntry e (s.entry e).holdOn.settleTimer).schedule := by
  rw [answerConnHold, withOwnEntry_own he hown, if_neg (by simpa using hlive), if_neg (by simpa using hhold)]

theorem answerConnResume_badState (hlive : ¬ (s.entry e).live = true) :
    answerConnResume p entry s = .refuse .badState s := by
  rw [answerConnResume, withOwnEntry_own he hown, if_pos (by simpa using hlive)]

theorem answerConnResume_again (hlive : (s.entry e).live = true) (hhold : (s.entry e).flags.hostHold = false) :
    answerConnResume p entry s = .ok [] s := by
  rw [answerConnResume, withOwnEntry_own he hown, if_neg (by simpa using hlive), if_pos (by simpa using hhold)]

theorem answerConnResume_ok (hlive : (s.entry e).live = true) (hhold : (s.entry e).flags.hostHold = true) :
    answerConnResume p entry s = .ok [] (s.setEntry e (s.entry e).holdOff.endOfBusy.settleTimer).schedule := by
  rw [answerConnResume, withOwnEntry_own he hown, if_neg (by simpa using hlive), if_neg (by simpa using hhold)]

end

/-- Settles O9: both requests by the entry's state and its host hold. -/
theorem connHoldAndResume : Obligations.ConnHoldAndResume := by
  intro s r entry hs hr
  refine ⟨fun hout => ⟨?_, ?_⟩, fun e he howner horphan => ⟨fun hstate => ?_, fun hlive => ?_⟩⟩
  · exact congrArg _ (request_refuses hs hr (withOwnEntry_badArg hout))
  · exact congrArg _ (request_refuses hs hr (withOwnEntry_badArg hout))
  · have hown := ownedBy_iff.2 ⟨howner, not_free_of_state hstate, horphan⟩
    have hnot := not_live_of_state hstate
    exact ⟨congrArg _ (request_refuses hs hr (answerConnHold_badState he hown hnot)),
      congrArg _ (request_refuses hs hr (answerConnResume_badState he hown hnot))⟩
  · have hown := ownedBy_iff.2 ⟨howner, state_ne_free (live_iff.2 hlive), horphan⟩
    replace hlive := live_iff.2 hlive
    refine ⟨fun hhold => ?_, fun hhold => ?_, fun hhold => ?_, fun hhold => ?_⟩
    · exact congrArg _ (request_serves_keepingPorts id hs hr (answerConnHold_again he hown hlive hhold) fun _ => rfl)
    · exact congrArg _ (request_serves_keepingPorts _ hs hr
        ((answerConnHold_ok (s := s.taking r.port _) he hown hlive hhold).trans rfl) fun t => by rw [schedule_ports])
    · exact congrArg _ (request_serves_keepingPorts id hs hr (answerConnResume_again he hown hlive hhold)
        fun _ => rfl)
    · refine congrArg _ (request_serves_keepingPorts _ hs hr
        ((answerConnResume_ok (s := s.taking r.port _) he hown hlive hhold).trans ?_) fun t => by rw [schedule_ports])
      rw [taking_entry, holdOff_endOfBusy]
      rfl

end Sys2Proof.Machine
end

section
/-! The request CONN.CLOSE, and the refusals that need only the ownership or the right. -/

namespace Sys2Proof.Machine

variable {s : State} {p : Port} {e : EntryIdx} {entry form : Byte}

/-! ### What a choice leaves of the entries' states -/

theorem giveFrame_entries (c : ConnEntry) (f : Frame) (sn : Option Seq) (d : Discharged) :
    (s.giveFrame e c f sn d).entries = (s.setEntry e c).entries := startFrame_entries _ _ _ _ _

/-- A frame that an entry gives leaves the states of all entries as they are. -/
theorem giveFrame_state {c : ConnEntry} (hc : c.state = (s.entry e).state) (f : Frame) (sn : Option Seq)
    (d : Discharged) (k : EntryIdx) : ((s.giveFrame e c f sn d).entry k).state = (s.entry k).state := by
  rw [State.entry, giveFrame_entries, ← State.entry]
  by_cases hek : e = k
  · rw [← hek, entry_setEntry_same, hc]
  · rw [entry_setEntry_other _ _ hek]

theorem giveData_state (e k : EntryIdx) : ((s.giveData e).entry k).state = (s.entry k).state := by
  unfold State.giveData
  split
  · rfl
  · next m sn c hc => exact giveFrame_state (c := c.afterData) (takeMessage_fields hc).1 _ _ _ k

theorem giveResponse_state (e k : EntryIdx) : ((s.giveResponse e).entry k).state = (s.entry k).state := by
  have hstatus : ((s.giveStatus e).entry k).state = (s.entry k).state := giveFrame_state (c := (s.entry e).afterStatus) rfl _ _ _ k
  unfold State.giveResponse
  dsimp only
  split
  · exact giveFrame_state rfl _ _ _ k
  · split
    · exact giveFrame_state (c := { s.entry e with
        flags := { (s.entry e).flags with repeatDue := false, ackDue := false } }) rfl _ _ _ k
    · split
      · exact hstatus
      · split
        · exact giveData_state e k
        · exact hstatus

theorem giveInitiative_state (e k : EntryIdx) : ((s.giveInitiative e).entry k).state = (s.entry k).state := by
  have hstatus : ((s.giveStatus e).entry k).state = (s.entry k).state := giveFrame_state (c := (s.entry e).afterStatus) rfl _ _ _ k
  unfold State.giveInitiative
  split
  · exact giveFrame_state rfl _ _ _ k
  · exact giveFrame_state (c := (s.entry e).settleAbort) rfl _ _ _ k
  · exact hstatus
  · exact hstatus
  all_goals rfl

theorem startChoice_state (c : Choice) (k : EntryIdx) : ((s.startChoice c).entry k).state = (s.entry k).state := by
  cases c with
  | stray r =>
    show ((State.startFrame _ _ _ _ _).entry k).state = _
    rw [State.entry, startFrame_entries]
    rfl
  | response e => exact giveResponse_state (s := s.withSched (s.sched.moveTo (.response e))) e k
  | initiative e => exact giveInitiative_state (s := s.withSched (s.sched.moveTo (.initiative e))) e k
  | data p e => exact giveData_state (s := s.withSched (s.sched.moveTo (.data p e))) e k
  | passing e p j =>
    refine (giveData_state (s := (s.withSched (s.sched.moveTo (.passing e p j))).modEntry e ConnEntry.settleAbort)
      j k).trans ?_
    by_cases hek : e = k
    · rw [← hek, modEntry_eq, entry_setEntry_same]
      rfl
    · rw [modEntry_eq, entry_setEntry_other _ _ hek]
      rfl

theorem beginHandover_entries (k : HandoverKind) (a : Byte) : (s.beginHandover k a).entries = s.entries :=
  startFrame_entries _ _ _ _ _

theorem endTurn_entries : s.endTurn.entries = s.entries := by
  rcases endTurn_cases s with h | ⟨a, h⟩ | ⟨a, h⟩ <;> rw [h]
  · exact beginHandover_entries (s := s.withTurn { s.turn with probeCursor := a, rotation := 0 }) .probe a
  · exact beginHandover_entries .normal a

/-- The choice changes the state of no entry. -/
theorem schedule_state (k : EntryIdx) : (s.schedule.entry k).state = (s.entry k).state := by
  rcases schedule_cases s with ⟨-, h⟩ | ⟨-, -, -, h⟩ | ⟨c, -, -, h⟩ <;> rw [h]
  · rw [State.entry, endTurn_entries, ← State.entry]
  · exact startChoice_state c k

/-! ### CONN.CLOSE -/

theorem answerConnClose_badArg (h : 31 < entry.toNat ∨ 1 < form.toNat) :
    answerConnClose p entry form s = .refuse .badArg s := by
  unfold answerConnClose
  split
  · rfl
  · next hform =>
    refine withOwnEntry_badArg (h.resolve_right fun hlt => ?_)
    rw [choiceArg_of_lt hlt] at hform
    cases hform

theorem answerConnClose_inRange (hf : form.toNat ≤ 1) (he : entry.toNat = e.val)
    (hown : (s.entry e).ownedBy p = true) :
    answerConnClose p entry form s = closeEntry e (s.entry e) (decide (form = 1)) s := by
  rw [answerConnClose, choiceArg_of_le hf]
  exact withOwnEntry_own he hown

theorem closeEntry_opening {b : Bool} (h : (s.entry e).state = .opening) (howner : (s.entry e).owner = some p) :
    closeEntry e (s.entry e) b s = .ok [0] ((s.freeEntry e).modPort p (·.offer (.closed e false))) := by
  have hevent : (s.freeEntry e).closedEvent (s.entry e).owner e false =
      (s.freeEntry e).modPort p (·.offer (.closed e false)) := by rw [howner]; rfl
  rw [closeEntry, h]
  simp only [hevent, closeReply]
  rw [modPort_eq, setPort_entry, freeEntry_entry]
  rfl

theorem closeEntry_refused {b : Bool} (h : (s.entry e).state = .closing ∨ (s.entry e).state = .ended) :
    closeEntry e (s.entry e) b s = .refuse .badState s := by
  rcases h with h | h <;> rw [closeEntry, h]

/-- R12: an OPEN entry that drains with messages goes on as DRAINING. -/
theorem drain_with_messages {c : ConnEntry} (h : c.sendQueue ≠ [] ∨ c.unacked ≠ []) :
    c.toDraining.settleTimer.drained = c.toDraining.settleTimer := by
  refine if_neg fun hall => ?_
  simp only [Bool.and_eq_true, List.isEmpty_iff] at hall
  obtain ⟨⟨-, hqueue⟩, hunacked⟩ := hall
  obtain ⟨-, hq, hu, -⟩ := settleTimer_fields c.toDraining
  exact h.elim (fun h => h (hq ▸ hqueue)) fun h => h (hu ▸ hunacked)

/-- R12, R13: without messages it is CLOSING at once. -/
theorem drain_empty {c : ConnEntry} (hqueue : c.sendQueue = []) (hunacked : c.unacked = []) :
    c.toDraining.settleTimer.drained = c.toClosing := by
  obtain ⟨hs, hq, hu, -⟩ := settleTimer_fields c.toDraining
  have hqueue' : c.toDraining.settleTimer.sendQueue = [] := hq.trans hqueue
  have hunacked' : c.toDraining.settleTimer.unacked = [] := hu.trans hunacked
  rw [ConnEntry.drained, hs, hqueue', hunacked']
  show c.toDraining.settleTimer.toClosing = _
  rw [settleTimer_eq]
  rfl

theorem closeReply_state {t : State} {st : EntryState} (h : (t.entry e).state = st) :
    closeReply e t = .ok [byte st.code] t := by
  rw [closeReply, h]

theorem closeEntry_drain (h : (s.entry e).state = .opened)
    (hmessages : (s.entry e).sendQueue ≠ [] ∨ (s.entry e).unacked ≠ []) :
    closeEntry e (s.entry e) false s = .ok [3] (s.setEntry e (s.entry e).toDraining.settleTimer).schedule := by
  rw [closeEntry, h]
  simp only [Bool.false_eq_true, if_false, drain_with_messages hmessages]
  refine closeReply_state (st := .draining) ?_
  rw [schedule_state, entry_setEntry_same]
  exact (settleTimer_fields _).1

theorem closeEntry_drainEmpty (h : (s.entry e).state = .opened) (hqueue : (s.entry e).sendQueue = [])
    (hunacked : (s.entry e).unacked = []) :
    closeEntry e (s.entry e) false s = .ok [4] (s.setEntry e (s.entry e).toClosing).schedule := by
  rw [closeEntry, h]
  simp only [Bool.false_eq_true, if_false, drain_empty hqueue hunacked]
  refine closeReply_state (st := .closing) ?_
  rw [schedule_state, entry_setEntry_same]
  rfl

theorem closeEntry_drainAgain (h : (s.entry e).state = .draining) :
    closeEntry e (s.entry e) false s = .ok [3] s := by
  rw [closeEntry, h]
  exact closeReply_state h

theorem abortEntry_state : ((s.abortEntry e).entry e).state = .closing := by
  rw [abortEntry_eq, makeNotices_entry, entry_setEntry_same]
  rfl

theorem closeEntry_abort (h : (s.entry e).state = .opened ∨ (s.entry e).state = .draining) :
    closeEntry e (s.entry e) true s =
      .ok [4] ((s.setEntry e { s.entry e with aborted := (s.entry e).dataAlone }).abortEntry e).schedule := by
  have hreply : closeReply e (s.abortRequest e) = .ok [4] (s.abortRequest e) := by
    refine closeReply_state (st := .closing) ?_
    rw [State.abortRequest, schedule_state, abortEntry_state]
  rcases h with h | h <;> rw [closeEntry, h] <;> exact hreply

theorem schedule_transaction (q : Port) : (s.schedule.port q).transaction = (s.port q).transaction := by
  rw [schedule_port]

/-- R13: new notices change no port but for its queue. -/
theorem makeNotices_transaction (ns : List Notice) (q : Port) :
    ((s.makeNotices e ns).port q).transaction = (s.port q).transaction := by
  rcases makeNotices_cases s e ns with h | ⟨p, told, kept, -, -, -, -, h⟩
  · rw [h]
  · rw [h]
    by_cases hpq : p = q
    · rw [← hpq, afterNotices_port]
    · rw [afterNotices_port_other _ _ hpq]

theorem abortEntry_transaction (q : Port) : ((s.abortEntry e).port q).transaction = (s.port q).transaction := by
  rw [abortEntry_eq, makeNotices_transaction, setEntry_port]

section
variable (he : entry.toNat = e.val) (hown : (s.entry e).ownedBy p = true)
include he hown

theorem answerConnClose_opening (hf : form.toNat ≤ 1) (h : (s.entry e).state = .opening) :
    answerConnClose p entry form s = .ok [0] ((s.freeEntry e).modPort p (·.offer (.closed e false))) := by
  rw [answerConnClose_inRange hf he hown, closeEntry_opening h (ownedBy_iff.1 hown).1]

theorem answerConnClose_refused (hf : form.toNat ≤ 1) (h : (s.entry e).state = .closing ∨ (s.entry e).state = .ended) :
    answerConnClose p entry form s = .refuse .badState s := by
  rw [answerConnClose_inRange hf he hown, closeEntry_refused h]

theorem answerConnClose_drain (h : (s.entry e).state = .opened)
    (hmessages : (s.entry e).sendQueue ≠ [] ∨ (s.entry e).unacked ≠ []) :
    answerConnClose p entry 0 s = .ok [3] (s.setEntry e (s.entry e).toDraining.settleTimer).schedule := by
  rw [answerConnClose_inRange (by decide) he hown]
  exact closeEntry_drain h hmessages

theorem answerConnClose_drainEmpty (h : (s.entry e).state = .opened) (hqueue : (s.entry e).sendQueue = [])
    (hunacked : (s.entry e).unacked = []) :
    answerConnClose p entry 0 s = .ok [4] (s.setEntry e (s.entry e).toClosing).schedule := by
  rw [answerConnClose_inRange (by decide) he hown]
  exact closeEntry_drainEmpty h hqueue hunacked

theorem answerConnClose_drainAgain (h : (s.entry e).state = .draining) :
    answerConnClose p entry 0 s = .ok [3] s := by
  rw [answerConnClose_inRange (by decide) he hown]
  exact closeEntry_drainAgain h

theorem answerConnClose_abort (h : (s.entry e).state = .opened ∨ (s.entry e).state = .draining) :
    answerConnClose p entry 1 s =
      .ok [4] ((s.setEntry e { s.entry e with aborted := (s.entry e).dataAlone }).abortEntry e).schedule := by
  rw [answerConnClose_inRange (by decide) he hown]
  exact closeEntry_abort h

end

theorem offer_transaction (ps : PortState) (b : EventBody) : (ps.offer b).transaction = ps.transaction := by
  rw [offer_fields]

/-- Settles O10: the refusals, and the close by the entry's state, its messages and the form. -/
theorem connCloseByState : Obligations.ConnCloseByState := by
  intro s r entry form hs hr
  refine ⟨fun hout => congrArg _ (request_refuses hs hr (answerConnClose_badArg hout)),
    fun e he hf howner horphan => ?_⟩
  have hown : (s.entry e).state ≠ .free → (s.entry e).ownedBy r.port = true := fun hused =>
    ownedBy_iff.2 ⟨howner, hused, horphan⟩
  refine ⟨fun hstate => ?_, ?_, ?_, ?_, ?_, fun hstate => ?_⟩
  · refine congrArg _ (request_serves _ hs hr
      (answerConnClose_opening (s := s.taking r.port _) he (hown (by rw [hstate]; nofun)) hf hstate) ?_)
    rw [modPort_eq, port_setPort_same, offer_transaction, freeEntry_port, taking_transaction]
    nofun
  · rintro hstate rfl hmessages
    refine congrArg _ (request_serves_keepingPorts _ hs hr
      ((answerConnClose_drain (s := s.taking r.port _) he (hown (by rw [hstate]; nofun)) hstate hmessages).trans rfl)
      fun t => ?_)
    rw [schedule_ports, setEntry_ports]
  · rintro hstate rfl hqueue hunacked
    refine congrArg _ (request_serves_keepingPorts _ hs hr
      ((answerConnClose_drainEmpty (s := s.taking r.port _) he (hown (by rw [hstate]; nofun)) hstate hqueue
        hunacked).trans rfl) fun t => ?_)
    rw [schedule_ports, setEntry_ports]
  · rintro hstate rfl
    exact congrArg _ (request_serves_keepingPorts id hs hr
      (answerConnClose_drainAgain he (hown (by rw [hstate]; nofun)) hstate) fun _ => rfl)
  · rintro hstate rfl
    refine congrArg _ (request_serves _ hs hr
      ((answerConnClose_abort (s := s.taking r.port _) he (hown (state_ne_free (live_iff.2 hstate))) hstate).trans rfl)
      ?_)
    rw [schedule_transaction, abortEntry_transaction, setEntry_port, taking_transaction]
    nofun
  · exact congrArg _ (request_refuses hs hr
      (answerConnClose_refused he (hown (by rcases hstate with h | h <;> rw [h] <;> nofun)) hf hstate))

/-! ### Ownership and right -/

theorem isStation_iff {a : Byte} : isStation a = true ↔ 1 ≤ a.toNat ∧ a.toNat ≤ 62 := by
  simp [isStation]

theorem answerTurnAdd_noRight {a : Byte} (ha : isStation a = true) (h : ¬ s.hasRight p = true) :
    answerTurnAdd p a s = .refuse .noRight s := by
  simp [answerTurnAdd, ha, h]

theorem answerTurnRemove_noRight {a : Byte} (ha : isStation a = true) (h : ¬ s.hasRight p = true) :
    answerTurnRemove p a s = .refuse .noRight s := by
  simp [answerTurnRemove, ha, h]

theorem answerLineStart_noRight (h : ¬ s.hasRight p = true) : answerLineStart p s = .refuse .noRight s := by
  simp [answerLineStart, h]

theorem answerLineStop_noRight (h : ¬ s.hasRight p = true) : answerLineStop p s = .refuse .noRight s := by
  simp [answerLineStop, h]

theorem answerLineStatus_noRight (h : ¬ s.hasRight p = true) : answerLineStatus p 1 s = .refuse .noRight s := by
  show (if !s.hasRight p then _ else _) = _
  simp [h]

/-- Settles O14: the ownership check comes before the entry's state, and the right before the state of the line. -/
theorem requestsNeedOwnershipAndRight : Obligations.RequestsNeedOwnershipAndRight := by
  refine ⟨fun s r entry e hs hr he hown => ?_, fun s r hs hr hright => ?_⟩
  · have hnot : ¬ (s.entry e).ownedBy r.port = true := mt ownedBy_iff.1 hown
    refine ⟨?_, ?_, ?_, fun form hform => ?_, fun handle length notify hostTag hh hlow hhigh hn => ?_⟩
    · exact congrArg _ (request_refuses hs hr (withOwnEntry_notOwner (s := s.taking r.port _) he hnot))
    · exact congrArg _ (request_refuses hs hr (withOwnEntry_notOwner (s := s.taking r.port _) he hnot))
    · exact congrArg _ (request_refuses hs hr (withOwnEntry_notOwner (s := s.taking r.port _) he hnot))
    · refine congrArg _ (request_refuses hs hr ?_)
      rw [answerConnClose, choiceArg_of_le hform]
      exact withOwnEntry_notOwner he hnot
    · exact congrArg _ (request_refuses hs hr
        (answerConnSend_notOwner (h := ⟨handle.toNat, Nat.lt_succ_of_le hh⟩) rfl ⟨hlow, hhigh⟩ hn he hnot))
  · have hnot : ¬ s.hasRight r.port = true := mt hasRight_iff.1 hright
    refine ⟨?_, ?_, ?_, fun a hlow hhigh => ⟨?_, ?_⟩⟩
    · exact congrArg _ (request_refuses hs hr (answerLineStart_noRight hnot))
    · exact congrArg _ (request_refuses hs hr (answerLineStop_noRight hnot))
    · exact congrArg _ (request_refuses hs hr (answerLineStatus_noRight hnot))
    · exact congrArg _ (request_refuses hs hr (answerTurnAdd_noRight (isStation_iff.2 ⟨hlow, hhigh⟩) hnot))
    · exact congrArg _ (request_refuses hs hr (answerTurnRemove_noRight (isStation_iff.2 ⟨hlow, hhigh⟩) hnot))

end Sys2Proof.Machine
end

section
/-! The requests on the listen table, LISTEN.ADD, LISTEN.DROP and LISTEN.LIST, and EVT.FILTER. -/

namespace Sys2Proof.Machine

variable {s : State} {p : Port}

/-! ### LISTEN.ADD -/

theorem listenKeyArg_iff {stationMatch stationMask : Byte} :
    listenKeyArg stationMatch stationMask = true ↔
      1 ≤ stationMatch.toNat ∧ stationMatch.toNat ≤ 62 ∧ stationMask.toNat ≤ 63 := by
  simp [listenKeyArg, isStation, and_assoc]

/-- R56: the arguments of LISTEN.ADD are in range. -/
def ListenArgsOk (stationMatch stationMask windowMax priority retryLimit : Byte) (answerTime : Half) : Prop :=
  priority.toNat ≤ 3 ∧ (listenKeyArg stationMatch stationMask && linkArgs windowMax retryLimit answerTime) = true

theorem priorityArg_of_eq {b : Byte} {pr : Fin 4} (h : b.toNat = pr.val) : priorityArg b = some pr := indexArg_of_eq h

section
variable {service stationMatch stationMask windowMax priority retryLimit accepts : Byte} {answerTime : Half}

theorem listenArgsOk_iff :
    ListenArgsOk stationMatch stationMask windowMax priority retryLimit answerTime ↔
      1 ≤ stationMatch.toNat ∧ stationMatch.toNat ≤ 62 ∧ stationMask.toNat ≤ 63 ∧ 1 ≤ windowMax.toNat ∧
        windowMax.toNat ≤ 4 ∧ priority.toNat ≤ 3 ∧ 1 ≤ retryLimit.toNat ∧ retryLimit.toNat ≤ 15 ∧
        5 ≤ answerTime.toNat ∧ answerTime.toNat ≤ 4095 := by
  rw [ListenArgsOk, Bool.and_eq_true, listenKeyArg_iff, linkArgs_iff]
  tauto

theorem answerListenAdd_badArg (h : ¬ ListenArgsOk stationMatch stationMask windowMax priority retryLimit answerTime) :
    answerListenAdd p service stationMatch stationMask windowMax priority retryLimit answerTime accepts s =
      .refuse .badArg s := by
  unfold answerListenAdd
  split
  · rfl
  · next pr hpr =>
    refine if_pos ?_
    have hle : priority.toNat ≤ 3 := by
      by_contra hlt
      rw [priorityArg, indexArg_of_le (by omega)] at hpr
      cases hpr
    rw [Bool.not_eq_true', Bool.eq_false_iff]
    exact fun hargs => h ⟨hle, hargs⟩

theorem answerListenAdd_inRange {pr : Fin 4} (hpr : priority.toNat = pr.val)
    (h : ListenArgsOk stationMatch stationMask windowMax priority retryLimit answerTime) :
    answerListenAdd p service stationMatch stationMask windowMax priority retryLimit answerTime accepts s =
      if 16 ≤ s.listen.length then .refuse .tableFull s
      else if s.listen.any (·.hasKey service stationMatch stationMask) then .refuse .duplicate s
      else
        .ok [byte s.listen.length]
          { s with
            listen :=
              s.listen ++
                [{ owner := p, service := service, stationMatch := stationMatch, stationMask := stationMask,
                   windowMax := windowMax.toNat, priority := pr, retryLimit := retryLimit.toNat,
                   answerTime := answerTime.toNat, accepts := accepts.toNat }] } := by
  rw [answerListenAdd, priorityArg_of_eq hpr]
  simp only [h.2, Bool.not_true, Bool.false_eq_true, if_false]
  rfl

theorem any_hasKey_iff {table : List ListenEntry} :
    table.any (·.hasKey service stationMatch stationMask) = true ↔
      ∃ l ∈ table, l.service = service ∧ l.stationMatch = stationMatch ∧ l.stationMask = stationMask := by
  simp only [List.any_eq_true, hasKey_iff]

theorem answerListenAdd_tableFull (h : ListenArgsOk stationMatch stationMask windowMax priority retryLimit answerTime)
    (hfull : 16 ≤ s.listen.length) :
    answerListenAdd p service stationMatch stationMask windowMax priority retryLimit answerTime accepts s =
      .refuse .tableFull s := by
  rw [answerListenAdd_inRange (pr := ⟨priority.toNat, Nat.lt_succ_of_le h.1⟩) rfl h, if_pos hfull]

theorem answerListenAdd_duplicate (h : ListenArgsOk stationMatch stationMask windowMax priority retryLimit answerTime)
    (hroom : s.listen.length < 16)
    (hkey : ∃ l ∈ s.listen, l.service = service ∧ l.stationMatch = stationMatch ∧ l.stationMask = stationMask) :
    answerListenAdd p service stationMatch stationMask windowMax priority retryLimit answerTime accepts s =
      .refuse .duplicate s := by
  rw [answerListenAdd_inRange (pr := ⟨priority.toNat, Nat.lt_succ_of_le h.1⟩) rfl h, if_neg (Nat.not_le_of_lt hroom),
    if_pos (any_hasKey_iff.2 hkey)]

theorem answerListenAdd_ok {pr : Fin 4} (hpr : priority.toNat = pr.val)
    (h : ListenArgsOk stationMatch stationMask windowMax priority retryLimit answerTime) (hroom : s.listen.length < 16)
    (hkey : ¬ ∃ l ∈ s.listen, l.service = service ∧ l.stationMatch = stationMatch ∧ l.stationMask = stationMask) :
    answerListenAdd p service stationMatch stationMask windowMax priority retryLimit answerTime accepts s =
      .ok [byte s.listen.length]
        { s with
          listen :=
            s.listen ++
              [{ owner := p, service := service, stationMatch := stationMatch, stationMask := stationMask,
                 windowMax := windowMax.toNat, priority := pr, retryLimit := retryLimit.toNat,
                 answerTime := answerTime.toNat, accepts := accepts.toNat }] } := by
  rw [answerListenAdd_inRange hpr h, if_neg (Nat.not_le_of_lt hroom), if_neg (mt any_hasKey_iff.1 hkey)]

end

/-- Settles O15: the ranges, the room and the key decide, in this order. -/
theorem listenAddAppends : Obligations.ListenAddAppends := by
  intro s r service stationMatch stationMask windowMax priority retryLimit answerTime accepts hs hr
  refine ⟨fun hout => ?_, fun hin hfull => ?_, fun hin hroom hkey => ?_, fun hin hroom hkey pr hpr => ?_⟩
  · exact congrArg _ (request_refuses hs hr (answerListenAdd_badArg (mt listenArgsOk_iff.1 hout)))
  · exact congrArg _ (request_refuses hs hr (answerListenAdd_tableFull (listenArgsOk_iff.2 hin) hfull))
  · exact congrArg _ (request_refuses hs hr (answerListenAdd_duplicate (listenArgsOk_iff.2 hin) hroom hkey))
  · refine congrArg _ (request_serves_keepingPorts _ hs hr ?_ ?_)
    · exact (answerListenAdd_ok (s := s.taking r.port _) hpr (listenArgsOk_iff.2 hin) hroom hkey).trans rfl
    · exact fun _ => rfl

/-! ### LISTEN.DROP and LISTEN.LIST -/

section
variable {service stationMatch stationMask : Byte}

theorem answerListenDrop_badArg (h : ¬ (1 ≤ stationMatch.toNat ∧ stationMatch.toNat ≤ 62 ∧ stationMask.toNat ≤ 63)) :
    answerListenDrop p service stationMatch stationMask s = .refuse .badArg s :=
  if_pos (by simpa using mt listenKeyArg_iff.1 h)

theorem answerListenDrop_absent (hin : listenKeyArg stationMatch stationMask = true)
    (h : ∀ l ∈ s.listen, ¬ l.hasKey service stationMatch stationMask = true) :
    answerListenDrop p service stationMatch stationMask s = .refuse .notOwner s := by
  have hnone : s.listen.find? (·.hasKey service stationMatch stationMask) = none := List.find?_eq_none.2 h
  simp [answerListenDrop, hin, hnone]

/-- R57: the first entry with the key decides. -/
theorem answerListenDrop_found {front back : List ListenEntry} {l : ListenEntry}
    (hin : listenKeyArg stationMatch stationMask = true) (hlist : s.listen = front ++ l :: back)
    (hkey : l.hasKey service stationMatch stationMask = true)
    (hfront : ∀ k ∈ front, ¬ k.hasKey service stationMatch stationMask = true) :
    answerListenDrop p service stationMatch stationMask s =
      if l.owner = p then .ok [byte l.accepts] { s with listen := front ++ back } else .refuse .notOwner s := by
  have hfind : s.listen.find? (·.hasKey service stationMatch stationMask) = some l := by
    rw [hlist, List.find?_append, List.find?_eq_none.2 hfront, List.find?_cons_of_pos (by exact hkey)]
    rfl
  have herase : s.listen.eraseP (·.hasKey service stationMatch stationMask) = front ++ back := by
    rw [hlist, List.eraseP_append_right _ hfront, List.eraseP_cons_of_pos (by exact hkey)]
  simp [answerListenDrop, hin, hfind, herase]

end

/-- R58: the reports of a table whose first entry has the position `k`. -/
theorem listenReports_eq (p : Port) (k : Nat) (table : List ListenEntry) :
    listenReports p k table =
      ((table.zipIdx k).filter fun x => decide (x.1.owner = p)).map fun x => x.1.report x.2 := by
  induction table generalizing k with
  | nil => rfl
  | cons l rest ih =>
    rw [listenReports, ih, List.zipIdx_cons]
    by_cases howner : l.owner = p
    · rw [if_pos howner, List.filter_cons_of_pos (by simpa using howner)]
      rfl
    · rw [if_neg howner, List.filter_cons_of_neg (by simpa using howner)]

theorem listenReport_eq (position : Nat) (l : ListenEntry) :
    l.report position =
      [byte position, l.service, l.stationMatch, l.stationMask, byte l.windowMax, byte l.priority.val,
        byte l.retryLimit, byte l.answerTime, byte (l.answerTime / 256), byte l.accepts] := by
  rw [ListenEntry.report, twoBytes_eq]
  rfl

theorem answerListenList_ok :
    answerListenList p s =
      .ok
        (byte (s.listen.zipIdx.filter fun x => decide (x.1.owner = p)).length ::
          (s.listen.zipIdx.filter fun x => decide (x.1.owner = p)).flatMap fun x =>
            [byte x.2, x.1.service, x.1.stationMatch, x.1.stationMask, byte x.1.windowMax, byte x.1.priority.val,
              byte x.1.retryLimit, byte x.1.answerTime, byte (x.1.answerTime / 256), byte x.1.accepts]) s := by
  rw [answerListenList]
  simp only [listenReports_eq, listenReport_eq, List.length_map, ← List.flatMap_def]

/-- Settles O16: the key finds the entry that goes, and the list reports the own entries with their positions. -/
theorem listenDropAndList : Obligations.ListenDropAndList := by
  refine ⟨fun s r service stationMatch stationMask hs hr => ?_, fun s r hs hr => ?_⟩
  · refine ⟨fun hout => ?_, fun hin hnone => ?_, fun hin front back l hlist hkey hfront => ?_⟩
    · exact congrArg _ (request_refuses hs hr (answerListenDrop_badArg hout))
    · exact congrArg _ (request_refuses hs hr
        (answerListenDrop_absent (listenKeyArg_iff.2 hin) fun l hl => mt hasKey_iff.1 (hnone l hl)))
    · have hfound := fun t ht => answerListenDrop_found (s := t) (p := r.port) (back := back) (listenKeyArg_iff.2 hin) ht
        (hasKey_iff.2 hkey) fun k hk => mt hasKey_iff.1 (hfront k hk)
      refine ⟨fun howner => ?_, fun howner => ?_⟩
      · exact congrArg _ (request_refuses hs hr ((hfound (s.taking r.port _) hlist).trans (if_neg howner)))
      · exact congrArg _ (request_serves_keepingPorts (fun t => { t with listen := front ++ back }) hs hr
          ((hfound (s.taking r.port _) hlist).trans (if_pos howner)) fun _ => rfl)
  · exact congrArg _ (request_serves_keepingPorts id hs hr answerListenList_ok fun _ => rfl)

/-! ### EVT.FILTER -/

section
variable {kind filter : Byte}

theorem kindArg_of_code {k : FilterKind} (h : k.code = kind.toNat) : kindArg kind = some k := by
  rw [kindArg, ← h]
  cases k <;> rfl

theorem kindArg_none (h : ¬ (1 ≤ kind.toNat ∧ kind.toNat ≤ 12)) : kindArg kind = none := by
  refine List.find?_eq_none.2 fun k _ hk => h ?_
  rw [← of_decide_eq_true hk]
  cases k <;> decide

theorem slot_code (k : FilterKind) : k.slot.val + 1 = k.code := by cases k <;> rfl

theorem isHeld_iff {k : FilterKind} : k.isHeld = true ↔ k.code ≤ 4 := by cases k <;> decide

theorem exists_slot (i : Fin 12) : ∃ k : FilterKind, k.slot = i := by
  fin_cases i
  exacts [⟨.arrived, rfl⟩, ⟨.received, rfl⟩, ⟨.unsent, rfl⟩, ⟨.ended, rfl⟩, ⟨.sent, rfl⟩, ⟨.opened, rfl⟩,
    ⟨.closed, rfl⟩, ⟨.peerWait, rfl⟩, ⟨.peerReady, rfl⟩, ⟨.starved, rfl⟩, ⟨.listenDone, rfl⟩, ⟨.line, rfl⟩]

theorem filterArg_of_code {f : Filter} (h : f.code = filter.toNat) : filterArg filter = some f := by
  have hf : filter = byte f.code := BitVec.eq_of_toNat_eq (by simp [h])
  subst hf
  cases f <;> rfl

theorem filterArg_none (h : ¬ filter.toNat ≤ 2) : filterArg filter = none := by
  have hne : ∀ c : Byte, c.toNat ≤ 2 → filter ≠ c := by
    rintro c hc rfl
    exact h hc
  rw [filterArg, if_neg (hne 0 (by decide)), if_neg (hne 1 (by decide)), if_neg (hne 2 (by decide))]

theorem exists_filter (h : filter.toNat ≤ 2) : ∃ f : Filter, f.code = filter.toNat := by
  have hcases : ∀ n, n ≤ 2 → ∃ f : Filter, f.code = n := by
    intro n hn
    interval_cases n
    exacts [⟨.drop, rfl⟩, ⟨.queue, rfl⟩, ⟨.alert, rfl⟩]
  exact hcases _ h

theorem exists_kind (h : 1 ≤ kind.toNat ∧ kind.toNat ≤ 12) : ∃ k : FilterKind, k.code = kind.toNat := by
  obtain ⟨k, hk⟩ := exists_slot ⟨kind.toNat - 1, by omega⟩
  refine ⟨k, ?_⟩
  rw [← slot_code, hk]
  exact Nat.sub_add_cancel h.1

theorem filter_drop_iff {f : Filter} (h : f.code = filter.toNat) : f = .drop ↔ filter = 0 := by
  rw [← BitVec.toNat_inj, ← h]
  cases f <;> decide

/-- R102: a filter that is refused is out of range, or DROP on a held kind. -/
theorem answerEvtFilter_badArg
    (h : ¬ (1 ≤ kind.toNat ∧ kind.toNat ≤ 12) ∨ ¬ filter.toNat ≤ 2 ∨ (kind.toNat ≤ 4 ∧ filter = 0)) :
    answerEvtFilter p kind filter s = .refuse .badArg s := by
  by_cases hkind : 1 ≤ kind.toNat ∧ kind.toNat ≤ 12
  · obtain ⟨k, hk⟩ := exists_kind hkind
    by_cases hfilter : filter.toNat ≤ 2
    · obtain ⟨f, hf⟩ := exists_filter hfilter
      obtain ⟨hheld, hzero⟩ := (h.resolve_left (not_not.2 hkind)).resolve_left (not_not.2 hfilter)
      rw [answerEvtFilter, kindArg_of_code hk, filterArg_of_code hf]
      simp [(filter_drop_iff hf).2 hzero, isHeld_iff.2 (hk ▸ hheld)]
    · simp [answerEvtFilter, filterArg_none hfilter]
  · simp [answerEvtFilter, kindArg_none hkind]

theorem answerEvtFilter_ok {k : FilterKind} {f : Filter} (hk : k.code = kind.toNat) (hf : f.code = filter.toNat)
    (h : ¬ (kind.toNat ≤ 4 ∧ filter = 0)) :
    answerEvtFilter p kind filter s =
      .ok [byte (look (s.port p).filters k.slot).code]
        (s.modPort p fun ps => { ps with filters := put ps.filters k.slot f }) := by
  have hnot : ¬ (decide (f = .drop) && k.isHeld) = true := by
    rw [Bool.and_eq_true, decide_eq_true_eq, filter_drop_iff hf, isHeld_iff, hk]
    exact fun ⟨hzero, hheld⟩ => h ⟨hheld, hzero⟩
  rw [answerEvtFilter, kindArg_of_code hk, filterArg_of_code hf]
  exact if_neg hnot

end

/-- Settles O18: the refusals, and the filter that takes its value. -/
theorem evtFilterSetsTheFilter : Obligations.EvtFilterSetsTheFilter := by
  refine ⟨⟨rfl, by decide⟩, fun s r kind filter hs hr => ⟨fun hout => ?_, fun _ hdrop place f hplace hf => ?_⟩⟩
  · exact congrArg _ (request_refuses hs hr (answerEvtFilter_badArg hout))
  · obtain ⟨k, rfl⟩ := exists_slot place
    refine congrArg _ (request_serves _ hs hr ?_ ?_)
    · rw [answerEvtFilter_ok ((slot_code k).symm.trans hplace) hf hdrop, taking_filters]
    · simp

end Sys2Proof.Machine
end

section
/-! The configuration requests CFG.STATION and CFG.QUOTA, the requests on the turn list, and the reports. -/

namespace Sys2Proof.Machine

variable {s : State} {p : Port} {station : Byte}

/-! ### CFG.STATION -/

theorem knows_iff {t : TurnController} {a : Byte} : t.knows a = true ↔ ∃ x ∈ t.list, x.address = a := by
  simp [TurnController.knows]

theorem answerCfgStation_badArg (h : ¬ isStation station = true) : answerCfgStation p station s = .refuse .badArg s := by
  simp [answerCfgStation, h]

theorem answerCfgStation_noRight (ha : isStation station = true) (h : ¬ s.hasRight p = true) :
    answerCfgStation p station s = .refuse .noRight s := by
  simp [answerCfgStation, ha, h]

theorem answerCfgStation_badState (ha : isStation station = true) (hright : s.hasRight p = true)
    (hon : s.turn.engine ≠ .offline) : answerCfgStation p station s = .refuse .badState s := by
  simp [answerCfgStation, ha, hright, hon]

theorem answerCfgStation_listed (ha : isStation station = true) (hright : s.hasRight p = true)
    (hoff : s.turn.engine = .offline) (hlisted : s.turn.knows station = true) :
    answerCfgStation p station s = .refuse .badArg s := by
  simp [answerCfgStation, ha, hright, hoff, hlisted]

theorem answerCfgStation_ok (ha : isStation station = true) (hright : s.hasRight p = true)
    (hoff : s.turn.engine = .offline) (hlisted : ¬ s.turn.knows station = true) :
    answerCfgStation p station s =
      .ok [s.config.station] { s with config := { s.config with station := station } } := by
  simp [answerCfgStation, ha, hright, hoff, hlisted]

/-- Settles O27: the range, the right, the line engine and the turn list decide, in this order. -/
theorem cfgStationSetsTheAddress : Obligations.CfgStationSetsTheAddress := by
  intro s r station hs hr
  refine ⟨fun hout => ?_, fun hin hright => ?_, fun hin hright hon => ?_, fun hin hright hoff hlisted => ?_,
    fun hin hright hoff hlisted => ?_⟩
  · exact congrArg _ (request_refuses hs hr (answerCfgStation_badArg (mt isStation_iff.1 hout)))
  · exact congrArg _ (request_refuses hs hr
      (answerCfgStation_noRight (isStation_iff.2 hin) (mt hasRight_iff.1 hright)))
  · exact congrArg _ (request_refuses hs hr
      (answerCfgStation_badState (isStation_iff.2 hin) (hasRight_iff.2 hright) hon))
  · exact congrArg _ (request_refuses hs hr
      (answerCfgStation_listed (isStation_iff.2 hin) (hasRight_iff.2 hright) hoff (knows_iff.2 hlisted)))
  · exact congrArg _ (request_serves_keepingPorts
      (fun t => { t with config := { s.config with station := station } }) hs hr
      (answerCfgStation_ok (s := s.taking r.port _) (isStation_iff.2 hin) (hasRight_iff.2 hright) hoff
        (mt knows_iff.1 hlisted)) fun _ => rfl)

/-! ### CFG.QUOTA -/

section
variable {port reserve limit : Byte} {q : Port}

/-- R93: the reserve of a port after the change of port `q`'s. -/
def State.newReserve (s : State) (q : Port) (reserve : Nat) (k : Port) : Nat :=
  if k = q then reserve else (s.account k).reserve

theorem withQuota_account (pool : Pool) (q : Port) (reserve limit : Nat) (k : Port) :
    (pool.withQuota q reserve limit).account k =
      if k = q then { pool.account q with reserve := reserve, limit := limit } else pool.account k := by
  rw [Pool.withQuota, modAccount_account]
  by_cases hk : k = q
  · rw [if_pos hk, if_pos hk.symm]
  · rw [if_neg hk, if_neg (Ne.symm hk)]

theorem withQuota_unused (q : Port) (reserve limit : Nat) (k : Port) :
    ((s.pool.withQuota q reserve limit).account k).unused = s.newReserve q reserve k - (s.account k).charge := by
  rw [withQuota_account, State.newReserve]
  split
  · next hk =>
    rw [hk]
    rfl
  · rfl

theorem withQuota_reserve (q : Port) (reserve limit : Nat) (k : Port) :
    ((s.pool.withQuota q reserve limit).account k).reserve = s.newReserve q reserve k := by
  rw [withQuota_account, State.newReserve]
  split <;> rfl

/-- R93: the four reserves and the four unused reserves after the change. -/
theorem withQuota_totals (q : Port) (reserve limit : Nat) :
    (s.pool.withQuota q reserve limit).reserveTotal =
      s.newReserve q reserve 0 + s.newReserve q reserve 1 + s.newReserve q reserve 2 + s.newReserve q reserve 3 ∧
    (s.pool.withQuota q reserve limit).unusedTotal =
      (s.newReserve q reserve 0 - (s.account 0).charge) + (s.newReserve q reserve 1 - (s.account 1).charge) +
        (s.newReserve q reserve 2 - (s.account 2).charge) + (s.newReserve q reserve 3 - (s.account 3).charge) := by
  refine ⟨?_, ?_⟩
  · rw [Pool.reserveTotal, sum_four]
    simp only [withQuota_reserve]
  · rw [Pool.unusedTotal, sum_four]
    simp only [withQuota_unused]

/-- R93: the reserves sum to at most 192, and the free count covers the unused ones. -/
def State.quotaLaw (s : State) (q : Port) (reserve limit : Nat) : Prop :=
  (s.pool.withQuota q reserve limit).reserveTotal ≤ 192 ∧
    (s.pool.withQuota q reserve limit).unusedTotal ≤ s.pool.freeList.length

theorem answerCfgQuota_badArg
    (h : ¬ (port.toNat ≤ 3 ∧ reserve.toNat ≤ limit.toNat ∧ limit.toNat ≤ 192)) :
    answerCfgQuota p port reserve limit s = .refuse .badArg s := by
  by_cases hport : 3 < port.toNat
  · simp [answerCfgQuota, portArg_of_lt hport]
  · have hrange : ¬ (reserve.toNat ≤ limit.toNat ∧ limit.toNat ≤ 192) := fun hr => h ⟨Nat.le_of_not_lt hport, hr⟩
    rw [answerCfgQuota, portArg_of_eq (q := ⟨port.toNat, by omega⟩) rfl]
    refine if_pos ?_
    rwa [Bool.not_eq_true', Bool.eq_false_iff, Ne, Bool.and_eq_true, decide_eq_true_eq, decide_eq_true_eq]

/-- With the arguments in range the right and the law decide. -/
theorem answerCfgQuota_inRange (hq : port.toNat = q.val)
    (hrange : reserve.toNat ≤ limit.toNat ∧ limit.toNat ≤ 192) :
    answerCfgQuota p port reserve limit s =
      if !s.hasRight p then .refuse .noRight s
      else if 192 < (s.pool.withQuota q reserve.toNat limit.toNat).reserveTotal then .refuse .badArg s
      else if s.pool.freeList.length < (s.pool.withQuota q reserve.toNat limit.toNat).unusedTotal then
        .refuse .badArg s
      else .ok [] (s.withPool (s.pool.withQuota q reserve.toNat limit.toNat)) := by
  rw [answerCfgQuota, portArg_of_eq hq]
  exact if_neg (by simpa using hrange)

theorem answerCfgQuota_noRight (hport : port.toNat ≤ 3)
    (hrange : reserve.toNat ≤ limit.toNat ∧ limit.toNat ≤ 192) (hright : ¬ s.hasRight p = true) :
    answerCfgQuota p port reserve limit s = .refuse .noRight s := by
  rw [answerCfgQuota_inRange (q := ⟨port.toNat, by omega⟩) rfl hrange, if_pos (by simpa using hright)]

theorem answerCfgQuota_unlawful (hq : port.toNat = q.val)
    (hrange : reserve.toNat ≤ limit.toNat ∧ limit.toNat ≤ 192) (hright : s.hasRight p = true)
    (hlaw : ¬ s.quotaLaw q reserve.toNat limit.toNat) : answerCfgQuota p port reserve limit s = .refuse .badArg s := by
  rw [answerCfgQuota_inRange hq hrange, if_neg (by simpa using hright)]
  split
  · rfl
  · next hsum =>
    split
    · rfl
    · next hcovered => exact absurd ⟨Nat.le_of_not_lt hsum, Nat.le_of_not_lt hcovered⟩ hlaw

theorem answerCfgQuota_ok (hq : port.toNat = q.val)
    (hrange : reserve.toNat ≤ limit.toNat ∧ limit.toNat ≤ 192) (hright : s.hasRight p = true)
    (hlaw : s.quotaLaw q reserve.toNat limit.toNat) :
    answerCfgQuota p port reserve limit s =
      .ok [] (s.withPool (s.pool.withQuota q reserve.toNat limit.toNat)) := by
  rw [answerCfgQuota_inRange hq hrange, if_neg (by simpa using hright), if_neg (Nat.not_lt.2 hlaw.1),
    if_neg (Nat.not_lt.2 hlaw.2)]

end

/-- Settles O29: the ranges, the right and the reserve law decide, in this order. -/
theorem cfgQuotaKeepsTheReserveLaw : Obligations.CfgQuotaKeepsTheReserveLaw := by
  intro s r port reserve limit hs hr
  have hlaw : ∀ q : Port, s.quotaLaw q reserve.toNat limit.toNat ↔ _ := fun q => by
    rw [State.quotaLaw, (withQuota_totals q reserve.toNat limit.toNat).1,
      (withQuota_totals q reserve.toNat limit.toNat).2]
  refine ⟨fun hout => ?_, fun ⟨hport, hrange⟩ hright => ?_, fun q ⟨_, hrange⟩ hq hright =>
    ⟨fun hnot => ?_, fun hok => ?_⟩⟩
  · exact congrArg _ (request_refuses hs hr (answerCfgQuota_badArg hout))
  · exact congrArg _ (request_refuses hs hr (answerCfgQuota_noRight hport hrange (mt hasRight_iff.1 hright)))
  · exact congrArg _ (request_refuses hs hr
      (answerCfgQuota_unlawful (s := s.taking r.port _) hq hrange (hasRight_iff.2 hright) (mt (hlaw q).1 hnot)))
  · refine congrArg _ (request_serves_keepingPorts _ hs hr ?_ ?_)
    · exact (answerCfgQuota_ok (s := s.taking r.port _) hq hrange (hasRight_iff.2 hright) ((hlaw q).2 hok)).trans rfl
    · exact fun _ => rfl

/-! ### TURN.ADD and TURN.REMOVE -/

/-- R119: a station that is not in the list stands between the lower and the higher addresses. -/
theorem insertStation_between {a : Byte} {front back : List Station}
    (hfront : ∀ x ∈ front, x.address.toNat < a.toNat) (hback : ∀ x ∈ back, a.toNat < x.address.toNat) :
    insertStation a (front ++ back) = front ++ { address := a, present := true } :: back := by
  induction front with
  | nil =>
    cases back with
    | nil => rfl
    | cons x rest => exact if_pos (hback x List.mem_cons_self)
  | cons x rest ih =>
    have hx := hfront x List.mem_cons_self
    rw [List.cons_append, insertStation, if_neg (by omega),
      ih fun y hy => hfront y (List.mem_cons_of_mem x hy)]
    rfl

theorem knows_false_of_split {t : TurnController} {a : Byte} {front back : List Station} (h : t.list = front ++ back)
    (hfront : ∀ x ∈ front, x.address.toNat < a.toNat) (hback : ∀ x ∈ back, a.toNat < x.address.toNat) :
    ¬ t.knows a = true := by
  rw [knows_iff, h]
  rintro ⟨x, hx, rfl⟩
  rcases List.mem_append.1 hx with hx | hx
  · exact absurd (hfront x hx) (lt_irrefl _)
  · exact absurd (hback x hx) (lt_irrefl _)

theorem sole_iff {t : TurnController} : t.sole = true ↔ t.list.any (·.present) = false := by
  simp [TurnController.sole]

section
variable (ha : isStation station = true)
include ha

theorem answerTurnAdd_own (hright : s.hasRight p = true) (hown : station = s.config.station) :
    answerTurnAdd p station s = .refuse .badArg s := by
  rw [answerTurnAdd, if_neg (by simpa using ha), if_neg (by simpa using hright), if_pos hown]

theorem answerTurnAdd_duplicate (hright : s.hasRight p = true) (hown : station ≠ s.config.station)
    (hlisted : s.turn.knows station = true) : answerTurnAdd p station s = .refuse .duplicate s := by
  rw [answerTurnAdd, if_neg (by simpa using ha), if_neg (by simpa using hright), if_neg hown, if_pos hlisted]

theorem answerTurnAdd_tableFull (hright : s.hasRight p = true) (hown : station ≠ s.config.station)
    (hlisted : ¬ s.turn.knows station = true) (hfull : 32 ≤ s.turn.list.length) :
    answerTurnAdd p station s = .refuse .tableFull s := by
  rw [answerTurnAdd, if_neg (by simpa using ha), if_neg (by simpa using hright), if_neg hown, if_neg hlisted]
  exact if_pos hfull

theorem answerTurnAdd_ok (hright : s.hasRight p = true) (hown : station ≠ s.config.station)
    (hlisted : ¬ s.turn.knows station = true) (hroom : s.turn.list.length < 32) :
    answerTurnAdd p station s = .ok [] (s.addStation station) := by
  rw [answerTurnAdd, if_neg (by simpa using ha), if_neg (by simpa using hright), if_neg hown, if_neg hlisted]
  exact if_neg (Nat.not_le_of_lt hroom)

theorem answerTurnRemove_absent (hright : s.hasRight p = true) (hlisted : ¬ s.turn.knows station = true) :
    answerTurnRemove p station s = .refuse .badArg s := by
  rw [answerTurnRemove, if_neg (by simpa using ha), if_neg (by simpa using hright), if_pos (by simpa using hlisted)]

theorem answerTurnRemove_ok (hright : s.hasRight p = true) (hlisted : s.turn.knows station = true) :
    answerTurnRemove p station s =
      .ok [] (s.withTurn { s.turn with list := s.turn.list.filter fun r => r.address ≠ station }) := by
  rw [answerTurnRemove, if_neg (by simpa using ha), if_neg (by simpa using hright), if_neg (by simpa using hlisted)]

end

theorem answerTurnAdd_badArg (ha : ¬ isStation station = true) : answerTurnAdd p station s = .refuse .badArg s := by
  rw [answerTurnAdd, if_pos (by simpa using ha)]

theorem answerTurnRemove_badArg (ha : ¬ isStation station = true) :
    answerTurnRemove p station s = .refuse .badArg s := by
  rw [answerTurnRemove, if_pos (by simpa using ha)]

section
variable {list : List Station} (hlist : insertStation station s.turn.list = list)
include hlist

/-- R119: outside idle sole mode the record joins the list and nothing else changes. -/
theorem addStation_plain
    (h : ¬ (s.turn.engine = .holding ∧ s.sched.tx = none ∧ s.turn.list.any (·.present) = false)) :
    s.addStation station = s.withTurn { s.turn with list := list } := by
  rw [State.addStation, hlist]
  dsimp only
  split
  · next hsole =>
    refine if_neg fun hidle => h ?_
    simp only [Bool.and_eq_true, decide_eq_true_eq, Option.isNone_iff_eq_none] at hidle
    exact ⟨hidle.1, hidle.2, sole_iff.1 hsole⟩
  · rfl

/-- R133: in idle sole mode the turn then offers the line, or ends. -/
theorem addStation_idleSole (hengine : s.turn.engine = .holding) (htx : s.sched.tx = none)
    (hsole : s.turn.list.any (·.present) = false) :
    s.addStation station =
      if (s.withTurn { s.turn with list := list }).hasWork = true then
        (s.withTurn { s.turn with list := list }).schedule
      else (s.withTurn { s.turn with list := list }).endTurn := by
  rw [State.addStation, hlist, if_pos (sole_iff.2 hsole)]
  refine if_pos ?_
  show (decide (s.turn.engine = .holding) && s.sched.tx.isNone) = true
  rw [hengine, htx]
  rfl

end

theorem endTurn_ports : s.endTurn.ports = s.ports := (endTurn_onTheLine s).ports

/-- Settles O30: the checks in their order, and the record that joins or leaves the list. -/
theorem turnListChanges : Obligations.TurnListChanges := by
  intro s r station hs hr
  refine ⟨fun hout => ⟨?_, ?_⟩, fun hin hright hown => ?_, fun hin hright hown hlisted => ?_,
    fun hin hright hown hlisted hfull => ?_, fun hin hright hown hroom front back hlist hfront hback => ?_,
    fun hin hright hlisted => ?_, fun hin hright hlisted => ?_⟩
  · exact congrArg _ (request_refuses hs hr (answerTurnAdd_badArg (mt isStation_iff.1 hout)))
  · exact congrArg _ (request_refuses hs hr (answerTurnRemove_badArg (mt isStation_iff.1 hout)))
  · exact congrArg _ (request_refuses hs hr
      (answerTurnAdd_own (isStation_iff.2 hin) (hasRight_iff.2 hright) hown))
  · exact congrArg _ (request_refuses hs hr
      (answerTurnAdd_duplicate (isStation_iff.2 hin) (hasRight_iff.2 hright) hown (knows_iff.2 hlisted)))
  · exact congrArg _ (request_refuses hs hr
      (answerTurnAdd_tableFull (isStation_iff.2 hin) (hasRight_iff.2 hright) hown (mt knows_iff.1 hlisted) hfull))
  · have hok := answerTurnAdd_ok (s := s.taking r.port ([0x70, r.tag] ++ [station] ++ r.rest)) (isStation_iff.2 hin)
      (hasRight_iff.2 hright) hown (knows_false_of_split hlist hfront hback) hroom
    have hinsert := insertStation_between hfront hback
    rw [← hlist] at hinsert
    refine ⟨fun hidle => ?_, fun ⟨hengine, htx, hsole⟩ => ?_⟩
    · refine congrArg _ (request_serves_keepingPorts _ hs hr ?_ ?_)
      · exact hok.trans (congrArg (Answer.ok []) (addStation_plain (s := s.taking r.port _) hinsert hidle))
      · exact fun _ => rfl
    · refine congrArg _ (request_serves_keepingPorts _ hs hr ?_ ?_)
      · exact hok.trans (congrArg (Answer.ok [])
          (addStation_idleSole (s := s.taking r.port _) hinsert hengine htx hsole))
      · intro t
        dsimp only
        split
        · rw [schedule_ports]
        · rw [endTurn_ports]
  · exact congrArg _ (request_refuses hs hr
      (answerTurnRemove_absent (isStation_iff.2 hin) (hasRight_iff.2 hright) (mt knows_iff.1 hlisted)))
  · refine congrArg _ (request_serves_keepingPorts _ hs hr ?_ ?_)
    · exact (answerTurnRemove_ok (s := s.taking r.port _) (isStation_iff.2 hin) (hasRight_iff.2 hright)
        (knows_iff.2 hlisted)).trans rfl
    · exact fun _ => rfl

/-! ### The reports -/

/-- R201: the flags byte of the port report. -/
theorem threeFlags (a b c : Bool) :
    flagByte a ||| (flagByte b <<< 1) ||| (flagByte c <<< 2) =
      byte ((if a then 1 else 0) + (if b then 2 else 0) + (if c then 4 else 0)) := by
  cases a <;> cases b <;> cases c <;> rfl

theorem portReport_eq :
    s.portReport p =
      [byte (s.account p).charge, byte (s.account p).reserve, byte (s.account p).limit,
        byte ((if s.pool.canAllocate p then 1 else 0) + (if (s.port p).queue.any (·.alerts) then 2 else 0) +
          (if s.config.rightHolder = some p then 4 else 0)),
        byte (s.account p).held.length, byte (s.port p).queue.length, byte (s.noticesWaiting p),
        byte (s.noticesWaiting p / 256), byte (s.entriesOwned p), byte (s.listensOwned p)] := by
  have hright : (if s.hasRight p then 4 else 0) = if s.config.rightHolder = some p then 4 else 0 := by
    simp only [hasRight_iff]
  rw [State.portReport]
  simp only [threeFlags, twoBytes_eq, hright]
  rfl

theorem silent_filter (list : List Station) :
    (list.filter fun r => !r.present) = list.filter fun x => decide (x.present = false) :=
  List.filter_congr fun x _ => by cases x.present <;> rfl

theorem sole_flag (t : TurnController) : flagByte t.sole = if t.list.any (·.present) then 0 else 1 := by
  unfold TurnController.sole
  cases t.list.any (·.present) <;> rfl

theorem lineReport_eq :
    s.lineReport =
      [byte s.turn.engine.code, s.config.station, if s.turn.list.any (·.present) then 0 else 1,
        byte s.turn.list.length, byte (s.turn.list.filter fun x => x.present = false).length,
        byte s.turn.frameCount, byte s.turn.rotation, s.turn.probeCursor, s.turn.target.getD 0,
        byte s.sched.strays.length] ++
      [byte s.stats.framesForUs, byte (s.stats.framesForUs / 256)] ++
      [byte s.stats.checkErrors, byte (s.stats.checkErrors / 256)] ++
      [byte s.stats.formatErrors, byte (s.stats.formatErrors / 256)] ++
      [byte s.stats.strays, byte (s.stats.strays / 256)] ++
      [byte s.stats.straysNotMade, byte (s.stats.straysNotMade / 256)] ++
      [byte s.stats.handoverFailures, byte (s.stats.handoverFailures / 256)] := by
  rw [State.lineReport, Machine.lineReport, silent_filter, sole_flag, Counters.report]
  simp only [twoBytes_eq]
  rfl

theorem taking_portReport (bytes : List Byte) : (s.taking p bytes).portReport p = s.portReport p := by
  simp [State.portReport, PortState.attn, State.noticesWaiting, State.entriesOwned, State.listensOwned]

theorem answerLineStatus_keep (s : State) : answerLineStatus p 0 s = .ok s.lineReport s := rfl

theorem answerLineStatus_clear (h : s.hasRight p = true) :
    answerLineStatus p 1 s = .ok s.lineReport (s.withStats {}) := if_neg (by simpa using h)

/-- Settles O31: the three reports byte by byte, and the clearing of the counters. -/
theorem portAndLineReports : Obligations.PortAndLineReports := by
  refine ⟨rfl, fun s r hs hr => ?_, fun s r hs hr => ⟨?_, ?_, fun hright => ?_, fun clear hclear => ?_⟩⟩
  · refine congrArg _ (request_serves_keepingPorts id hs hr ?_ fun _ => rfl)
    rw [answerPortInfo, taking_portReport, portReport_eq]
    rfl
  · exact congrArg _ (request_serves_keepingPorts id hs hr rfl fun _ => rfl)
  · refine congrArg _ (request_serves_keepingPorts id hs hr ?_ fun _ => rfl)
    rw [answerLineStatus_keep, lineReport_eq]
    rfl
  · refine congrArg _ (request_serves_keepingPorts _ hs hr ?_ ?_)
    · rw [answerLineStatus_clear (s := s.taking r.port _) (hasRight_iff.2 hright), lineReport_eq]
      rfl
    · exact fun _ => rfl
  · refine congrArg _ (request_refuses hs hr ?_)
    rw [answerLineStatus, choiceArg_of_lt hclear]

end Sys2Proof.Machine
end

section
/-! The requests LINE.START and LINE.STOP. -/

namespace Sys2Proof.Machine

variable {s : State} {p : Port}

/-! ### LINE.START -/

theorem answerLineStart_badState (hright : s.hasRight p = true)
    (h : s.turn.engine ≠ .offline ∨ s.config.station = 0) : answerLineStart p s = .refuse .badState s := by
  rw [answerLineStart, if_neg (by simpa using hright)]
  split
  · rfl
  · next hoff => exact if_pos (h.resolve_left hoff)

theorem answerLineStart_ok (hright : s.hasRight p = true) (hoff : s.turn.engine = .offline)
    (hstation : s.config.station ≠ 0) : answerLineStart p s = .ok [] s.startLine := by
  rw [answerLineStart, if_neg (by simpa using hright), if_neg (not_not.2 hoff), if_neg hstation]

theorem lineEvent_transaction (c : LineCode) (q : Port) :
    ((s.lineEvent c).port q).transaction = (s.port q).transaction := by
  rw [lineEvent_port, offer_transaction]

/-- Settles O32: the right is there, so the line engine and the station address decide. -/
theorem lineStartJoinsTheRotation : Obligations.LineStartJoinsTheRotation := by
  intro s r hs hr hright
  refine ⟨fun h => ?_, fun hoff hstation => ?_⟩
  · exact congrArg _ (request_refuses hs hr (answerLineStart_badState (hasRight_iff.2 hright) h))
  · refine congrArg _ (request_serves _ hs hr ?_ ?_)
    · exact (answerLineStart_ok (s := s.taking r.port _) (hasRight_iff.2 hright) hoff hstation).trans rfl
    · rw [lineEvent_transaction]
      exact (taking_transaction _ _ _).symm ▸ nofun

/-! ### LINE.STOP -/

theorem dropClosing_none (h : ∀ e, (s.entry e).state ≠ .closing) : s.dropClosing = s := by
  have hfold : ∀ es : List EntryIdx,
      es.foldl (fun s e => if (s.entry e).state = .closing then s.freeEntry e else s) s = s := by
    intro es
    induction es with
    | nil => rfl
    | cons e es ih => rw [List.foldl_cons, if_neg (h e), ih]
  exact hfold allEntries

/-- R140: without a CLOSING entry, OFFLINE changes the turn controller and the stray replies alone. -/
theorem goOffline_none (h : ∀ e, (s.entry e).state ≠ .closing) :
    s.goOffline =
      ({ s with
        turn :=
          { s.turn with
            engine := .offline, frameCount := 0, target := none, kind := none, attempt := none,
            lostTimer := none, holdTimer := none, responseTimer := none }
        sched := { s.sched with strays := [] } } : State).lineEvent .stopped := by
  unfold State.goOffline
  rw [dropClosing_none h]
  rfl

theorem inUse_iff {c : ConnEntry} : c.inUse = true ↔ c.state ≠ .free ∧ c.state ≠ .ended := by
  simp [ConnEntry.inUse]

/-- R139: a connection is in use. -/
def State.linkBusy (s : State) : Prop := ∃ e : EntryIdx, (s.entry e).state ≠ .free ∧ (s.entry e).state ≠ .ended

theorem any_inUse_iff : s.entries.any ConnEntry.inUse = true ↔ s.linkBusy := by
  constructor
  · intro h
    by_contra hnot
    have hnone : s.entries.any ConnEntry.inUse = false := by
      rw [Vector.any_eq_false]
      intro i hi
      rw [Bool.not_eq_true, Bool.eq_false_iff, Ne, inUse_iff]
      exact fun hused => hnot ⟨⟨i, hi⟩, hused⟩
    rw [hnone] at h
    cases h
  · rintro ⟨e, hused⟩
    by_contra hnot
    have := entries_any_false hnot e
    rw [inUse_iff.2 hused] at this
    cases this

theorem answerLineStop_badState (hright : s.hasRight p = true)
    (h : s.turn.engine = .offline ∨ s.turn.engine = .stopping ∨ s.linkBusy) :
    answerLineStop p s = .refuse .badState s := by
  rw [answerLineStop, if_neg (by simpa using hright)]
  split
  · rfl
  · next hengine =>
    simp only [Bool.or_eq_true, decide_eq_true_eq, not_or] at hengine
    exact if_pos (any_inUse_iff.2 ((h.resolve_left hengine.1).resolve_left hengine.2))

theorem answerLineStop_ok (hright : s.hasRight p = true) (hbusy : ¬ s.linkBusy)
    (hengine : s.turn.engine = .waiting ∨ s.turn.engine = .holding ∨ s.turn.engine = .handing) {u : State}
    (hstop : s.stopLine = u) : answerLineStop p s = .ok [byte u.turn.engine.code] u := by
  have hon : ¬ (decide (s.turn.engine = .offline) || decide (s.turn.engine = .stopping)) = true := by
    rcases hengine with h | h | h <;> simp [h]
  rw [answerLineStop, if_neg (by simpa using hright), if_neg hon, if_neg (mt any_inUse_iff.1 hbusy), hstop]

section
variable (hbusy : ¬ s.linkBusy)
include hbusy

theorem not_closing_of_idle (e : EntryIdx) : (s.entry e).state ≠ .closing := fun h =>
  hbusy ⟨e, by rw [h]; nofun, by rw [h]; nofun⟩

/-- R139: where the line engine has no frame and no turn to give, it becomes OFFLINE at once. -/
theorem stopLine_offline
    (h : s.turn.engine = .waiting ∨ (s.turn.engine = .handing ∧ s.sched.tx = none) ∨
      (s.turn.engine = .holding ∧ s.sched.tx = none ∧ s.turn.list.any (·.present) = false)) :
    s.stopLine =
      ({ s with
        turn :=
          { s.turn with
            engine := .offline, frameCount := 0, target := none, kind := none, attempt := none,
            lostTimer := none, holdTimer := none, responseTimer := none }
        sched := { s.sched with strays := [] } } : State).lineEvent .stopped := by
  rw [← goOffline_none (not_closing_of_idle hbusy)]
  rcases h with h | ⟨h, htx⟩ | ⟨h, htx, hsole⟩
  · rw [State.stopLine, h]
  · rw [State.stopLine, h]
    simp [htx]
  · rw [State.stopLine, h]
    simp [htx, sole_iff.2 hsole]

end

theorem stopLine_sending (hengine : s.turn.engine = .holding ∨ s.turn.engine = .handing) (htx : s.sched.tx ≠ none) :
    s.stopLine = s.enterStopping := by
  have hsome : s.sched.tx.isSome = true := Option.isSome_iff_ne_none.2 htx
  rcases hengine with h | h <;> rw [State.stopLine, h] <;> exact if_pos hsome

theorem successor_sole {t : TurnController} {own a : Byte} (h : t.successor own = some a) : t.sole = false := by
  by_contra hsole
  rw [Bool.not_eq_false, sole_iff, List.any_eq_false] at hsole
  have hnone : t.list.filter (·.present) = [] := List.filter_eq_nil_iff.2 hsole
  rw [TurnController.successor, hnone] at h
  cases h

/-- R139: with no frame on the line, HOLDING gives its last TURN to the successor. -/
theorem stopLine_turn {a : Byte} (hengine : s.turn.engine = .holding) (htx : s.sched.tx = none)
    (ha : s.turn.successor s.config.station = some a) :
    s.stopLine = (s.enterStopping.withTurn { s.enterStopping.turn with target := some a }).sendTurn a := by
  have hsucc : s.enterStopping.turn.successor s.enterStopping.config.station = some a := ha
  rw [State.stopLine, hengine]
  simp only [htx, Option.isSome_none, successor_sole ha, Bool.false_eq_true, if_false]
  rw [State.stopTurn, hsucc]

/-- Settles O33: the refusals, and the way out of the rotation by the state and the frame on the line. -/
theorem lineStopLeavesTheRotation : Obligations.LineStopLeavesTheRotation := by
  intro s r hs hr hright
  have hr' := hasRight_iff.2 hright
  have hstops : ∀ (b : Byte) (f : State → State),
      (¬ s.linkBusy) → (s.turn.engine = .waiting ∨ s.turn.engine = .holding ∨ s.turn.engine = .handing) →
      (s.taking r.port ([0x81, r.tag] ++ [] ++ r.rest)).stopLine = f (s.taking r.port ([0x81, r.tag] ++ [] ++ r.rest)) →
      byte (f (s.taking r.port ([0x81, r.tag] ++ [] ++ r.rest))).turn.engine.code = b →
      ((f (s.taking r.port ([0x81, r.tag] ++ [] ++ r.rest))).port r.port).transaction ≠ .collect →
      exec (.lineStop r) s = .next (s.served r 0x81 [] .ok [b] f) := fun b f hbusy hengine hstop hcode hport => by
    refine congrArg _ (request_serves f hs hr ?_ hport)
    rw [← hcode]
    exact answerLineStop_ok (s := s.taking r.port _) hr' hbusy hengine hstop
  have htransaction : ((s.taking r.port ([0x81, r.tag] ++ [] ++ r.rest)).port r.port).transaction ≠ .collect := by
    rw [taking_transaction]
    nofun
  refine ⟨fun h => ?_, fun hbusy h => ?_, fun hbusy h htx => ?_, fun hbusy h htx => ?_, fun hbusy h htx => ?_,
    fun hbusy h htx hsole => ?_, fun hbusy h htx a ha => ?_⟩
  · exact congrArg _ (request_refuses hs hr (answerLineStop_badState hr' h))
  · refine hstops 0 _ hbusy (.inl h) (stopLine_offline hbusy (.inl h)) rfl ?_
    rw [lineEvent_transaction]
    exact htransaction
  · refine hstops 0 _ hbusy (.inr (.inr h)) (stopLine_offline hbusy (.inr (.inl ⟨h, htx⟩))) rfl ?_
    rw [lineEvent_transaction]
    exact htransaction
  · exact hstops 4 _ hbusy (.inr (.inr h)) (stopLine_sending (.inr h) htx) rfl htransaction
  · exact hstops 4 _ hbusy (.inr (.inl h)) (stopLine_sending (.inl h) htx) rfl htransaction
  · refine hstops 0 _ hbusy (.inr (.inl h)) (stopLine_offline hbusy (.inr (.inr ⟨h, htx, hsole⟩))) rfl ?_
    rw [lineEvent_transaction]
    exact htransaction
  · refine hstops 4 _ hbusy (.inr (.inl h)) ?_ rfl htransaction
    rw [stopLine_turn (s := s.taking r.port _) h htx ha, State.sendTurn, startFrame_eq]
    rfl

end Sys2Proof.Machine
end

section
/-! The bits of the commands that are host transactions, read back as the port reads them. -/

namespace Sys2Proof.Machine

/-- R196: the two bytes of a value give it back. -/
theorem halfOf_bytes (w : Half) : halfOf (lowByte w) (highByte w) = w := by
  show (w.extractLsb' 8 8 ++ w.extractLsb' 0 8 : BitVec (8 + 8)) = w
  exact (BitVec.extractLsb'_append_extractLsb'_eq_extractLsb' rfl).trans BitVec.extractLsb'_eq_self

/-- R199: the bits of a record begin with the type byte, and the record is complete. -/
theorem decode_request {r : Req} {code : Byte} {args : List Byte} {i : Instr}
    (h : decodeRecord r.port ([code, r.tag] ++ args ++ r.rest) = some i) {w : Clocked}
    (hw : some (requestClocked r code args) = some w) : decodeTransaction w.port w.sdi = i := by
  obtain rfl := Option.some.inj hw
  have hwhole : (bitsOf (requestType :: ([code, r.tag] ++ args ++ r.rest))).length % 8 = 0 := by
    rw [bitsOf_length]
    exact Nat.mul_mod_right 8 _
  show decodeTransaction r.port (bitsOf ([requestType, code, r.tag] ++ args ++ r.rest)) = i
  rw [record_bits, decodeTransaction, bytesOf_bitsOf]
  simp only [if_true, hwhole, h, Option.getD_some]

/-- R173, R200: a record of a known code, with its fixed arguments. -/
theorem decode_known {r : Req} {code : Byte} {args : List Byte} {i : Instr} (hn : fixedArgs code = some args.length)
    (hi : knownRequest r code args = some i) {w : Clocked} (hw : some (requestClocked r code args) = some w) :
    decodeTransaction w.port w.sdi = i := by
  refine decode_request ?_ hw
  have hlength : ¬ (args ++ r.rest).length < args.length := by simp
  show decodeRecord r.port (code :: r.tag :: (args ++ r.rest)) = some i
  simp only [decodeRecord, hn, if_neg hlength, List.drop_left, List.take_left]
  exact hi

theorem decode_unknown {r : Req} {code : Byte} (hn : fixedArgs code = none) {w : Clocked}
    (hw : some (requestClocked r code []) = some w) :
    decodeTransaction w.port w.sdi = .unknownRequest r code := by
  refine decode_request ?_ hw
  show (match fixedArgs code with
    | none => _
    | some n => _) = _
  rw [hn]
  rfl

/-- The bits after a complete first byte. -/
theorem typed_bits (first : Byte) (sdi : List Bool) :
    bytesOf (bitsOf [first] ++ sdi) = first :: bytesOf sdi ∧ (bitsOf [first] ++ sdi).drop 8 = sdi := by
  refine ⟨bytesOf_append [first] sdi, ?_⟩
  rw [bitsOf_cons]
  rfl

theorem decode_truncated {p : Port} {sdi : List Bool} (h : truncatedWf p sdi = true) :
    decodeTransaction p (bitsOf [requestType] ++ sdi) = .truncatedRequest p sdi := by
  obtain ⟨hbytes, hdrop⟩ := typed_bits requestType sdi
  have hlength : (bitsOf [requestType] ++ sdi).length % 8 = sdi.length % 8 := by
    rw [List.length_append, bitsOf_length]
    omega
  have hnone : (if sdi.length % 8 = 0 then decodeRecord p (bytesOf sdi) else none) = none := by
    split
    · next hwhole => simpa [truncatedWf, hwhole] using h
    · rfl
  rw [decodeTransaction, hbytes, hdrop]
  simp only [if_true, hlength, hnone, Option.getD_none]

theorem decode_collect (p : Port) (sdi : List Bool) :
    decodeTransaction p (bitsOf [collectType] ++ sdi) = .collect p sdi := by
  obtain ⟨hbytes, hdrop⟩ := typed_bits collectType sdi
  rw [decodeTransaction, hbytes, hdrop]
  rfl

theorem decode_ignored {p : Port} {sdi : List Bool} (h : ignoredWf sdi = true) :
    decodeTransaction p sdi = .ignoredTransaction p sdi := by
  rw [decodeTransaction]
  cases hbytes : bytesOf sdi with
  | nil => rfl
  | cons first rest =>
    simp only [ignoredWf, hbytes, List.head?_cons, ne_eq, Option.some.injEq, decide_not, Bool.and_eq_true,
      Bool.not_eq_true', decide_eq_false_iff_not] at h
    simp only [if_neg h.1, if_neg h.2]

theorem bytesOf_part (part : List Bool) (h : part.length < 8) : bytesOf part = [] := by
  rw [← List.length_eq_zero_iff, bytesOf_length]
  omega

theorem bitsOf_eq (bytes : List Byte) :
    bitsOf bytes = bytes.flatMap fun b => [7, 6, 5, 4, 3, 2, 1, 0].map fun i => b.getLsbD i := by
  induction bytes with
  | nil => rfl
  | cons b rest ih =>
    rw [bitsOf_cons, List.flatMap_cons, ih]
    rfl

/-- Settles O53: every command that is a transaction, by its type, its code and its arguments. -/
theorem transactionsRoundTrip : Obligations.TransactionsRoundTrip := by
  refine ⟨fun bytes part hpart => ⟨bitsOf_eq bytes, by rw [bytesOf_append, bytesOf_part part hpart, List.append_nil]⟩,
    fun i w hwf hw => ?_⟩
  cases i
  case connOpen r sv st win pr rl t =>
    refine decode_known rfl ?_ hw
    exact congrArg (fun v => some (Instr.connOpen r sv st win pr rl v)) (halfOf_bytes t)
  case connSend r e h l tag n =>
    refine decode_known rfl ?_ hw
    exact congrArg (fun v => some (Instr.connSend r e h l v n)) (halfOf_bytes tag)
  case listenAdd r sv m k win pr rl t a =>
    refine decode_known rfl ?_ hw
    exact congrArg (fun v => some (Instr.listenAdd r sv m k win pr rl v a)) (halfOf_bytes t)
  case unknownRequest r code => exact decode_unknown (Option.isNone_iff_eq_none.1 hwf) hw
  case truncatedRequest p sdi =>
    obtain rfl := Option.some.inj hw
    exact decode_truncated hwf
  case collect p sdi =>
    obtain rfl := Option.some.inj hw
    exact decode_collect p sdi
  case ignoredTransaction p sdi =>
    obtain rfl := Option.some.inj hw
    exact decode_ignored hwf
  case bufGet => exact decode_known rfl rfl hw
  case bufPut => exact decode_known rfl rfl hw
  case bufWrite => exact decode_known rfl rfl hw
  case bufRead => exact decode_known rfl rfl hw
  case connHold => exact decode_known rfl rfl hw
  case connResume => exact decode_known rfl rfl hw
  case connClose => exact decode_known rfl rfl hw
  case connRelease => exact decode_known rfl rfl hw
  case connQuery => exact decode_known rfl rfl hw
  case listenDrop => exact decode_known rfl rfl hw
  case listenList => exact decode_known rfl rfl hw
  case evtFetch => exact decode_known rfl rfl hw
  case evtFilter => exact decode_known rfl rfl hw
  case portInfo => exact decode_known rfl rfl hw
  case portResetRequest => exact decode_known rfl rfl hw
  case cfgTake => exact decode_known rfl rfl hw
  case cfgPass => exact decode_known rfl rfl hw
  case cfgStation => exact decode_known rfl rfl hw
  case cfgLine => exact decode_known rfl rfl hw
  case cfgRead => exact decode_known rfl rfl hw
  case cfgQuota => exact decode_known rfl rfl hw
  case turnAdd => exact decode_known rfl rfl hw
  case turnRemove => exact decode_known rfl rfl hw
  case turnList => exact decode_known rfl rfl hw
  case lineStart => exact decode_known rfl rfl hw
  case lineStop => exact decode_known rfl rfl hw
  case lineStatus => exact decode_known rfl rfl hw
  all_goals cases hw

end Sys2Proof.Machine
end

section
/-! The event queues: how a port takes an event, and how the arbiter admits notices. -/

namespace Sys2Proof.Machine

/-! ### Events of a port -/

section
variable {ps : PortState} {b : EventBody} {k : FilterKind}

theorem filterOf_kind (hb : b.filterKind = some k) : ps.filterOf b = look ps.filters k.slot := by
  simp only [PortState.filterOf, hb]

theorem offer_drop (hb : b.filterKind = some k) (hf : look ps.filters k.slot = .drop) : ps.offer b = ps := by
  simp only [PortState.offer, filterOf_kind hb, hf, if_true]

theorem offer_room (hb : b.filterKind = some k) (hf : look ps.filters k.slot ≠ .drop) (hroom : ps.queue.length < 47) :
    ps.offer b =
      { ps with queue := ps.queue ++ [{ body := b, alerts := decide (look ps.filters k.slot = .alert) }] } := by
  simp only [PortState.offer, PortState.takeIn, filterOf_kind hb, if_neg hf, hasRoom_iff.2 hroom, if_true]

theorem offer_full (hb : b.filterKind = some k) (hf : look ps.filters k.slot ≠ .drop) (hfull : 47 ≤ ps.queue.length) :
    ps.offer b = ps.countDrop := by
  have hno : ¬ ps.hasRoom = true := fun h => absurd (hasRoom_iff.1 h) (Nat.not_lt.2 hfull)
  simp only [PortState.offer, filterOf_kind hb, if_neg hf, if_neg hno]

/-- R104: a drop with an OVERFLOW record as the newest. -/
theorem countDrop_again {front : List EventRecord} {n : Nat} {mark : Bool}
    (h : ps.queue = front ++ [{ body := .overflow n, alerts := mark }]) :
    ps.countDrop = { ps with queue := front ++ [{ body := .overflow (min 255 (n + 1)), alerts := mark }] } := by
  simp [PortState.countDrop, h, Config.droppedMax]

/-- R104: a drop with any other record, or none, as the newest. -/
theorem countDrop_first (h : ∀ rec, ps.queue.getLast? = some rec → ∀ n, rec.body ≠ .overflow n) :
    ps.countDrop = { ps with queue := ps.queue ++ [{ body := .overflow 1, alerts := true }] } := by
  unfold PortState.countDrop
  split
  · next n mark hlast => exact absurd rfl (h _ hlast n)
  · rfl

end

/-- Settles O19. -/
theorem eventAdmission : Obligations.EventAdmission := by
  refine ⟨fun ps k b hb => ⟨offer_drop hb, offer_room hb, fun hf hfull => ?_⟩, fun s e p n howner => ?_,
    fun s code => ⟨rfl, fun p => lineEvent_port s code p, lineEvent_eq s code⟩⟩
  · rw [offer_full hb hf hfull]
    exact ⟨fun front n mark => countDrop_again, countDrop_first⟩
  · exact ⟨fun horphan => makeNotice_mute n (.inr horphan), fun horphan => makeNotice_queue n howner horphan,
      fun horphan => makeNotice_list n howner horphan⟩

/-! ### The arbiter -/

/-- R107: the part that gives the notice of an entry to the queue of its port. -/
def State.admitting (s : State) (p : Port) (e : EntryIdx) (n : Notice) (rest : List Notice) : State :=
  (s.setEntry e { s.entry e with notices := rest }).setPort p
    { s.port p with queue := (s.port p).queue ++ [(s.port p).heldRecord e n], admission := e }

/-- R107: a notice of the entry waits for the queue of the port. -/
def State.waitsFor (s : State) (p : Port) (e : EntryIdx) : Prop :=
  (s.entry e).owner = some p ∧ (s.entry e).notices ≠ []

variable {s : State} {p : Port} {e : EntryIdx} {n : Notice} {rest : List Notice}

theorem admitOne_full (h : 47 ≤ (s.port p).queue.length) : s.admitOne p = s := by
  rw [State.admitOne, if_neg]
  rw [hasRoom_iff]
  exact Nat.not_lt.2 h

theorem waiting_iff (s : State) (p : Port) (e : EntryIdx) :
    ((s.entry e).owner = some p && !(s.entry e).notices.isEmpty) = true ↔ s.waitsFor p e := by
  simp [State.waitsFor]

theorem admitOne_none (h : ∀ e, ¬ s.waitsFor p e) : s.admitOne p = s := by
  have hnone : roundRobin (s.port p).admission
      (fun e => (s.entry e).owner = some p && !(s.entry e).notices.isEmpty) = none :=
    roundRobin_none.2 fun e => Bool.eq_false_iff.2 fun he => h e ((waiting_iff s p e).1 he)
  simp only [State.admitOne, hnone, ite_self]

/-- R107: the admission, at the entry of its turn. -/
theorem admitOne_some (hroom : (s.port p).queue.length < 47) (hwaits : s.waitsFor p e)
    (hnotices : (s.entry e).notices = n :: rest)
    (hfirst : ∀ k, s.waitsFor p k →
      (e - ((s.port p).admission + 1)).val ≤ (k - ((s.port p).admission + 1)).val) :
    s.admitOne p = (s.admitting p e n rest).afterAdmission e (s.entry e) n := by
  have hsome : roundRobin (s.port p).admission
      (fun e => (s.entry e).owner = some p && !(s.entry e).notices.isEmpty) = some e :=
    roundRobin_some.2 ⟨(waiting_iff s p e).2 hwaits, fun k hk => hfirst k ((waiting_iff s p k).1 hk)⟩
  simp only [State.admitOne, if_pos (hasRoom_iff.2 hroom), hsome, hnotices]
  rfl

/-- R107: with room and a waiting notice, one admission takes place. -/
theorem admitOne_waiting (hroom : (s.port p).queue.length < 47) (h : ∃ e, s.waitsFor p e) :
    ∃ e n rest, s.waitsFor p e ∧ (s.entry e).notices = n :: rest ∧
      s.admitOne p = (s.admitting p e n rest).afterAdmission e (s.entry e) n := by
  cases hnext : roundRobin (s.port p).admission
      (fun e => (s.entry e).owner = some p && !(s.entry e).notices.isEmpty) with
  | none =>
    obtain ⟨e, he⟩ := h
    exact absurd (roundRobin_none.1 hnext e) (Bool.not_eq_false _ ▸ (waiting_iff s p e).2 he)
  | some e =>
    obtain ⟨hwaits, hfirst⟩ := roundRobin_some.1 hnext
    have he := (waiting_iff s p e).1 hwaits
    obtain ⟨n, rest, hnotices⟩ := List.exists_cons_of_ne_nil he.2
    exact ⟨e, n, rest, he, hnotices,
      admitOne_some hroom he hnotices fun k hk => hfirst k ((waiting_iff s p k).2 hk)⟩

theorem isReceived_iff : n.isReceived = true ↔ ∃ h len, n = .received h len := by
  cases n <;> simp [Notice.isReceived]

theorem noticeFull_received (c : ConnEntry) :
    c.noticeFull = true ↔ 4 ≤ (c.notices.filter Notice.isReceived).length := decide_eq_true_iff

/-- R51, R108: the end-of-busy check. -/
theorem afterAdmission_busy {c : ConnEntry} (hlive : c.state = .opened ∨ c.state = .draining)
    (hn : n.isReceived = true) (hfull : c.noticeFull = true) :
    s.afterAdmission e c n = s.setEntry e (s.entry e).endOfBusy := by
  have hopen : ¬ c.state = .closing := by rcases hlive with h | h <;> simp [h]
  simp [State.afterAdmission, hn, hfull, live_iff.2 hlive, hopen, modEntry_eq]

theorem afterAdmission_quiet {c : ConnEntry} (hreceived : (n.isReceived && c.live && c.noticeFull) = false)
    (hclosing : (decide (c.state = .closing) && c.closeFinished && (s.entry e).notices.isEmpty) = false) :
    s.afterAdmission e c n = s := by
  simp only [State.afterAdmission, hreceived, Bool.false_eq_true, if_false, hclosing]

/-- R108, R12: a CLOSING entry that has ended its exchange gives its last notice. -/
theorem afterAdmission_closing {c : ConnEntry} (hstate : c.state = .closing) (hfinished : c.closeFinished = true)
    (hnotices : (s.entry e).notices = []) (howner : c.owner = some p) :
    s.afterAdmission e c n = (s.freeEntry e).modPort p (·.offer (.closed e c.closeTimedOut)) := by
  have hlive : c.live = false := by simp [ConnEntry.live, hstate]
  simp [State.afterAdmission, hstate, hfinished, hnotices, hlive, State.closedEvent, howner]

/-- Settles O20. -/
theorem admissionGoesByRotation : Obligations.AdmissionGoesByRotation := by
  refine ⟨fun s p => ⟨admitOne_full, admitOne_none, fun e n rest hroom hwaits hnotices hfirst =>
    admitOne_some hroom hwaits hnotices hfirst⟩, fun s e c n rest hc hs => ⟨?_, ?_, ?_, ?_⟩⟩
  · exact fun hlive hn hfull => afterAdmission_busy hlive (isReceived_iff.2 hn) ((noticeFull_received c).2 hfull)
  · exact fun hstate hfinished hrest p howner => afterAdmission_closing hstate hfinished (by rw [hs]; exact hrest) howner
  · intro hlive hless
    refine afterAdmission_quiet ?_ ?_
    · rcases hless with hn | hfew
      · have : n.isReceived = false := Bool.eq_false_iff.2 fun h =>
          let ⟨h, len, heq⟩ := isReceived_iff.1 h
          hn h len heq
        simp [this]
      · have : c.noticeFull = false := Bool.eq_false_iff.2 fun h => absurd ((noticeFull_received c).1 h) (Nat.not_le.2 hfew)
        simp [this]
    · rcases hlive with h | h <;> simp [h]
  · intro hstate
    refine afterAdmission_quiet ?_ ?_
    · have : c.live = false := by
        rcases hstate with h | h | h | ⟨h, -⟩ <;> simp [ConnEntry.live, h]
      simp [this]
    · rcases hstate with h | h | h | ⟨-, h | h⟩ <;> simp [h, hs]

/-! ### The arbiter's run -/

/-- R107: what one admission, and any number of them, leaves: records at the tail of the port's queue, the entries of
other owners, the other ports, and every other block but the detached mark. -/
structure Admitted (s : State) (p : Port) (t : State) : Prop where
  queue : ∃ added, t.port p =
    { s.port p with queue := (s.port p).queue ++ added, admission := (t.port p).admission }
  ports : ∀ q : Port, q ≠ p → t.port q = s.port q
  entries : ∀ e : EntryIdx, (s.entry e).owner ≠ some p → t.entry e = s.entry e
  rest : t = { s with entries := t.entries, ports := t.ports, sched := { s.sched with tx := t.sched.tx } }
  line : (t.sched.tx.map fun x => { x with detached := false }) = s.sched.tx.map fun x => { x with detached := false }

theorem Admitted.rfl : Admitted s p s :=
  ⟨⟨[], by rw [List.append_nil]⟩, fun _ _ => .refl _, fun _ _ => .refl _, .refl _, .refl _⟩

theorem Admitted.trans {t u : State} (h : Admitted s p t) (k : Admitted t p u) : Admitted s p u where
  queue := by
    obtain ⟨added, ht⟩ := h.queue
    obtain ⟨more, hu⟩ := k.queue
    exact ⟨added ++ more, by rw [hu, ht, List.append_assoc]⟩
  ports q hq := (k.ports q hq).trans (h.ports q hq)
  entries e he := (k.entries e (by rwa [h.entries e he])).trans (h.entries e he)
  rest := by rw [k.rest, h.rest]
  line := k.line.trans h.line

/-- R103: with a newest record that is no OVERFLOW record, a droppable event joins the tail or changes nothing. -/
theorem offer_appends {ps : PortState} {b : EventBody}
    (h : ∀ rec, ps.queue.getLast? = some rec → ∀ n, rec.body ≠ .overflow n) :
    ∃ added, ps.offer b = { ps with queue := ps.queue ++ added } := by
  unfold PortState.offer
  split
  · exact ⟨[], by rw [List.append_nil]⟩
  · split
    · exact ⟨_, Eq.refl _⟩
    · exact ⟨_, countDrop_first h⟩

theorem detachFrom_line (e : EntryIdx) (x : TxRecord) :
    ({ x.detachFrom e with detached := false } : TxRecord) = { x with detached := false } := by
  unfold TxRecord.detachFrom
  split <;> rfl

theorem setEntry_admitted (c : ConnEntry) (h : (s.entry e).owner = some p) : Admitted s p (s.setEntry e c) :=
  ⟨⟨[], by rw [List.append_nil]; rfl⟩, fun _ _ => .refl _,
    fun _ he => entry_setEntry_other _ _ fun hek => he (hek ▸ h), .refl _, .refl _⟩

theorem freeEntry_admitted (h : (s.entry e).owner = some p) : Admitted s p (s.freeEntry e) where
  queue := ⟨[], by rw [List.append_nil]; rfl⟩
  ports _ _ := .refl _
  entries _ he := freeEntry_entry_other s fun hek => he (hek ▸ h)
  rest := .refl _
  line := by
    rw [freeEntry_eq, Option.map_map]
    exact congrArg (Option.map · s.sched.tx) (funext (detachFrom_line e))

theorem setPort_admitted {ps : PortState} {added : List EventRecord}
    (h : ps = { s.port p with queue := (s.port p).queue ++ added, admission := ps.admission }) :
    Admitted s p (s.setPort p ps) :=
  ⟨⟨added, by rw [port_setPort_same]; exact h⟩, fun _ hq => port_setPort_other _ _ hq.symm, fun _ _ => .refl _,
    .refl _, .refl _⟩

theorem admitting_admitted (h : (s.entry e).owner = some p) : Admitted s p (s.admitting p e n rest) :=
  (setEntry_admitted _ h).trans (setPort_admitted (.refl _))

theorem afterAdmission_admitted {c : ConnEntry} (hc : c.owner = some p) (howner : (s.entry e).owner = some p)
    (hlast : ∀ rec, (s.port p).queue.getLast? = some rec → ∀ n, rec.body ≠ .overflow n) :
    Admitted s p (s.afterAdmission e c n) := by
  have hbusy : Admitted s p (s.setEntry e (s.entry e).endOfBusy) := setEntry_admitted _ howner
  have hbusyOwner : ((s.setEntry e (s.entry e).endOfBusy).entry e).owner = some p := by
    rw [entry_setEntry_same, endOfBusy_eq]
    exact howner
  have hclosed : ∀ u : State, (u.entry e).owner = some p → (u.port p).queue = (s.port p).queue →
      Admitted u p ((u.freeEntry e).closedEvent c.owner e c.closeTimedOut) := by
    intro u hu hq
    obtain ⟨added, hoffer⟩ := offer_appends (ps := (u.freeEntry e).port p) (b := .closed e c.closeTimedOut)
      fun rec hrec => hlast rec (hq ▸ hrec)
    rw [hc]
    refine (freeEntry_admitted hu).trans ?_
    show Admitted _ p ((u.freeEntry e).setPort p (((u.freeEntry e).port p).offer (.closed e c.closeTimedOut)))
    rw [hoffer]
    exact setPort_admitted (.refl _)
  unfold State.afterAdmission
  dsimp only
  rw [modEntry_eq]
  split
  · split
    · exact hbusy.trans (hclosed _ hbusyOwner (.refl _))
    · exact hbusy
  · split
    · exact hclosed s howner (.refl _)
    · exact .rfl

/-- What follows the admission, from the part that has given the notice. -/
theorem admitting_then (howner : (s.entry e).owner = some p) :
    Admitted (s.admitting p e n rest) p ((s.admitting p e n rest).afterAdmission e (s.entry e) n) := by
  refine afterAdmission_admitted howner (by simp [State.admitting, howner]) fun rec hrec => ?_
  simp only [State.admitting, port_setPort_same, List.getLast?_concat, Option.some.injEq] at hrec
  subst hrec
  exact nofun

theorem admitOne_admitted (s : State) (p : Port) : Admitted s p (s.admitOne p) := by
  by_cases hroom : (s.port p).queue.length < 47
  · by_cases hwaits : ∃ e, s.waitsFor p e
    · obtain ⟨e, n, rest, he, -, heq⟩ := admitOne_waiting hroom hwaits
      rw [heq]
      exact (admitting_admitted he.1).trans (admitting_then he.1)
    · rw [admitOne_none (not_exists.1 hwaits)]
      exact .rfl
  · rw [admitOne_full (Nat.not_lt.1 hroom)]
    exact .rfl

theorem Admitted.length {t : State} (h : Admitted s p t) : (s.port p).queue.length ≤ (t.port p).queue.length := by
  obtain ⟨added, ht⟩ := h.queue
  rw [ht, List.length_append]
  exact Nat.le_add_right ..

/-- R107: an admission takes place. -/
def State.admits (s : State) (p : Port) : Prop := (s.port p).queue.length < 47 ∧ ∃ e, s.waitsFor p e

theorem admitOne_grows (h : s.admits p) : (s.port p).queue.length < ((s.admitOne p).port p).queue.length := by
  obtain ⟨e, n, rest, he, -, heq⟩ := admitOne_waiting h.1 h.2
  have hlength := (admitting_then (n := n) (rest := rest) he.1).length
  rw [← heq] at hlength
  simp only [State.admitting, port_setPort_same, List.length_append, List.length_singleton] at hlength
  omega

theorem admitOne_stopped (h : ¬ s.admits p) : s.admitOne p = s := by
  rw [State.admits, not_and_or, Nat.not_lt, not_exists] at h
  exact h.elim admitOne_full admitOne_none

theorem admitRun_stopped (h : ¬ s.admits p) (k : Nat) : s.admitRun p k = s := by
  induction k with
  | zero => rfl
  | succ k ih => rw [State.admitRun, admitOne_stopped h, ih]

theorem admitRun_succ (s : State) (p : Port) (k : Nat) : s.admitRun p (k + 1) = (s.admitRun p k).admitOne p := by
  induction k generalizing s with
  | zero => rfl
  | succ k ih => rw [State.admitRun, ih, State.admitRun]

theorem admitRun_admitted (s : State) (p : Port) (k : Nat) : Admitted s p (s.admitRun p k) := by
  induction k generalizing s with
  | zero => exact .rfl
  | succ k ih => exact (admitOne_admitted s p).trans (ih _)

/-- R107: the run with fuel for the room in the queue stops by itself. -/
theorem admitRun_stops (fuel : Nat) (h : 47 ≤ (s.port p).queue.length + fuel) :
    ∃ n, s.admitRun p fuel = s.admitRun p n ∧ (∀ k < n, (s.admitRun p k).admits p) ∧ ¬ (s.admitRun p n).admits p := by
  induction fuel generalizing s with
  | zero => exact ⟨0, rfl, nofun, fun hadmits => absurd hadmits.1 (Nat.not_lt.2 h)⟩
  | succ fuel ih =>
    by_cases hadmits : s.admits p
    · obtain ⟨n, heq, hruns, hstop⟩ := ih (s := s.admitOne p) (by have := admitOne_grows hadmits; omega)
      refine ⟨n + 1, heq, fun k hk => ?_, hstop⟩
      cases k with
      | zero => exact hadmits
      | succ k => exact hruns k (Nat.lt_of_succ_lt_succ hk)
    · exact ⟨0, admitRun_stopped hadmits _, nofun, hadmits⟩

/-- Settles O21: the run is iterated admissions (`admitRun_succ`), has fuel enough (`admitRun_stops`), and leaves what
each admission leaves. -/
theorem noticeAdmissionRunsToAStop : Obligations.NoticeAdmissionRunsToAStop := by
  intro s p
  obtain ⟨n, heq, hruns, hstop⟩ := admitRun_stops (s := s) (p := p) 47 (Nat.le_add_left ..)
  have hdone := admitRun_admitted s p n
  obtain ⟨added, hqueue⟩ := hdone.queue
  rw [State.admits, not_and_or, Nat.not_lt] at hstop
  refine ⟨s.admitRun p, n, added, ?_, heq, rfl, admitRun_succ s p, hruns, hstop, hqueue, hdone.ports, hdone.entries, ?_⟩
  · exact congrArg (fun t : State => Host.Outcome.next t.schedule) heq
  · rw [hdone.rest]
    exact ⟨rfl, rfl, rfl, rfl, rfl, rfl, rfl, rfl, rfl, hdone.line⟩

end Sys2Proof.Machine
end

section
/-! What an abort and an end tell the owner of an entry. -/

namespace Sys2Proof.Machine

/-- The notice of entry `e` that a record holds. -/
def EventRecord.noticeOf (e : EntryIdx) (r : EventRecord) : Option Notice :=
  match r.body with
  | .held k n => if k = e then some n else none
  | _ => none

variable {s : State} {e : EntryIdx} {p : Port}

theorem told_eq (s : State) (p : Port) (e : EntryIdx) :
    s.told p e = (s.port p).queue.filterMap (EventRecord.noticeOf e) ++ (s.entry e).notices := rfl

theorem noticeOf_heldRecord (ps : PortState) (e : EntryIdx) (ns : List Notice) :
    (ns.map (ps.heldRecord e)).filterMap (EventRecord.noticeOf e) = ns := by
  induction ns with
  | nil => rfl
  | cons n ns ih =>
    rw [List.map_cons, List.filterMap_cons_some (b := n) (by simp [EventRecord.noticeOf, PortState.heldRecord]), ih]

/-- R105, R106: what the owner is told grows by the notices, in order. -/
theorem told_afterNotices {told kept : List Notice} (h : s.Splits p e told kept) :
    (s.afterNotices p e told kept).told p e = s.told p e ++ (told ++ kept) := by
  rw [told_eq, told_eq, afterNotices_port, afterNotices_entry]
  simp only [List.filterMap_append, noticeOf_heldRecord]
  rcases eq_or_ne told [] with rfl | hne
  · simp
  · simp [(h.room hne).1]

theorem afterNotices_rest (s : State) (p : Port) (e : EntryIdx) (told kept : List Notice) :
    s.afterNotices p e told kept =
      { s with entries := (s.afterNotices p e told kept).entries, ports := (s.afterNotices p e told kept).ports } := rfl

/-- The notices of an entry that has changed in other fields: they tell its owner, and nobody else, and nothing else. -/
theorem tells_of_notices {c : ConnEntry} (ns : List Notice) (howner : c.owner = some p) (horphan : c.orphan = false)
    (hnotices : c.notices = (s.entry e).notices) :
    ((s.setEntry e c).makeNotices e ns).told p e = s.told p e ++ ns ∧
      s.tellsOnly ((s.setEntry e c).makeNotices e ns) p e := by
  obtain ⟨told, kept, rfl, hsplit, heq⟩ := makeNotices_owned (s := s.setEntry e c) (e := e) (p := p) ns
    (by rw [entry_setEntry_same]; exact howner) (by rw [entry_setEntry_same]; exact horphan)
  have hroom := hsplit.room
  have hfull := hsplit.full
  rw [entry_setEntry_same, setEntry_port, hnotices] at hroom hfull
  rw [heq]
  refine ⟨?_, by rw [afterNotices_rest]; rfl, fun k hk => ?_, fun q hq => ?_,
    told.map ((s.port p).heldRecord e), ?_, fun r hr => ?_, fun hne => ?_, fun hempty hleft => ?_⟩
  · rw [told_afterNotices hsplit, told_eq, told_eq, setEntry_port, entry_setEntry_same, hnotices]
  · rw [afterNotices_entry_other _ _ hk.symm, entry_setEntry_other _ _ hk.symm]
  · rw [afterNotices_port_other _ _ hq.symm, setEntry_port]
  · rw [afterNotices_port, setEntry_port]
  · obtain ⟨n, -, rfl⟩ := List.mem_map.1 hr
    exact ⟨n, rfl⟩
  · rw [List.length_map]
    exact hroom (by simpa using hne)
  · rw [afterNotices_entry, entry_setEntry_same, hnotices, hempty, List.nil_append] at hleft
    rw [afterNotices_port, setEntry_port, List.length_append, List.length_map]
    exact hfull hempty hleft

theorem messageOnLine_eq (s : State) (e : EntryIdx) :
    s.messageOnLine e = s.sched.tx.bind fun t => if t.origin = .entry e ∧ t.detached = false then t.sn else none := by
  unfold State.messageOnLine
  cases s.sched.tx with
  | none => rfl
  | some t => simp

/-- Settles O11: an abort and an end are a change of the entry and the notices that follow (`abortEntry_eq`,
`endEntry_eq`). -/
theorem leavingUnsendsInOrder : Obligations.LeavingUnsendsInOrder := by
  intro s e p why howner horphan
  dsimp only
  rw [← messageOnLine_eq]
  have habort := tells_of_notices (s := s) (c := ((s.entry e).keepOnly (s.messageOnLine e)).toClosing)
    (((s.entry e).messagesBut (s.messageOnLine e)).map Msg.unsent) howner horphan rfl
  have hend := tells_of_notices (s := s) (c := ((s.entry e).keepOnly (s.messageOnLine e)).toEnded why)
    ((s.entry e).endNotices (s.messageOnLine e) why) howner horphan rfl
  have hclosing := makeNotices_entry (s.setEntry e ((s.entry e).keepOnly (s.messageOnLine e)).toClosing) e
    (((s.entry e).messagesBut (s.messageOnLine e)).map Msg.unsent)
  have hended := makeNotices_entry (s.setEntry e (((s.entry e).keepOnly (s.messageOnLine e)).toEnded why)) e
    ((s.entry e).endNotices (s.messageOnLine e) why)
  rw [entry_setEntry_same, ← abortEntry_eq] at hclosing
  rw [entry_setEntry_same, ← endEntry_eq] at hended
  rw [← abortEntry_eq] at habort
  rw [← endEntry_eq] at hend
  refine ⟨⟨habort.1, hclosing⟩, ⟨?_, hended⟩, habort.2, hend.2⟩
  rw [hend.1, ConnEntry.endNotices, List.append_assoc]
  simp only [List.isEmpty_iff]
  rfl

end Sys2Proof.Machine
end

section
/-! Transactions of a port: those that are no known request, and those that a port does not take. -/

namespace Sys2Proof.Machine

/-- R171 to R175: every command that is a host transaction is a whole transaction of its port, over its bits. -/
theorem exec_transact {i : Instr} {w : Clocked} (hw : encodeTransaction i = some w) :
    ∃ taken : State → State, ∀ s : State, exec i s = .next (s.transact w.port w.sdi taken) := by
  cases i
  case prstnAsserted | prstnReleased | resetAsserted | resetReleased | frameStart | frameEnd | dataReceived |
      readyReceived | waitReceived | repeatReceived | openReceived | acceptReceived | refuseReceived | closeReceived |
      closedReceived | turnReceived | endOfTransmission | transmitFault | answerTimerExpiry | lostTimerExpiry |
      holdTimerExpiry | turnResponseTimerExpiry | schedulerChoice | noticeAdmission | lineReturnsToIdle |
      selectFalls => cases hw
  all_goals
    obtain rfl := Option.some.inj hw
    exact ⟨_, fun _ => rfl⟩

theorem not_contradicts {ps : PortState} {sdi : List Bool} (h : ps.selectLow = true → ps.sdi <+: sdi) :
    ps.contradicts sdi = false := by
  cases hselect : ps.selectLow with
  | false => simp [PortState.contradicts, hselect]
  | true => simp [PortState.contradicts, hselect, List.isPrefixOf_iff_prefix.2 (h hselect)]

/-- Settles O25. -/
theorem portInResetTakesNothing : Obligations.PortInResetTakesNothing := by
  rintro s p i w hw rfl h
  obtain ⟨taken, hexec⟩ := exec_transact hw
  rw [hexec]
  refine congrArg _ (transact_deaf _ _ ?_ (not_contradicts fun hselect => ?_))
  · exact h.imp (fun ⟨hlow, hselect⟩ => ⟨hselect, hlow⟩) (fun ⟨hselect, hidle, _⟩ => ⟨hselect, hidle⟩)
  · rcases h with ⟨-, hhigh⟩ | ⟨-, -, hbits⟩
    · rw [hhigh] at hselect
      cases hselect
    · exact hbits

/-! ### Known requests with surplus bytes -/

theorem lowByte_halfOf (low high : Byte) : lowByte (halfOf low high) = low := by
  show (high ++ low : BitVec (8 + 8)).extractLsb' 0 8 = low
  exact BitVec.extractLsb'_append_eq_right

theorem highByte_halfOf (low high : Byte) : highByte (halfOf low high) = high := by
  show (high ++ low : BitVec (8 + 8)).extractLsb' 8 8 = high
  exact BitVec.extractLsb'_append_eq_left

/-- R200: the codes of the requests with the given argument bytes. -/
def knownCodes (n : Nat) : List Byte :=
  match n with
  | 0 => [0x10, 0x32, 0x50, 0x51, 0x60, 0x65, 0x72, 0x80, 0x81]
  | 1 => [0x11, 0x22, 0x23, 0x25, 0x26, 0x40, 0x61, 0x62, 0x70, 0x71, 0x82]
  | 2 => [0x24, 0x41]
  | 3 => [0x12, 0x13, 0x31, 0x64]
  | 6 => [0x21]
  | 7 => [0x20, 0x63]
  | 9 => [0x30]
  | _ => []

/-- R200: a known request has a code of its number of argument bytes, which is 9 at most. -/
theorem knownCodes_complete (r : Req) (args : List Byte) :
    ∀ code : Byte, (knownRequest r code args).isSome = true → code ∈ knownCodes args.length :=
  match args with
  | [] => of_decide_eq_true (Eq.refl true)
  | [_] => of_decide_eq_true (Eq.refl true)
  | [_, _] => of_decide_eq_true (Eq.refl true)
  | [_, _, _] => of_decide_eq_true (Eq.refl true)
  | [_, _, _, _] => of_decide_eq_true (Eq.refl true)
  | [_, _, _, _, _] => of_decide_eq_true (Eq.refl true)
  | [_, _, _, _, _, _] => of_decide_eq_true (Eq.refl true)
  | [_, _, _, _, _, _, _] => of_decide_eq_true (Eq.refl true)
  | [_, _, _, _, _, _, _, _] => of_decide_eq_true (Eq.refl true)
  | [_, _, _, _, _, _, _, _, _] => of_decide_eq_true (Eq.refl true)
  | _ :: _ :: _ :: _ :: _ :: _ :: _ :: _ :: _ :: _ :: _ => of_decide_eq_true (Eq.refl true)

/-- R196: any two bytes are those of a value. -/
theorem bytes_of_half (low high : Byte) : ∃ v : Half, low = lowByte v ∧ high = highByte v :=
  ⟨halfOf low high, (lowByte_halfOf low high).symm, (highByte_halfOf low high).symm⟩

/-- R173: every known request but BUF.WRITE is a request of its code and its argument bytes. -/
theorem exec_knownRequest {r : Req} {code : Byte} {args : List Byte} {i : Instr}
    (h : knownRequest r code args = some i) (hcode : code ≠ 0x12) :
    ∃ handle : State → Answer, ∀ s : State, exec i s = .next (s.request r code args handle) := by
  have hmem := knownCodes_complete r args code (by rw [h]; rfl)
  match args, h, hmem with
  | [], h, hmem =>
    simp only [List.length_nil, knownCodes, List.mem_cons, List.not_mem_nil, or_false] at hmem
    rcases hmem with rfl | rfl | rfl | rfl | rfl | rfl | rfl | rfl | rfl
    all_goals
      obtain rfl := Option.some.inj h
      exact ⟨_, fun _ => rfl⟩
  | [a], h, hmem =>
    simp only [List.length_cons, List.length_nil, knownCodes, List.mem_cons, List.not_mem_nil, or_false] at hmem
    rcases hmem with rfl | rfl | rfl | rfl | rfl | rfl | rfl | rfl | rfl | rfl | rfl
    all_goals
      obtain rfl := Option.some.inj h
      exact ⟨_, fun _ => rfl⟩
  | [a, b], h, hmem =>
    simp only [List.length_cons, List.length_nil, knownCodes, List.mem_cons, List.not_mem_nil, or_false] at hmem
    rcases hmem with rfl | rfl
    all_goals
      obtain rfl := Option.some.inj h
      exact ⟨_, fun _ => rfl⟩
  | [a, b, c], h, hmem =>
    simp only [List.length_cons, List.length_nil, knownCodes, List.mem_cons, List.not_mem_nil, or_false] at hmem
    rcases hmem with rfl | rfl | rfl | rfl
    · exact absurd rfl hcode
    all_goals
      obtain rfl := Option.some.inj h
      exact ⟨_, fun _ => rfl⟩
  | [a, b, c, d], h, hmem =>
    nomatch hmem
  | [a, b, c, d, e], h, hmem =>
    nomatch hmem
  | [a, b, c, d, e, f], h, hmem =>
    simp only [List.length_cons, List.length_nil, knownCodes, List.mem_cons, List.not_mem_nil, or_false] at hmem
    rcases hmem with rfl
    · obtain ⟨v, rfl, rfl⟩ := bytes_of_half d e
      have hi : i = .connSend r a b c v f := (Option.some.inj h).symm.trans (by rw [halfOf_bytes])
      subst hi
      exact ⟨_, fun _ => rfl⟩
  | [a, b, c, d, e, f, g], h, hmem =>
    simp only [List.length_cons, List.length_nil, knownCodes, List.mem_cons, List.not_mem_nil, or_false] at hmem
    rcases hmem with rfl | rfl
    · obtain ⟨v, rfl, rfl⟩ := bytes_of_half f g
      have hi : i = .connOpen r a b c d e v := (Option.some.inj h).symm.trans (by rw [halfOf_bytes])
      subst hi
      exact ⟨_, fun _ => rfl⟩
    · obtain rfl := Option.some.inj h
      exact ⟨_, fun _ => rfl⟩
  | [a, b, c, d, e, f, g, k], h, hmem =>
    nomatch hmem
  | [a, b, c, d, e, f, g, k, l], h, hmem =>
    simp only [List.length_cons, List.length_nil, knownCodes, List.mem_cons, List.not_mem_nil, or_false] at hmem
    rcases hmem with rfl
    · obtain ⟨v, rfl, rfl⟩ := bytes_of_half g k
      have hi : i = .listenAdd r a b c d e f v l := (Option.some.inj h).symm.trans (by rw [halfOf_bytes])
      subst hi
      exact ⟨_, fun _ => rfl⟩
  | _ :: _ :: _ :: _ :: _ :: _ :: _ :: _ :: _ :: _ :: _, h, hmem => nomatch hmem

/-! ### The bits of a transaction -/

section
variable (ps : PortState) {sdi : List Bool} {first : Byte} {rest : List Byte}

/-- R171: no complete byte yet. -/
theorem clock_begun (h : sdi.length < 8) :
    ps.clock sdi =
      { ps with transaction := .begun, requestBytes := [], collectPos := 0, sdi := sdi, sdo := zeroBits sdi.length } := by
  rw [PortState.clock, bytesOf_part sdi h]

/-- R172: the first byte is that of a REQUEST. -/
theorem clock_requestBytes (h : bytesOf sdi = requestType :: rest) :
    ps.clock sdi =
      { ps with
        transaction := .request, requestBytes := rest, collectPos := 0, sdi := sdi, sdo := zeroBits sdi.length } := by
  simp only [PortState.clock, h, if_true]

/-- R175: the first byte is that of a COLLECT. -/
theorem clock_collectBytes (h : bytesOf sdi = collectType :: rest) :
    ps.clock sdi =
      { ps with
        transaction := .collect, requestBytes := [], collectPos := rest.length, sdi := sdi
        sdo := zeroBits 8 ++ ps.collected (sdi.length - 8) } := by
  have hne : ¬ collectType = requestType := by decide
  simp only [PortState.clock, h, if_true, if_neg hne]

/-- R171: the first byte is neither. -/
theorem clock_ignored (h : bytesOf sdi = first :: rest) (hrequest : first ≠ requestType) (hcollect : first ≠ collectType) :
    ps.clock sdi =
      { ps with
        transaction := .ignored, requestBytes := [], collectPos := 0, sdi := sdi, sdo := zeroBits sdi.length } := by
  simp only [PortState.clock, h, if_neg hrequest, if_neg hcollect]

/-- The transaction that the bits name does not depend on the bits clocked before. -/
theorem clock_afresh (kind : Transaction) (bytes : List Byte) (pos : Nat) (before carried : List Bool) :
    ({ ps with
        transaction := kind, requestBytes := bytes, collectPos := pos, sdi := before, sdo := carried } :
      PortState).clock sdi = ps.clock sdi := by
  unfold PortState.clock
  cases bytesOf sdi with
  | nil => rfl
  | cons first rest =>
    dsimp only
    split
    · rfl
    · split <;> rfl

theorem collected_eq (n : Nat) :
    ps.collected n =
      (bitsOf (ps.slot.getD { status := .none, tag := 0, lost := false, results := [] }).encode).take n ++
        List.replicate (n - 8 * (ps.slot.getD { status := .none, tag := 0, lost := false, results := [] }).encode.length)
          false := by
  rw [PortState.collected, bitsOf_length]
  rfl

end

/-- R171: a port that hears has begun a transaction with no bit clocked. -/
theorem fall_begun {s : State} {p : Port} (h : s.hears p = true) :
    ∃ carried, (s.port p).fall s.resetLow =
      { s.port p with selectLow := true, transaction := .begun, sdi := [], sdo := carried } := by
  simp only [State.hears, Bool.and_eq_true, Bool.not_eq_true', Bool.or_eq_true, decide_eq_true_eq,
    List.isEmpty_iff] at h
  obtain ⟨⟨hreset, hin⟩, hselect⟩ := h
  rcases hselect with hhigh | ⟨hbegun, hbits⟩
  · exact ⟨[], by simp [PortState.fall, hhigh, hreset, hin]⟩
  · cases hlow : (s.port p).selectLow with
    | false => exact ⟨[], by simp [PortState.fall, hlow, hreset, hin]⟩
    | true =>
      refine ⟨(s.port p).sdo, ?_⟩
      rw [PortState.fall, if_pos hlow, ← hlow, ← hbegun, ← hbits]

/-- R175: the end of a transaction: the port is IDLE, with the slot and the bits of SDO that are left. -/
def State.ending (s : State) (p : Port) (slot : Option Reply) (sdo : List Bool) : State :=
  s.modPort p fun ps =>
    { ps with
      selectLow := false, cutShort := false, transaction := .idle, requestBytes := [], collectPos := 0, sdi := []
      slot := slot, sdo := sdo }

/-- A transaction that the port hears, and that changes nothing but the port before select rises. -/
theorem transact_ending {s : State} {p : Port} {sdi : List Bool} {taken : State → State} {f : PortState → PortState}
    (h : s.hears p = true) (htaken : ∀ t : State, taken t = t.modPort p f)
    {slot : Option Reply} {sdo : List Bool}
    (hrise : (f (((s.port p).fall s.resetLow).clock sdi)).rise =
      { s.port p with
        selectLow := false, cutShort := false, transaction := .idle, requestBytes := [], collectPos := 0, sdi := []
        slot := slot, sdo := sdo }) :
    s.transact p sdi taken = s.ending p slot sdo := by
  rw [transact_hears _ _ h, htaken]
  simp only [modPort_eq, port_setPort_same, setPort_setPort]
  rw [hrise]
  rfl

/-- R172: an incomplete record. -/
theorem transact_truncated {s : State} {p : Port} {sdi : List Bool} (h : s.hears p = true) :
    s.transact p (bitsOf [requestType] ++ sdi) (·.truncate p) =
      s.ending p
        (some { status := .truncated, tag := (bytesOf sdi)[1]?.getD 0, lost := (s.port p).slot.isSome, results := [] })
        (zeroBits (8 + sdi.length)) := by
  obtain ⟨carried, hfall⟩ := fall_begun h
  refine transact_ending h (fun _ => rfl) ?_
  rw [clock_requestBytes _ (typed_bits requestType sdi).1, hfall, List.length_append, bitsOf_length]
  rfl

/-- R175: a COLLECT. -/
theorem transact_collect {s : State} {p : Port} {sdi : List Bool} (h : s.hears p = true) :
    s.transact p (bitsOf [collectType] ++ sdi) id =
      s.ending p
        (if 8 * ((s.port p).slot.getD Reply.absent).encode.length ≤ sdi.length then none else (s.port p).slot)
        (zeroBits 8 ++ (s.port p).collected sdi.length) := by
  obtain ⟨carried, hfall⟩ := fall_begun h
  refine transact_ending (f := id) h (fun t => (setPort_port t p).symm) ?_
  have hlength : (bitsOf [collectType] ++ sdi).length - 8 = sdi.length := by
    rw [List.length_append, bitsOf_length]
    exact Nat.add_sub_cancel_left ..
  rw [clock_collectBytes _ (typed_bits collectType sdi).1, hfall, hlength, bytesOf_length]
  cases hslot : (s.port p).slot with
  | none => simp [PortState.rise, hslot, PortState.collected]
  | some reply =>
    have hwhole : reply.encode.length ≤ sdi.length / 8 ↔ 8 * reply.encode.length ≤ sdi.length := by omega
    simp [PortState.rise, hslot, PortState.collected, hwhole]

/-- R171: a transaction of no type. -/
theorem transact_ignored {s : State} {p : Port} {sdi : List Bool} (h : s.hears p = true)
    (htype : ∀ first : Byte, (bytesOf sdi).head? = some first → first ≠ 0xA5 ∧ first ≠ 0x5A) :
    s.transact p sdi id = s.ending p (s.port p).slot (zeroBits sdi.length) := by
  obtain ⟨carried, hfall⟩ := fall_begun h
  refine transact_ending (f := id) h (fun t => (setPort_port t p).symm) ?_
  rw [hfall]
  cases hbytes : bytesOf sdi with
  | nil =>
    have hpart : sdi.length < 8 := by
      have := bytesOf_length sdi
      rw [hbytes, List.length_nil] at this
      omega
    rw [clock_begun _ hpart]
    cases (s.port p).slot <;> simp [PortState.rise]
  | cons first rest =>
    obtain ⟨hrequest, hcollect⟩ := htype first (by rw [hbytes]; rfl)
    rw [clock_ignored _ hbytes hrequest hcollect]
    cases (s.port p).slot <;> simp [PortState.rise]

/-! ### The fall of select -/

/-- R171, R180, R184: select falls while PRSTn or RESET is asserted. -/
theorem fallAndClock_reset {low : Bool} {ps : PortState} {sdi : List Bool} (hselect : ps.selectLow = false)
    (h : low = true ∨ ps.inReset = true) :
    ps.fallAndClock low sdi = { ps with selectLow := true, transaction := .idle, sdi := [] } := by
  rcases h with h | h <;> simp [PortState.fallAndClock, PortState.fall, hselect, h]

/-- R171: select falls, and the bits clocked since name the transaction. -/
theorem fallAndClock_begins {ps : PortState} {sdi : List Bool} (hselect : ps.selectLow = false)
    (hreset : ps.inReset = false) :
    ps.fallAndClock false sdi = ({ ps with selectLow := true } : PortState).clock sdi := by
  rw [← clock_afresh { ps with selectLow := true } .begun ps.requestBytes ps.collectPos [] []]
  simp [PortState.fallAndClock, PortState.fall, hselect, hreset]

/-- A transaction in progress, whose bits go on from those clocked before. -/
theorem transact_low {s : State} {p : Port} {sdi : List Bool} (taken : State → State)
    (hselect : (s.port p).selectLow = true) (hbits : (s.port p).sdi <+: sdi) (hbusy : (s.port p).transaction ≠ .idle) :
    s.transact p sdi taken = (taken (s.setPort p ((s.port p).clock sdi))).modPort p PortState.rise := by
  have hfall : (s.port p).fall s.resetLow = s.port p := if_pos hselect
  have htaking : (s.port p).inTransaction = true := by simp [PortState.inTransaction, hbusy]
  simp only [State.transact, modPort_eq, port_setPort_same, setPort_setPort, hfall, not_contradicts fun _ => hbits,
    htaking, if_true, Bool.false_eq_true, if_false]

/-- It is taken as if no bit had been clocked (log entry 2). -/
theorem transact_again {s : State} {p : Port} {sdi : List Bool} (taken : State → State)
    (hselect : (s.port p).selectLow = true) (hbits : (s.port p).sdi <+: sdi) (hbusy : (s.port p).transaction ≠ .idle) :
    s.transact p sdi taken =
      (s.modPort p fun ps =>
        { ps with transaction := .begun, requestBytes := [], collectPos := 0, sdi := [], sdo := [] }).transact p sdi
          taken := by
  rw [modPort_eq, transact_low taken hselect hbits hbusy, transact_low taken]
  · rw [port_setPort_same, setPort_setPort]
    exact congrArg (fun ps => (taken (s.setPort p ps)).modPort p PortState.rise) (clock_afresh _ _ _ _ _ _).symm
  · rw [port_setPort_same]
    exact hselect
  · rw [port_setPort_same]
    exact List.nil_prefix
  · rw [port_setPort_same]
    nofun

/-- Settles O24. -/
theorem otherTransactions : Obligations.OtherTransactions := by
  refine ⟨fun reply => rfl, rfl, fun s => ⟨fun r code args i hs hr hi hcode => ?_, fun r code hs => ?_,
    fun p sdi hs => ⟨?_, ?_, fun htype => ?_⟩, fun p sdi hselect => ⟨fun hreset => ?_, fun hreset hin =>
      ⟨fun hpart => ?_, fun first rest hbytes => ⟨?_, ?_, fun hrequest hcollect => ?_⟩⟩⟩, fun p sdi hselect => ?_,
    fun i w hw hselect => ?_⟩⟩
  · obtain ⟨handle, hexec⟩ := exec_knownRequest hi hcode
    rw [hexec, request_surplus code args handle hs hr]
  · exact congrArg _ (requestWithData_refuses hs rfl)
  · exact congrArg _ (transact_truncated hs)
  · refine congrArg _ ((transact_collect hs).trans ?_)
    rw [collected_eq]
    rfl
  · exact congrArg _ (transact_ignored hs htype)
  · exact congrArg (fun ps => Host.Outcome.next (s.setPort p ps)) (fallAndClock_reset hselect hreset)
  · refine congrArg (fun ps => Host.Outcome.next (s.setPort p ps)) ?_
    rw [hreset]
    exact (fallAndClock_begins hselect hin).trans (clock_begun _ hpart)
  · rintro rfl
    refine congrArg (fun ps => Host.Outcome.next (s.setPort p ps)) ?_
    rw [hreset]
    exact (fallAndClock_begins hselect hin).trans (clock_requestBytes _ hbytes)
  · rintro rfl
    refine congrArg (fun ps => Host.Outcome.next (s.setPort p ps)) ?_
    rw [hreset]
    refine (fallAndClock_begins hselect hin).trans ((clock_collectBytes _ hbytes).trans ?_)
    rw [collected_eq]
    rfl
  · refine congrArg (fun ps => Host.Outcome.next (s.setPort p ps)) ?_
    rw [hreset]
    exact (fallAndClock_begins hselect hin).trans (clock_ignored _ hbytes hrequest hcollect)
  · refine congrArg Host.Outcome.next ?_
    rw [modPort_eq, PortState.fallAndClock, if_pos hselect, setPort_port]
  · obtain ⟨taken, hexec⟩ := exec_transact hw
    refine ⟨fun hbits => ?_, fun hbits hbusy => ?_⟩
    · have hcontradicts : (s.port w.port).contradicts w.sdi = true := by
        simp only [PortState.contradicts, hselect, Bool.true_and, Bool.not_eq_true']
        exact Bool.eq_false_iff.2 fun h => hbits (List.isPrefixOf_iff_prefix.1 h)
      rw [hexec, State.transact, if_pos hcontradicts]
    · rw [hexec, hexec]
      exact congrArg _ (transact_again taken hselect hbits hbusy)

end Sys2Proof.Machine
end

section
/-! EVT.FETCH: the records taken, and the bytes of a record. -/

namespace Sys2Proof.Machine

variable {s : State} {p : Port}

theorem modAccount_modAccount (pool : Pool) (p : Port) (f g : Account → Account) :
    (pool.modAccount p f).modAccount p g = pool.modAccount p fun a => g (f a) := by
  simp only [Pool.modAccount, Pool.account, look_put_same, put_put]

theorem modAccount_id (pool : Pool) (p : Port) : (pool.modAccount p fun a => a) = pool := by
  simp only [Pool.modAccount, Pool.account, put_look]

/-- Several handles join a held set. -/
def insertHandles (hs held : List Handle) : List Handle := hs.foldl (fun l h => insertHandle h l) held

theorem mem_insertHandles {h : Handle} (hs held : List Handle) : h ∈ insertHandles hs held ↔ h ∈ held ∨ h ∈ hs := by
  induction hs generalizing held with
  | nil => simp [insertHandles]
  | cons k hs ih =>
    rw [insertHandles, List.foldl_cons, ← insertHandles, ih, mem_insertHandle, List.mem_cons]
    exact (or_congr_left or_comm).trans or_assoc

theorem hold_all (hs : List Handle) (pool : Pool) (p : Port) :
    hs.foldl (fun pool h => pool.hold p h) pool =
      pool.modAccount p fun a => { a with held := insertHandles hs a.held } := by
  induction hs generalizing pool with
  | nil => exact (modAccount_id pool p).symm
  | cons h hs ih => rw [List.foldl_cons, ih, Pool.hold, modAccount_modAccount]; rfl

/-- R110: the records that a fetch takes, and their buffers. -/
theorem takeRecords_eq (s : State) (p : Port) (n : Nat) :
    s.takeRecords p n =
      (s.modPort p fun ps => { ps with queue := ps.queue.drop n }).withPool
        (s.pool.modAccount p fun a =>
          { a with held := insertHandles (((s.port p).queue.take n).filterMap EventRecord.buffer) a.held }) := by
  rw [State.takeRecords, hold_all]
  rfl

theorem takeRecords_account (s : State) (p q : Port) (n : Nat) :
    (s.takeRecords p n).account q =
      if p = q then
        { s.account p with
          held := insertHandles (((s.port p).queue.take n).filterMap EventRecord.buffer) (s.account p).held }
      else s.account q := by
  rw [takeRecords_eq]
  exact modAccount_account ..

theorem takeRecords_port (s : State) (p : Port) (n : Nat) :
    (s.takeRecords p n).port p = { s.port p with queue := (s.port p).queue.drop n } := by
  rw [takeRecords_eq, withPool_port, modPort_eq, port_setPort_same]

theorem takeRecords_port_other (s : State) {p q : Port} (n : Nat) (h : p ≠ q) :
    (s.takeRecords p n).port q = s.port q := by
  rw [takeRecords_eq, withPool_port, modPort_eq, port_setPort_other _ _ h]

theorem runArbiter_transaction (s : State) (p : Port) :
    ((s.runArbiter p).port p).transaction = (s.port p).transaction := by
  obtain ⟨added, h⟩ := (admitRun_admitted s p Config.queueRoom).queue
  rw [State.runArbiter, h]

theorem fetch_transaction (s : State) (p : Port) (n : Nat) :
    (((if (s.port p).queue = [] then s else ((s.takeRecords p n).runArbiter p).schedule) : State).port p).transaction =
      (s.port p).transaction := by
  split
  · rfl
  · rw [schedule_transaction, runArbiter_transaction, takeRecords_port]

/-! ### The request -/

theorem answerEvtFetch_badArg {n : Byte} (h : ¬ (1 ≤ n.toNat ∧ n.toNat ≤ 8)) :
    answerEvtFetch p n s = .refuse .badArg s := by
  have hno : within 1 8 n.toNat = false := by simpa [within] using h
  simp only [answerEvtFetch, hno, Bool.not_false, if_true]

theorem answerEvtFetch_ok {n : Byte} (hlow : 1 ≤ n.toNat) (hhigh : n.toNat ≤ 8) :
    answerEvtFetch p n s =
      .ok
        (byte ((s.port p).queue.take n.toNat).length ::
            ((s.port p).queue.take n.toNat).flatMap EventRecord.encode ++
          [byte ((s.fetch p n.toNat).port p).queue.length] ++ twoBytes ((s.fetch p n.toNat).noticesWaiting p))
        (if (s.port p).queue = [] then s else ((s.takeRecords p n.toNat).runArbiter p).schedule) := by
  have hwithin : within 1 8 n.toNat = true := by simp [within, hlow, hhigh]
  simp only [answerEvtFetch, hwithin, Bool.not_true, Bool.false_eq_true, if_false]
  rw [List.flatMap_def]
  have hfetch : s.fetch p n.toNat =
      if (s.port p).queue = [] then s else ((s.takeRecords p n.toNat).runArbiter p).schedule := by
    simp only [State.fetch, List.isEmpty_iff]
  rw [← hfetch]
  rfl

theorem attn_iff (ps : PortState) : ps.attn = true ↔ ∃ rec ∈ ps.queue, rec.alerts = true := List.any_eq_true

/-! ### The bytes of a record -/

theorem flag_bits (mark timedOut : Bool) :
    flagByte mark ||| (flagByte timedOut <<< 1) = if timedOut then flagByte mark + 2 else flagByte mark := by
  cases mark <;> cases timedOut <;> decide

/-- R202: the twelve bytes, with the flags byte by its two marks. -/
theorem recordBytes_eq (r : EventRecord) (timedOut : Bool) (entry handle length : Byte) (tag : Half)
    (reason station service dropped : Byte) :
    recordBytes r timedOut entry handle length tag reason station service dropped =
      [byte r.body.kindCode, if timedOut then flagByte r.alerts + 2 else flagByte r.alerts, entry, handle, length,
        lowByte tag, highByte tag, reason, station, service, dropped, 0] := by
  rw [recordBytes, flag_bits]
  rfl

theorem encode_ended (mark : Bool) (e : EntryIdx) (why : EndReason) :
    EventRecord.encode { body := .held e (.ended why), alerts := mark } =
      [4, flagByte mark, byte e.val, 0, 0, 0, 0, byte why.code, 0, 0, 0, 0] := recordBytes_eq ..

theorem encode_line (mark : Bool) (code : LineCode) :
    EventRecord.encode { body := .line code, alerts := mark } =
      [12, flagByte mark, 0xFF, 0, 0, 0, 0, byte code.code, code.station, 0, 0, 0] := recordBytes_eq ..

/-- Settles O17. -/
theorem evtFetchTakesTheOldest : Obligations.EvtFetchTakesTheOldest := by
  refine ⟨fun mark => ?_, attn_iff, fun s r n hs hr => ⟨fun hn => ?_, fun hlow hhigh => ⟨?_, ?_, fun h => ?_, ?_, ?_, ?_⟩⟩⟩
  · refine ⟨fun e => ⟨fun _ _ => recordBytes_eq .., fun _ _ => recordBytes_eq .., fun _ _ _ => recordBytes_eq .., ?_,
      fun _ => recordBytes_eq .., recordBytes_eq .., fun _ => recordBytes_eq .., recordBytes_eq .., recordBytes_eq ..,
      recordBytes_eq .., fun _ => recordBytes_eq ..⟩, ⟨?_, fun a => ⟨encode_line mark _, encode_line mark _,
      encode_line mark _⟩⟩, fun _ => recordBytes_eq ..⟩
    · simp only [encode_ended, List.map_cons, List.map_nil]
      rfl
    · simp only [encode_line, List.map_cons, List.map_nil]
      rfl
  · exact congrArg _ (request_refuses hs hr (answerEvtFetch_badArg hn))
  · refine congrArg _ (request_serves _ hs hr ((answerEvtFetch_ok hlow hhigh).trans ?_) ?_)
    · rw [taking_queue, hr]
      rfl
    · have hkeeps := fetch_transaction (s.taking r.port ([0x40, r.tag] ++ [n] ++ r.rest)) r.port n.toNat
      rw [taking_queue, taking_transaction] at hkeeps
      rw [hkeeps]
      nofun
  · exact takeRecords_port s r.port n.toNat
  · rw [takeRecords_account, if_pos rfl, mem_insertHandles, List.mem_filterMap]
  · rw [takeRecords_account, if_pos rfl]
  · intro q hq
    exact ⟨by rw [takeRecords_account, if_neg hq.symm], takeRecords_port_other s _ hq.symm⟩
  · rw [takeRecords_eq]
    rfl

end Sys2Proof.Machine
end

section
/-! The promises right after reset. -/

namespace Sys2Proof.Machine

variable {s : State}

theorem ok_empty (onLine : Option Seq) : ({} : ConnEntry).ok onLine := .refl _

/-- A part whose entries are all FREE, with no frame on the line, keeps the promises on connections. -/
theorem connectionsOk_of_empty (hentries : ∀ e, s.entry e = {}) (hidle : s.sched.tx = none) : ConnectionsOk s where
  entries e := by
    rw [hentries]
    exact ok_empty _
  remotes e k _ he := by
    rw [hentries] at he
    simp [ConnEntry.keepsRemote] at he
  closeDue x e _ _ _ _ hclosing := by
    rw [hentries] at hclosing
    cases hclosing
  dataAlone x hx := by
    rw [hidle] at hx
    cases hx
  away _ e := .inl (by rw [hentries])

theorem buffersOf_empty (hentries : ∀ e, s.entry e = {}) (hqueues : ∀ p, (s.port p).queue = [])
    (hpool : s.pool = Pool.reset) (p : Port) : s.buffersOf p = [] := by
  have haccount : s.account p = {} := by
    rw [State.account, hpool, reset_account]
  simp [State.buffersOf, haccount, hqueues, hentries]

/-- A part with the pool after reset and nothing in its queues and entries has each buffer on the free list. -/
theorem buffers_of_empty (hentries : ∀ e, s.entry e = {}) (hqueues : ∀ p, (s.port p).queue = [])
    (hpool : s.pool = Pool.reset) : onePlace s ∧ chargesOk s := by
  have hnone := buffersOf_empty hentries hqueues hpool
  refine ⟨fun h => ?_, fun p => ?_⟩
  · have hplaces : (List.finRange 4).flatMap s.buffersOf = [] := List.flatMap_eq_nil_iff.2 fun p _ => hnone p
    rw [hplaces, List.append_nil, hpool]
    exact List.count_eq_one_of_mem (List.nodup_finRange 192) (List.mem_finRange h)
  · rw [hnone, State.account, hpool, reset_account]
    rfl

/-- Settles O60. -/
theorem resetKeepsThePromises : Obligations.ResetKeepsThePromises := by
  obtain ⟨hmemory, hquotas, hreserve, hheld⟩ := poolReset_ok
  have hidle : State.reset.sched.tx = none := rfl
  have hqueues : ∀ p, (State.reset.port p).queue = [] := fun p => by rw [reset_port]; rfl
  obtain ⟨hplace, hcharges⟩ := buffers_of_empty reset_entry hqueues rfl
  refine ⟨hmemory, hquotas, hreserve, fun p => ?_, ⟨List.Pairwise.nil, nofun, Nat.zero_le _⟩, nofun, nofun,
    ⟨Nat.zero_le _, fun _ => rfl⟩, fun h => absurd rfl h, settled_of_engine nofun, listenOk_nil,
    fun e _ => reset_entry e, fun e => ?_, connectionsOk_of_empty reset_entry hidle, hplace, hcharges, hheld⟩
  · rw [reset_port]
    exact afterReset_ok false false
  · rw [reset_entry]
    exact boundsOk_empty

end Sys2Proof.Machine
end

section
/-! The successor and the next probe of a turn list in order, and the handovers that they make. -/

namespace Sys2Proof.Machine

/-! ### The next address of a list -/

/-- R122, R123: the first address above a place, or else the lowest. -/
def nextAbove (place : Nat) (l : List Byte) : Option Byte := (l.find? fun a => place < a.toNat).or l.head?

/-- An address stands before another when the list is walked from a place upwards and then from its lowest address. -/
def beforeFrom (place a b : Nat) : Prop := (place < a → place < b → a ≤ b) ∧ (¬ place < a → ¬ place < b ∧ a ≤ b)

theorem nextAbove_none {place : Nat} {l : List Byte} : nextAbove place l = none ↔ l = [] := by
  rw [nextAbove, Option.or_eq_none_iff, List.head?_eq_none_iff]
  exact ⟨fun h => h.2, fun h => ⟨by rw [h]; rfl, h⟩⟩

theorem nextAbove_before {place : Nat} {l : List Byte} {a : Byte} (hsorted : l.Pairwise fun a b => a.toNat < b.toNat)
    (h : nextAbove place l = some a) : a ∈ l ∧ ∀ b ∈ l, beforeFrom place a.toNat b.toNat := by
  cases hfind : l.find? fun a => place < a.toNat with
  | some c =>
    rw [nextAbove, hfind] at h
    obtain rfl := Option.some.inj h
    obtain ⟨hc, front, back, rfl, hfront⟩ := List.find?_eq_some_iff_append.1 hfind
    simp only [decide_eq_true_eq] at hc
    refine ⟨by simp, fun b hb => ⟨fun _ hb' => ?_, fun hno => absurd hc hno⟩⟩
    rcases List.mem_append.1 hb with hb | hb
    · have := hfront b hb
      simp only [Bool.not_eq_true', decide_eq_false_iff_not] at this
      exact absurd hb' this
    · rcases List.mem_cons.1 hb with rfl | hb
      · exact le_rfl
      · exact le_of_lt (List.rel_of_pairwise_cons (List.pairwise_append.1 hsorted).2.1 hb)
  | none =>
    rw [nextAbove, hfind] at h
    have hnone : ∀ b ∈ l, ¬ place < b.toNat := by simpa using hfind
    obtain ⟨rest, rfl⟩ := List.head?_eq_some_iff.1 h
    refine ⟨List.mem_cons_self, fun b hb => ⟨fun ha => absurd ha (hnone a List.mem_cons_self), fun _ => ⟨hnone b hb, ?_⟩⟩⟩
    rcases List.mem_cons.1 hb with rfl | hb
    · exact le_rfl
    · exact le_of_lt (List.rel_of_pairwise_cons hsorted hb)

theorem nextAbove_some {place : Nat} {l : List Byte} {a : Byte} (hsorted : l.Pairwise fun a b => a.toNat < b.toNat) :
    nextAbove place l = some a ↔ a ∈ l ∧ ∀ b ∈ l, beforeFrom place a.toNat b.toNat := by
  refine ⟨nextAbove_before hsorted, fun ⟨hmem, hbefore⟩ => ?_⟩
  cases hnext : nextAbove place l with
  | none =>
    rw [nextAbove_none.1 hnext] at hmem
    cases hmem
  | some c =>
    obtain ⟨hc, hfirst⟩ := nextAbove_before hsorted hnext
    have h1 := hbefore c hc
    have h2 := hfirst a hmem
    unfold beforeFrom at h1 h2
    exact congrArg some (BitVec.eq_of_toNat_eq (by omega))

/-! ### The turn list -/

/-- R122: the addresses with a status. -/
def TurnController.addresses (t : TurnController) (present : Bool) : List Byte :=
  (t.list.filter fun x => x.present == present).map (·.address)

theorem successor_eq (t : TurnController) (own : Byte) : t.successor own = nextAbove own.toNat (t.addresses true) := by
  have hfilter : (t.list.filter (·.present)).map (·.address) = t.addresses true := by
    simp [TurnController.addresses]
  rw [TurnController.successor, hfilter, nextAbove]
  cases List.find? (fun a => decide (own.toNat < a.toNat)) (t.addresses true) <;> rfl

theorem nextProbe_eq (t : TurnController) (own : Byte) :
    t.nextProbe own = nextAbove t.probeCursor.toNat (t.candidates own) := by
  rw [TurnController.nextProbe, nextAbove]
  cases List.find? (fun a => decide (t.probeCursor.toNat < a.toNat)) (t.candidates own) <;> rfl

theorem candidates_eq (t : TurnController) (own : Byte) :
    t.candidates own =
      match t.successor own with
      | some n => (t.addresses false).filter (strictlyBetween own n)
      | none => t.addresses false := by
  have hfilter : (t.list.filter fun r => !r.present).map (·.address) = t.addresses false := by
    simp [TurnController.addresses]
  rw [TurnController.candidates, hfilter] <;> cases t.successor own <;> rfl

variable {t : TurnController} {own : Byte}

theorem mem_addresses {present : Bool} {a : Byte} :
    a ∈ t.addresses present ↔ ∃ x ∈ t.list, x.address = a ∧ x.present = present := by
  simp only [TurnController.addresses, List.mem_map, List.mem_filter, beq_iff_eq]
  exact ⟨fun ⟨x, ⟨hx, hp⟩, ha⟩ => ⟨x, hx, ha, hp⟩, fun ⟨x, hx, ha, hp⟩ => ⟨x, ⟨hx, hp⟩, ha⟩⟩

theorem addresses_sorted (h : turnListOk own t.list) (present : Bool) :
    (t.addresses present).Pairwise fun a b => a.toNat < b.toNat :=
  List.pairwise_map.2 (h.1.filter _)

theorem candidates_sorted (h : turnListOk own t.list) : (t.candidates own).Pairwise fun a b => a.toNat < b.toNat := by
  rw [candidates_eq]
  cases t.successor own with
  | none => exact addresses_sorted h false
  | some n => exact (addresses_sorted h false).filter _

/-- R118: an address of the turn list is another station's. -/
theorem address_range (h : turnListOk own t.list) {present : Bool} {a : Byte} (ha : a ∈ t.addresses present) :
    1 ≤ a.toNat ∧ a.toNat ≤ 62 ∧ a.toNat ≠ own.toNat := by
  obtain ⟨x, hx, rfl, -⟩ := mem_addresses.1 ha
  obtain ⟨hstation, hother⟩ := h.2.1 x hx
  obtain ⟨hlow, hhigh⟩ := isStation_iff.1 hstation
  exact ⟨hlow, hhigh, fun heq => hother (BitVec.eq_of_toNat_eq heq)⟩

/-- R122: the place of an address in the ring, counted upwards from the own station. -/
def ringPlace (own a : Byte) : Nat := (a.toNat + 63 - own.toNat) % 63

theorem beforeFrom_iff {own a b : Nat} (hown : own ≤ 62) (ha : 1 ≤ a ∧ a ≤ 62 ∧ a ≠ own) (hb : 1 ≤ b ∧ b ≤ 62 ∧ b ≠ own) :
    beforeFrom own a b ↔ (a + 63 - own) % 63 ≤ (b + 63 - own) % 63 := by
  unfold beforeFrom
  omega

/-- R123: strictly between the own station and the successor, by the places in the ring. -/
theorem strictlyBetween_iff {n a : Byte} (hown : own.toNat ≤ 62) (ha : 1 ≤ a.toNat ∧ a.toNat ≤ 62 ∧ a.toNat ≠ own.toNat)
    (hn : 1 ≤ n.toNat ∧ n.toNat ≤ 62 ∧ n.toNat ≠ own.toNat) :
    strictlyBetween own n a = true ↔ ringPlace own a < ringPlace own n := by
  unfold strictlyBetween ringPlace
  split <;> simp only [Bool.and_eq_true, Bool.or_eq_true, decide_eq_true_eq] <;> omega

/-- R122: the successor is the nearest PRESENT station in ring order. -/
theorem successor_some (h : turnListOk own t.list) (hown : own.toNat ≤ 62) {a : Byte} :
    t.successor own = some a ↔
      a ∈ t.addresses true ∧ ∀ b ∈ t.addresses true, ringPlace own a ≤ ringPlace own b := by
  rw [successor_eq, nextAbove_some (addresses_sorted h true)]
  refine and_congr_right fun ha => forall₂_congr fun b hb => ?_
  exact beforeFrom_iff hown (address_range h ha) (address_range h hb)

theorem successor_none : t.successor own = none ↔ t.addresses true = [] := by rw [successor_eq, nextAbove_none]

/-- R123: the candidates, outside sole mode. -/
theorem mem_candidates (h : turnListOk own t.list) (hown : own.toNat ≤ 62) {a n : Byte} (hn : t.successor own = some n) :
    a ∈ t.candidates own ↔ a ∈ t.addresses false ∧ ringPlace own a < ringPlace own n := by
  have hsuccessor := ((successor_some h hown).1 hn).1
  rw [candidates_eq, hn, List.mem_filter]
  exact and_congr_right fun ha => strictlyBetween_iff hown (address_range h ha) (address_range h hsuccessor)

theorem candidates_sole (hn : t.successor own = none) : t.candidates own = t.addresses false := by
  rw [candidates_eq, hn]

theorem nextProbe_none : t.nextProbe own = none ↔ t.candidates own = [] := by rw [nextProbe_eq, nextAbove_none]

/-! ### Handovers -/

variable {s : State} {a : Byte}

theorem endTurn_probe (hdue : s.config.params.probeInterval ≤ s.turn.rotation)
    (ha : s.turn.nextProbe s.config.station = some a) : s.endTurn = s.beginProbe a := by
  simp only [State.endTurn, hdue, if_true, ha]

theorem endTurn_handover
    (hno : s.turn.rotation < s.config.params.probeInterval ∨ s.turn.nextProbe s.config.station = none)
    (ha : s.turn.successor s.config.station = some a) : s.endTurn = s.beginHandover .normal a := by
  have hnone : (if s.config.params.probeInterval ≤ s.turn.rotation then s.turn.nextProbe s.config.station else none) =
      none := by
    rcases hno with hno | hno
    · exact if_neg (Nat.not_le.2 hno)
    · rw [hno, ite_self]
  simp only [State.endTurn, hnone, ha]

theorem renewSoleTurn_probe (ha : s.turn.nextProbe s.config.station = some a) : s.renewSoleTurn = s.beginProbe a := by
  simp only [State.renewSoleTurn, ha]

theorem renewSoleTurn_renewal (hnone : s.turn.nextProbe s.config.station = none) :
    s.renewSoleTurn = s.withTurn { s.turn with frameCount := 0, holdTimer := some s.config.holdTime } := by
  simp only [State.renewSoleTurn, hnone]

/-- Settles O51. -/
theorem handoverChoice : Obligations.HandoverChoice := by
  intro s h hown
  refine ⟨fun a => ?_, ?_, fun a n hn => ?_, fun hn a => ?_, nextProbe_none, fun a ha => ?_, fun a => endTurn_probe,
    fun a => rfl, fun a => renewSoleTurn_probe, renewSoleTurn_renewal, fun a => endTurn_handover, fun k a => ?_⟩
  · rw [successor_some h hown, mem_addresses]
    exact and_congr_right fun _ => forall_congr' fun b => by rw [mem_addresses]; rfl
  · rw [successor_none, List.eq_nil_iff_forall_not_mem]
    exact forall_congr' fun a => by rw [mem_addresses]
  · rw [mem_candidates h hown hn, mem_addresses]
    rfl
  · rw [candidates_sole hn, mem_addresses]
  · rw [nextProbe_eq] at ha
    exact (nextAbove_some (candidates_sorted h)).1 ha
  · rw [State.beginHandover, State.sendTurn, startFrame_eq]
    rfl

end Sys2Proof.Machine
end

section
/-! The scheduler's classes, its choice, and the frames that it starts. -/

namespace Sys2Proof.Machine

/-! ### The classes -/

section
variable (c : ConnEntry)

theorem inResponse_iff :
    c.inResponse = true ↔
      (c.state = .opened ∨ c.state = .draining) ∧
        (c.controlDue = .sendAccept ∨ c.flags.repeatDue = true ∨ c.flags.statusDue = true ∨
          c.flags.answerOwed = true ∨ c.flags.ackDue = true) := by
  simp only [ConnEntry.inResponse, ConnEntry.owesResponse, Bool.and_eq_true, live_iff, Bool.or_eq_true,
    decide_eq_true_eq, or_assoc]

theorem inInitiative_iff :
    c.inInitiative = true ↔
      (c.state = .opening ∧ c.controlDue = .sendOpen) ∨ (c.state = .closing ∧ c.controlDue = .sendClose) ∨
        ((c.state = .opened ∨ c.state = .draining) ∧ c.flags.queryDue = true ∧ c.controlDue ≠ .sendAccept) := by
  simp only [ConnEntry.inInitiative, Bool.and_eq_true, live_iff, Bool.or_eq_true, decide_eq_true_eq, or_assoc, and_assoc]

theorem windowFilled_false : c.windowFilled = false ↔ c.unacked.length < c.window.getD 0 :=
  decide_eq_false_iff_not.trans Nat.not_le

theorem eligible_iff :
    c.eligible = true ↔
      (c.state = .opened ∨ c.state = .draining) ∧ c.controlDue = .none ∧ c.flags.peerWaiting = false ∧
        ((∃ m ∈ c.unacked, m.needsTx = true) ∨ (c.sendQueue ≠ [] ∧ c.unacked.length < c.window.getD 0)) := by
  simp only [ConnEntry.eligible, ConnEntry.marked, Bool.and_eq_true, live_iff, Bool.or_eq_true, decide_eq_true_eq,
    Bool.not_eq_true', List.any_eq_true, and_assoc, windowFilled_false, List.isEmpty_eq_false_iff]

theorem inData_iff (pr : Fin 4) : c.inData pr = true ↔ c.eligible = true ∧ c.priority = some pr := by
  simp only [ConnEntry.inData, Bool.and_eq_true, decide_eq_true_eq]

theorem busy_iff :
    c.busy = true ↔
      c.flags.hostHold = true ∨ c.flags.starved = true ∨ 4 ≤ (c.notices.filter Notice.isReceived).length := by
  rw [ConnEntry.busy, Bool.or_eq_true, Bool.or_eq_true, noticeFull_received, or_assoc]

end

/-- R197: the places of the fields of a sequence byte. -/
theorem seqByte_toNat (sn en : Seq) (q a : Bool) :
    (seqByte sn en q a).toNat = 32 * sn.toNat + 4 * en.toNat + (if q then 2 else 0) + (if a then 1 else 0) := by
  revert sn en q a
  decide

/-! ### The choice -/

variable {s : State} {e k : EntryIdx} {pr : Fin 4}

theorem schedule_choice {c : Choice} (ho : s.offered = true) (hc : s.choose = some c) : s.schedule = s.startChoice c := by
  simp only [State.schedule, ho, if_true, hc]

/-- R146: the member of a class that comes next after a pointer. -/
def State.first (s : State) (ptr : EntryIdx) (P : ConnEntry → Bool) (e : EntryIdx) : Prop :=
  P (s.entry e) = true ∧ ∀ k : EntryIdx, P (s.entry k) = true → (e - (ptr + 1)).val ≤ (k - (ptr + 1)).val

theorem chooseResponse_first (h : s.first s.sched.responsePtr ConnEntry.inResponse e) : s.chooseResponse = some e :=
  roundRobin_some.2 h

theorem chooseInitiative_first (h : s.first s.sched.initiativePtr ConnEntry.inInitiative e) :
    s.chooseInitiative = some e := roundRobin_some.2 h

theorem chooseData_first (h : s.first (look s.sched.dataPtrs pr) (ConnEntry.inData pr) e) : s.chooseData pr = some e :=
  roundRobin_some.2 h

theorem chooseResponse_none (h : ∀ e, (s.entry e).inResponse = false) : s.chooseResponse = none := roundRobin_none.2 h

theorem chooseInitiative_none (h : ∀ e, (s.entry e).inInitiative = false) : s.chooseInitiative = none :=
  roundRobin_none.2 h

theorem chooseData_none (h : ∀ e, (s.entry e).inData pr = false) : s.chooseData pr = none := roundRobin_none.2 h

/-- R151: the highest priority that has a member. -/
theorem chooseDataClass_first (hnone : ∀ q : Fin 4, pr < q → ∀ e, (s.entry e).inData q = false)
    (h : s.first (look s.sched.dataPtrs pr) (ConnEntry.inData pr) e) : s.chooseDataClass = some (pr, e) := by
  have hpr := chooseData_first h
  cases hclass : s.chooseDataClass with
  | none =>
    rw [chooseDataClass_none.1 hclass pr] at hpr
    cases hpr
  | some x =>
    obtain ⟨q, j⟩ := x
    obtain ⟨hq, habove⟩ := chooseDataClass_some hclass
    rcases lt_trichotomy pr q with hlt | rfl | hlt
    · rw [chooseData_none (hnone q hlt)] at hq
      cases hq
    · rw [hpr] at hq
      rw [Option.some.inj hq]
    · rw [habove pr hlt] at hpr
      cases hpr

theorem choose_stray {x : StrayReply} {rest : List StrayReply} (h : s.sched.strays = x :: rest) :
    s.choose = some (.stray x) := by
  simp [State.choose, h]

theorem choose_response (hstrays : s.sched.strays = []) (h : s.chooseResponse = some e) :
    s.choose = some (.response e) := by
  simp [State.choose, hstrays, h]

theorem choose_unprompted (hstrays : s.sched.strays = []) (h : s.chooseResponse = none) :
    s.choose = s.chooseUnprompted := by
  simp [State.choose, hstrays, h]

theorem chooseUnprompted_data (hinitiative : s.chooseInitiative = none) (h : s.chooseDataClass = some (pr, e)) :
    s.chooseUnprompted = some (.data pr e) := by
  simp only [State.chooseUnprompted, hinitiative, h]

/-- R145: the initiative class, unless its CLOSE waits. -/
theorem chooseUnprompted_initiative (h : s.chooseInitiative = some e)
    (hstays : ∀ q k, s.chooseDataClass = some (q, k) → s.abortedInPlace e q = true → Config.abortedCloseWaits = false) :
    s.chooseUnprompted = some (.initiative e) := by
  unfold State.chooseUnprompted
  rw [h]
  cases hdata : s.chooseDataClass with
  | none => rfl
  | some x =>
    obtain ⟨q, k⟩ := x
    dsimp only
    refine if_neg fun hboth => ?_
    obtain ⟨haborted, hwaits⟩ := Bool.and_eq_true_iff.1 hboth
    rw [hstays q k hdata haborted] at hwaits
    cases hwaits

theorem chooseUnprompted_passing (h : s.chooseInitiative = some e) (hdata : s.chooseDataClass = some (pr, k))
    (haborted : s.abortedInPlace e pr = true) (hwaits : Config.abortedCloseWaits = true) :
    s.chooseUnprompted = some (.passing e pr k) := by
  simp only [State.chooseUnprompted, h, hdata, haborted, hwaits, Bool.and_self, if_true]

/-- R156, row 4: the CLOSE of an aborted entry that may wait. -/
def State.closeWaits (s : State) (e : EntryIdx) : Prop :=
  (s.entry e).aborted = true ∧ (s.entry e).state = .closing ∧
    (∀ k : EntryIdx, k ≠ e → (s.entry k).inInitiative = false) ∧
    (∃ (pr : Fin 4) (k : EntryIdx), (s.entry k).inData pr = true) ∧
    ∃ pr : Fin 4, (s.entry e).priority = some pr ∧ (∀ q : Fin 4, pr < q → ∀ k, (s.entry k).inData q = false) ∧
      let ptr := look s.sched.dataPtrs pr
      ∀ k : EntryIdx, (s.entry k).inData pr = true → (e - (ptr + 1)).val < (k - (ptr + 1)).val

theorem inData_live {c : ConnEntry} (h : c.inData pr = true) : c.live = true :=
  eligible_live ((inData_iff c pr).1 h).1

theorem closing_ne_inData (hclosing : (s.entry e).state = .closing) (hk : (s.entry k).inData pr = true) : k ≠ e := by
  rintro rfl
  have := live_iff.1 (inData_live hk)
  rw [hclosing] at this
  simp at this

/-- The entry's place among the members of the DATA class, as if it were one. -/
theorem inPlace_iff (hclosing : (s.entry e).state = .closing) (ptr : EntryIdx) :
    roundRobin ptr (fun k => decide (k = e) || (s.entry k).inData pr) = some e ↔
      ∀ k : EntryIdx, (s.entry k).inData pr = true → (e - (ptr + 1)).val < (k - (ptr + 1)).val := by
  rw [roundRobin_some]
  simp only [decide_true, Bool.true_or, true_and, Bool.or_eq_true, decide_eq_true_eq]
  constructor
  · intro h k hk
    refine lt_of_le_of_ne (h k (.inr hk)) fun heq => closing_ne_inData hclosing hk ?_
    exact (sub_left_inj.1 (Fin.ext heq)).symm
  · rintro h k (rfl | hk)
    · exact le_rfl
    · exact (h k hk).le

/-- The condition of the model's choice, where `pr` is the highest priority with a member. -/
theorem abortedInPlace_iff (hdata : s.chooseDataClass = some (pr, k)) :
    s.abortedInPlace e pr = true ↔ s.closeWaits e := by
  obtain ⟨hchosen, habove⟩ := chooseDataClass_some hdata
  have hmember : (s.entry k).inData pr = true := (roundRobin_some.1 hchosen).1
  have hothers : (allEntries.all fun k => decide (k = e) || !(s.entry k).inInitiative) = true ↔
      ∀ k : EntryIdx, k ≠ e → (s.entry k).inInitiative = false := by
    simp only [allEntries, List.all_eq_true, List.mem_finRange, true_implies, Bool.or_eq_true, decide_eq_true_eq,
      Bool.not_eq_true', or_iff_not_imp_left, ne_eq]
  unfold State.abortedInPlace State.closeWaits
  rw [Bool.and_eq_true, Bool.and_eq_true, Bool.and_eq_true, hothers, decide_eq_true_eq]
  constructor
  · rintro ⟨⟨⟨haborted, hclosing⟩, hinitiative⟩, hplace⟩
    refine ⟨haborted, hclosing, hinitiative, ⟨pr, k, hmember⟩, ?_⟩
    cases hpriority : (s.entry e).priority with
    | none =>
      rw [hpriority] at hplace
      cases hplace
    | some p =>
      rw [hpriority] at hplace
      simp only [Bool.and_eq_true, decide_eq_true_eq] at hplace
      obtain ⟨hle, hfirst⟩ := hplace
      exact ⟨p, rfl, fun q hq => roundRobin_none.1 (habove q (lt_of_le_of_lt hle hq)), (inPlace_iff hclosing _).1 hfirst⟩
  · rintro ⟨haborted, hclosing, hinitiative, -, p, hpriority, hnone, hfirst⟩
    refine ⟨⟨⟨haborted, hclosing⟩, hinitiative⟩, ?_⟩
    rw [hpriority]
    simp only [Bool.and_eq_true, decide_eq_true_eq]
    refine ⟨le_of_not_gt fun hlt => ?_, (inPlace_iff hclosing _).2 hfirst⟩
    rw [hnone pr hlt k] at hmember
    cases hmember

/-! ### The frame that starts -/

/-- R152, R157: the part with its scheduler and its entries as a choice leaves them, and a frame started. -/
def State.starting (s : State) (sched : Scheduler) (entries : Vector ConnEntry 32) (x : TxRecord) : State :=
  { s with
    entries := entries, sched := { sched with tx := some x }, line := { s.line with receiving := false }
    stats := if s.line.receiving then s.stats.checkError else s.stats }

/-- The record of a frame of an entry (R29, R152). -/
def State.entryTx (s : State) (e : EntryIdx) (kind : FrameKind) (dci seq : Byte) (payload : List Byte)
    (sn : Option Seq) (d : Discharged) : TxRecord where
  origin := .entry e
  frame :=
    { dest := (s.entry e).remoteStation.getD 0, src := s.config.station, kind := kind, dci := dci, sci := byte e.val,
      seq := seq, payload := payload }
  sn := sn
  discharged := d
  detached := false

variable {sched : Scheduler} {entries : Vector ConnEntry 32}

theorem startFrame_starting (o : Origin) (f : Frame) (sn : Option Seq) (d : Discharged) :
    ({ s with sched := sched, entries := entries } : State).startFrame o f sn d =
      s.starting sched entries { origin := o, frame := f, sn := sn, discharged := d, detached := false } :=
  startFrame_eq ..

theorem giveFrame_starting (c : ConnEntry) (f : Frame) (sn : Option Seq) (d : Discharged) :
    ({ s with sched := sched, entries := entries } : State).giveFrame e c f sn d =
      s.starting sched (put entries e c)
        { origin := .entry e, frame := f, sn := sn, discharged := d, detached := false } :=
  startFrame_starting (entries := put entries e c) ..

/-- R27 to R30: a READY or WAIT. -/
theorem giveStatus_starting :
    (s.withSched sched).giveStatus e =
      s.starting sched (put s.entries e (s.entry e).afterStatus)
        (s.entryTx e (if (s.entry e).busy then .wait else .ready) ((s.entry e).remoteIndex.getD 0xFF)
          (seqByte 0 (s.entry e).vr (s.entry e).flags.queryDue (s.entry e).flags.answerOwed) [] none
          (s.entry e).statusDischarge) := giveFrame_starting (entries := s.entries) ..

theorem giveRepeat_starting (h : (s.entry e).flags.repeatDue = true) :
    (s.withSched sched).giveRepeat e =
      s.starting sched
        (put s.entries e { s.entry e with flags := { (s.entry e).flags with repeatDue := false, ackDue := false } })
        (s.entryTx e .rept ((s.entry e).remoteIndex.getD 0xFF) (seqByte 0 (s.entry e).vr false false) [] none
          { ackDue := (s.entry e).flags.ackDue, repeatDue := true }) := by
  rw [← h]
  exact giveFrame_starting (entries := s.entries) ..

/-- R68: an entry that gives a frame and stays as it is. -/
theorem put_entry (s : State) (e : EntryIdx) : put s.entries e (s.entry e) = s.entries := put_look ..

theorem giveAccept_starting :
    (s.withSched sched).giveAccept e =
      s.starting sched s.entries
        (s.entryTx e .accept ((s.entry e).remoteIndex.getD 0xFF) 0 [byte ((s.entry e).window.getD 0)] none {}) :=
  (giveFrame_starting (entries := s.entries) ..).trans (congrArg (s.starting sched · _) (put_entry s e))

theorem giveOpen_starting :
    (s.withSched sched).giveOpen e =
      s.starting sched s.entries
        (s.entryTx e .opening 0xFF 0 [(s.entry e).service.getD 0, byte ((s.entry e).window.getD 0)] none {}) :=
  (giveFrame_starting (entries := s.entries) ..).trans (congrArg (s.starting sched · _) (put_entry s e))

theorem giveClose_starting :
    (s.withSched sched).giveClose e =
      s.starting sched (put s.entries e (s.entry e).settleAbort)
        (s.entryTx e .close ((s.entry e).remoteIndex.getD 0xFF) 0 [] none {}) :=
  giveFrame_starting (entries := s.entries) ..

/-! ### DATA frames -/

theorem takeMarked_none {l : List SentMsg} (h : ∀ m ∈ l, m.needsTx = false) : takeMarked l = none := by
  induction l with
  | nil => rfl
  | cons m l ih =>
    have hm := h m List.mem_cons_self
    rw [takeMarked, if_neg (by rw [hm]; nofun), ih fun k hk => h k (List.mem_cons_of_mem _ hk)]
    rfl

theorem takeMarked_first {front back : List SentMsg} {m : SentMsg} (hm : m.needsTx = true)
    (h : ∀ k ∈ front, k.needsTx = false) :
    takeMarked (front ++ m :: back) = some (m, front ++ { m with needsTx := false } :: back) := by
  induction front with
  | nil => rw [List.nil_append, takeMarked, if_pos hm, List.nil_append]
  | cons k front ih =>
    have hk := h k List.mem_cons_self
    rw [List.cons_append, takeMarked, if_neg (by rw [hk]; nofun), ih fun j hj => h j (List.mem_cons_of_mem _ hj)]
    rfl

/-- R30: the next new message. -/
theorem takeMessage_new {c : ConnEntry} {m : Msg} {rest : List Msg} (h : ∀ k ∈ c.unacked, k.needsTx = false)
    (hqueue : c.sendQueue = m :: rest) :
    c.takeMessage =
      some (m, c.vs,
        { c with
          sendQueue := rest, vs := c.vs + 1
          unacked := c.unacked ++ [{ msg := m, sn := c.vs, needsTx := false }] }) := by
  simp only [ConnEntry.takeMessage, takeMarked_none h, hqueue]

/-- R30: the first marked message. -/
theorem takeMessage_marked {c : ConnEntry} {front back : List SentMsg} {m : SentMsg}
    (hlist : c.unacked = front ++ m :: back) (hm : m.needsTx = true) (h : ∀ k ∈ front, k.needsTx = false) :
    c.takeMessage = some (m.msg, m.sn, { c with unacked := front ++ { m with needsTx := false } :: back }) := by
  simp only [ConnEntry.takeMessage, hlist, takeMarked_first hm h]

theorem not_any_needsTx {l : List SentMsg} (h : ∀ m ∈ l, m.needsTx = false) : l.any (·.needsTx) = false :=
  List.any_eq_false.2 fun m hm => by rw [h m hm]; nofun

theorem bytesAt_zero (pool : Pool) (h : Handle) (n : Nat) :
    pool.bytesAt h 0 n = (List.range n).map fun i => pool.byteAt h i := by
  rw [bytesAt_eq]
  simp only [Nat.zero_add]

/-- R30: the DATA frame of a message taken. -/
theorem giveData_starting {m : Msg} {sn : Seq} {c : ConnEntry} (hentry : look entries e = s.entry e)
    (h : (s.entry e).takeMessage = some (m, sn, c)) {q : Bool} (hq : c.dataQuery = q)
    (hsame : c.vr = (s.entry e).vr ∧ c.flags = (s.entry e).flags) :
    ({ s with sched := sched, entries := entries } : State).giveData e =
      s.starting sched (put entries e c.afterData)
        (s.entryTx e .data ((s.entry e).remoteIndex.getD 0xFF)
          (seqByte sn (s.entry e).vr q (s.entry e).flags.answerOwed)
          ((List.range m.length).map fun i => s.pool.byteAt m.handle i) (some sn)
          { ackDue := (s.entry e).flags.ackDue, answerOwed := (s.entry e).flags.answerOwed }) := by
  obtain ⟨hvr, hflags⟩ := hsame
  have hlook : ({ s with sched := sched, entries := entries } : State).entry e = s.entry e := hentry
  unfold State.giveData
  rw [hlook, h, ← hvr, ← hflags, ← hq, ← bytesAt_zero]
  refine (giveFrame_starting ..).trans ?_
  unfold State.entryFrame State.entryTx
  dsimp only
  rw [hlook]

/-- R29, R30: the DATA frame of the next new message. -/
theorem giveData_new (hentry : look entries e = s.entry e) (hunmarked : ∀ m ∈ (s.entry e).unacked, m.needsTx = false)
    {m : Msg} {rest : List Msg} (hqueue : (s.entry e).sendQueue = m :: rest) :
    ({ s with sched := sched, entries := entries } : State).giveData e =
      s.starting sched
        (put entries e
          { s.entry e with
            sendQueue := rest, vs := (s.entry e).vs + 1
            unacked := (s.entry e).unacked ++ [{ msg := m, sn := (s.entry e).vs, needsTx := false }]
            flags := { (s.entry e).flags with ackDue := false, answerOwed := false } })
        (s.entryTx e .data ((s.entry e).remoteIndex.getD 0xFF)
          (seqByte (s.entry e).vs (s.entry e).vr
            (decide ((s.entry e).window.getD 0 ≤ (s.entry e).unacked.length + 1) || rest.isEmpty)
            (s.entry e).flags.answerOwed)
          ((List.range m.length).map fun i => s.pool.byteAt m.handle i) (some (s.entry e).vs)
          { ackDue := (s.entry e).flags.ackDue, answerOwed := (s.entry e).flags.answerOwed }) := by
  refine giveData_starting hentry (takeMessage_new hunmarked hqueue) ?_ ⟨rfl, rfl⟩
  simp only [ConnEntry.dataQuery, ConnEntry.marked, ConnEntry.windowFilled, ConnEntry.windowSize, List.any_append,
    not_any_needsTx hunmarked, List.any_cons, List.any_nil, List.length_append, List.length_singleton, Bool.or_self,
    Bool.not_false, Bool.true_and]
  rw [Bool.or_comm rest.isEmpty, ← Bool.or_assoc, Bool.or_self]

/-- R29, R30: the DATA frame of the first marked message. -/
theorem giveData_marked (hentry : look entries e = s.entry e) {front back : List SentMsg} {m : SentMsg}
    (hlist : (s.entry e).unacked = front ++ m :: back) (hm : m.needsTx = true) (h : ∀ k ∈ front, k.needsTx = false) :
    ({ s with sched := sched, entries := entries } : State).giveData e =
      s.starting sched
        (put entries e
          { s.entry e with
            unacked := front ++ { m with needsTx := false } :: back
            flags := { (s.entry e).flags with ackDue := false, answerOwed := false } })
        (s.entryTx e .data ((s.entry e).remoteIndex.getD 0xFF)
          (seqByte m.sn (s.entry e).vr
            (decide ((s.entry e).window.getD 0 ≤ (s.entry e).unacked.length) ||
              (!back.any (·.needsTx) && (s.entry e).sendQueue.isEmpty))
            (s.entry e).flags.answerOwed)
          ((List.range m.msg.length).map fun i => s.pool.byteAt m.msg.handle i) (some m.sn)
          { ackDue := (s.entry e).flags.ackDue, answerOwed := (s.entry e).flags.answerOwed }) := by
  refine giveData_starting hentry (takeMessage_marked hlist hm h) ?_ ⟨rfl, rfl⟩
  simp only [ConnEntry.dataQuery, ConnEntry.marked, ConnEntry.windowFilled, ConnEntry.windowSize, hlist,
    List.any_append, not_any_needsTx h, List.any_cons, List.length_append, List.length_cons, Bool.false_or]
  cases decide ((s.entry e).window.getD 0 ≤ front.length + (back.length + 1)) <;> simp

/-! ### What an entry gives -/

section
variable {u : State}

theorem giveResponse_accept (h : (u.entry e).controlDue = .sendAccept) : u.giveResponse e = u.giveAccept e := by
  simp only [State.giveResponse, h, if_true]

theorem giveResponse_repeat (h : (u.entry e).controlDue ≠ .sendAccept) (hrepeat : (u.entry e).flags.repeatDue = true) :
    u.giveResponse e = u.giveRepeat e := by
  simp only [State.giveResponse, if_neg h, hrepeat, if_true]

theorem giveResponse_status (h : (u.entry e).controlDue ≠ .sendAccept) (hrepeat : (u.entry e).flags.repeatDue = false)
    (hstatus : (u.entry e).flags.statusDue = true ∨ (u.entry e).eligible = false ∨ (u.entry e).busy = true) :
    u.giveResponse e = u.giveStatus e := by
  simp only [State.giveResponse, if_neg h, hrepeat, Bool.false_eq_true, if_false]
  rcases hstatus with hstatus | hno | hbusy
  · rw [if_pos hstatus]
  · simp only [hno, Bool.false_and, Bool.false_eq_true, if_false, ite_self]
  · simp only [hbusy, Bool.not_true, Bool.and_false, Bool.false_eq_true, if_false, ite_self]

theorem giveResponse_data (h : (u.entry e).controlDue ≠ .sendAccept) (hrepeat : (u.entry e).flags.repeatDue = false)
    (hstatus : (u.entry e).flags.statusDue = false) (heligible : (u.entry e).eligible = true)
    (hbusy : (u.entry e).busy = false) : u.giveResponse e = u.giveData e := by
  simp only [State.giveResponse, if_neg h, hrepeat, hstatus, heligible, hbusy, Bool.not_false, Bool.and_self,
    Bool.false_eq_true, if_false, if_true]

theorem giveInitiative_opening (h : (u.entry e).state = .opening) : u.giveInitiative e = u.giveOpen e := by
  simp only [State.giveInitiative, h]

theorem giveInitiative_closing (h : (u.entry e).state = .closing) : u.giveInitiative e = u.giveClose e := by
  simp only [State.giveInitiative, h]

theorem giveInitiative_live (h : (u.entry e).state = .opened ∨ (u.entry e).state = .draining) :
    u.giveInitiative e = u.giveStatus e := by
  rcases h with h | h <;> simp only [State.giveInitiative, h]

end

/-- R145: there is work when a class has a member. -/
theorem hasWork_iff (s : State) :
    s.hasWork = true ↔
      s.sched.strays ≠ [] ∨ ∃ e : EntryIdx,
        (s.entry e).inResponse = true ∨ (s.entry e).inInitiative = true ∨ ∃ pr : Fin 4, (s.entry e).inData pr = true := by
  rw [← not_iff_not, Bool.not_eq_true, hasWork_false_iff]
  simp only [wants_false_iff, not_or, not_exists, Bool.not_eq_true, ne_eq, not_not]

theorem idle_not_hasWork (hstrays : s.sched.strays = []) (hresponse : ∀ e, (s.entry e).inResponse = false)
    (hinitiative : ∀ e, (s.entry e).inInitiative = false) (hdata : ∀ pr e, (s.entry e).inData pr = false) :
    s.choose = none :=
  Option.not_isSome_iff_eq_none.1 (Bool.not_eq_true _ ▸ hasWork_false_iff.2 ⟨hstrays, fun e =>
    wants_false_iff.2 ⟨hresponse e, hinitiative e, fun pr => hdata pr e⟩⟩)

/-- R127, R133: a scheduler that is offered the line and has nothing to send. -/
theorem schedule_idle (ho : s.offered = true) (hnone : s.choose = none) :
    s.schedule = if s.turn.list.any (·.present) then s.endTurn else s := by
  simp only [State.schedule, ho, if_true, hnone, TurnController.sole, Bool.not_eq_true']
  by_cases hpresent : s.turn.list.any (·.present) = true
  · rw [if_pos hpresent, if_neg (by rw [hpresent]; nofun)]
  · rw [if_neg hpresent, if_pos (Bool.eq_false_iff.2 hpresent)]

/-- Settles O52: the classes, the choice from the first that has a member (`choose_stray` to `abortedInPlace_iff`), and
the frame that the choice starts. -/
theorem schedulerChoosesByClass : Obligations.SchedulerChoosesByClass := by
  refine ⟨fun c => ⟨inResponse_iff c, inInitiative_iff c, eligible_iff c, inData_iff c, busy_iff c⟩, rfl,
    seqByte_toNat, fun s => ⟨?_, hasWork_iff s, ?_⟩, fun s => rfl, fun s => ?_⟩
  · rw [offered_iff, Option.isSome_iff_ne_none]
  · rw [sole_iff, List.any_eq_false]
    simp only [Bool.not_eq_true]
  intro offered first starts noResponse noInitiative noData idle entryTx peer waits status newData markedData
  have hoffer : offered → s.offered = true := fun ⟨hengine, htx, hbudget, hhold⟩ =>
    offered_iff.2 ⟨hengine, htx, hbudget, Option.isSome_iff_ne_none.2 hhold⟩
  refine ⟨fun hno => ?_, fun ho hidle => ?_, fun ho x rest hx => ?_, fun ho hstrays e he => ?_,
    fun ho hstrays hresponse e he => ?_, fun ho hstrays hresponse hinitiative pr e habove he => ?_⟩
  · have hquiet : s.offered = false := Bool.eq_false_iff.2 fun h => hno (by
      obtain ⟨hengine, htx, hbudget, hhold⟩ := offered_iff.1 h
      exact ⟨hengine, htx, hbudget, Option.isSome_iff_ne_none.1 hhold⟩)
    exact congrArg _ (schedule_quiet hquiet)
  · obtain ⟨hstrays, hresponse, hinitiative, hdata⟩ := hidle
    exact congrArg _ (schedule_idle (hoffer ho) (idle_not_hasWork hstrays hresponse hinitiative hdata))
  · exact congrArg _ ((schedule_choice (hoffer ho) (choose_stray hx)).trans (startFrame_starting (entries := s.entries) ..))
  · have hchoice := schedule_choice (hoffer ho) (choose_response hstrays (chooseResponse_first he))
    refine ⟨fun hdue => ?_, fun hdue hrepeat => ?_, fun hdue hrepeat hstatus => ?_,
      fun hdue hrepeat hstatus heligible hbusy => ⟨fun hunmarked m rest hqueue => ?_,
        fun front back m hlist hm hfront => ?_⟩⟩
    · exact congrArg _ (hchoice.trans ((giveResponse_accept (u := s.withSched (s.sched.moveTo (.response e))) hdue).trans giveAccept_starting))
    · exact congrArg _ (hchoice.trans ((giveResponse_repeat (u := s.withSched (s.sched.moveTo (.response e))) hdue hrepeat).trans (giveRepeat_starting hrepeat)))
    · exact congrArg _ (hchoice.trans ((giveResponse_status (u := s.withSched (s.sched.moveTo (.response e))) hdue hrepeat hstatus).trans giveStatus_starting))
    · exact congrArg _ (hchoice.trans ((giveResponse_data (u := s.withSched (s.sched.moveTo (.response e))) hdue hrepeat hstatus heligible hbusy).trans
        (giveData_new (entries := s.entries) rfl hunmarked hqueue)))
    · exact congrArg _ (hchoice.trans ((giveResponse_data (u := s.withSched (s.sched.moveTo (.response e))) hdue hrepeat hstatus heligible hbusy).trans
        (giveData_marked (entries := s.entries) rfl hlist hm hfront)))
  · have hchosen := chooseInitiative_first he
    have hunprompted := choose_unprompted hstrays (chooseResponse_none hresponse)
    have hgives : (waits e → Config.abortedCloseWaits = false) →
        s.schedule = s.startChoice (.initiative e) := fun hstays =>
      schedule_choice (hoffer ho) (hunprompted.trans (chooseUnprompted_initiative hchosen fun q k hdata haborted =>
        hstays ((abortedInPlace_iff hdata).1 haborted)))
    refine ⟨fun hstate => ?_, fun hstate hstays => ?_, fun hwaits hfree pr k habove hk => ?_, fun hstate => ?_⟩
    · have hchoice := hgives fun hw => absurd (hw.2.1.symm.trans hstate) nofun
      exact congrArg _ (hchoice.trans ((giveInitiative_opening (u := s.withSched (s.sched.moveTo (.initiative e))) hstate).trans giveOpen_starting))
    · exact congrArg _ ((hgives hstays).trans ((giveInitiative_closing (u := s.withSched (s.sched.moveTo (.initiative e))) hstate).trans giveClose_starting))
    · have hdata := chooseDataClass_first habove hk
      have hchoice := schedule_choice (hoffer ho) (hunprompted.trans
        (chooseUnprompted_passing hchosen hdata ((abortedInPlace_iff hdata).2 hwaits) hfree))
      have hentry : look (put s.entries e (s.entry e).settleAbort) k = s.entry k :=
        look_put_other _ _ (closing_ne_inData hwaits.2.1 hk.1).symm
      exact ⟨fun hunmarked m rest hqueue => congrArg _ (hchoice.trans (giveData_new hentry hunmarked hqueue)),
        fun front back m hlist hm hfront => congrArg _ (hchoice.trans (giveData_marked hentry hlist hm hfront))⟩
    · have hchoice := hgives fun hw => by
        rw [hw.2.1] at hstate
        simp at hstate
      exact congrArg _ (hchoice.trans ((giveInitiative_live (u := s.withSched (s.sched.moveTo (.initiative e))) hstate).trans giveStatus_starting))
  · have hchoice := schedule_choice (hoffer ho) ((choose_unprompted hstrays (chooseResponse_none hresponse)).trans
      (chooseUnprompted_data (chooseInitiative_none hinitiative) (chooseDataClass_first habove he)))
    exact ⟨fun hunmarked m rest hqueue =>
        congrArg _ (hchoice.trans (giveData_new (entries := s.entries) rfl hunmarked hqueue)),
      fun front back m hlist hm hfront =>
        congrArg _ (hchoice.trans (giveData_marked (entries := s.entries) rfl hlist hm hfront))⟩

end Sys2Proof.Machine
end

section
/-! The expiries of the timers, and the tick of the time base. -/

namespace Sys2Proof.Machine

variable {s : State} {e : EntryIdx}

/-! ### Answer timers -/

theorem exhausted_iff (c : ConnEntry) : c.exhausted = true ↔ c.retryLimit = some c.retryCount := decide_eq_true_iff

theorem answerExpiry_stopped (h : (s.entry e).answerTimer = none) : s.answerExpiry e = s := by
  simp only [State.answerExpiry, h, Option.isNone_none, if_true]

section
variable (hruns : (s.entry e).answerTimer ≠ none)
include hruns

/-- R45: the expiry of a running timer, by the state. -/
theorem answerExpiry_running :
    s.answerExpiry e =
      match (s.entry e).state with
      | .opening =>
        if (s.entry e).exhausted then s.endEntry e .noAnswer
        else (s.setEntry e { (s.entry e).retry with controlDue := .sendOpen }).schedule
      | .opened | .draining =>
        if (s.entry e).exhausted then s.endEntry e .noAnswer
        else
          (s.setEntry e
            { (s.entry e).retry with flags := { (s.entry e).flags with queryDue := true } }).schedule
      | .closing =>
        if (s.entry e).exhausted then s.endCloseExchange e true
        else (s.setEntry e { (s.entry e).retry with controlDue := .sendClose }).schedule
      | .ended | .free => s := by
  have hsome : (s.entry e).answerTimer.isNone = false := Option.isNone_eq_false_iff.2 (Option.isSome_iff_ne_none.2 hruns)
  rw [State.answerExpiry, hsome]
  cases (s.entry e).state <;> rfl

theorem answerExpiry_ends (hstate : (s.entry e).state = .opening ∨ (s.entry e).state = .opened ∨ (s.entry e).state = .draining)
    (hspent : (s.entry e).exhausted = true) : s.answerExpiry e = s.endEntry e .noAnswer := by
  rw [answerExpiry_running hruns]
  rcases hstate with h | h | h <;> simp only [h, hspent, if_true]

theorem answerExpiry_endsExchange (hstate : (s.entry e).state = .closing) (hspent : (s.entry e).exhausted = true) :
    s.answerExpiry e = s.endCloseExchange e true := by
  rw [answerExpiry_running hruns]
  simp only [hstate, hspent, if_true]

theorem answerExpiry_open (hstate : (s.entry e).state = .opening) (hspent : ¬ (s.entry e).exhausted = true) :
    s.answerExpiry e = (s.setEntry e { (s.entry e).retry with controlDue := .sendOpen }).schedule := by
  rw [answerExpiry_running hruns]
  simp only [hstate, if_neg hspent]

theorem answerExpiry_close (hstate : (s.entry e).state = .closing) (hspent : ¬ (s.entry e).exhausted = true) :
    s.answerExpiry e = (s.setEntry e { (s.entry e).retry with controlDue := .sendClose }).schedule := by
  rw [answerExpiry_running hruns]
  simp only [hstate, if_neg hspent]

theorem answerExpiry_query (hstate : (s.entry e).state = .opened ∨ (s.entry e).state = .draining)
    (hspent : ¬ (s.entry e).exhausted = true) :
    s.answerExpiry e =
      (s.setEntry e { (s.entry e).retry with flags := { (s.entry e).flags with queryDue := true } }).schedule := by
  rw [answerExpiry_running hruns]
  rcases hstate with h | h <;> simp only [h, if_neg hspent]

end

/-- Settles O49. -/
theorem answerTimerExpires : Obligations.AnswerTimerExpires := by
  intro s e
  dsimp only
  rw [← exhausted_iff]
  exact ⟨fun h => congrArg _ (answerExpiry_stopped h), fun hruns =>
    ⟨fun hstate hspent => congrArg _ (answerExpiry_ends hruns hstate hspent),
      fun hstate hspent => congrArg _ (answerExpiry_endsExchange hruns hstate hspent),
      fun hstate hspent => congrArg _ (answerExpiry_open hruns hstate hspent),
      fun hstate hspent => congrArg _ (answerExpiry_close hruns hstate hspent),
      fun hstate hspent => congrArg _ (answerExpiry_query hruns hstate hspent)⟩⟩

/-! ### Line timers -/

theorem lostExpiry_claims (hengine : s.turn.engine = .waiting) (hruns : s.turn.lostTimer ≠ none) :
    s.lostExpiry = (s.beginTurn.lineEvent .claimed).schedule := by
  simp [State.lostExpiry, hengine, Option.isSome_iff_ne_none.2 hruns]

theorem lostExpiry_none (h : s.turn.engine ≠ .waiting ∨ s.turn.lostTimer = none) : s.lostExpiry = s := by
  rcases h with h | h <;> simp [State.lostExpiry, h]

theorem holdExpiry_none (h : s.turn.engine ≠ .holding ∨ s.turn.holdTimer = none) : s.holdExpiry = s := by
  rcases h with h | h <;> simp [State.holdExpiry, h]

theorem responseExpiry_none (h : s.turn.engine ≠ .handing ∨ s.turn.responseTimer = none) : s.responseExpiry = s := by
  rcases h with h | h <;> simp [State.responseExpiry, h]

theorem successor_sole_iff {t : TurnController} {own : Byte} : t.sole = true ↔ t.successor own = none := by
  rw [successor_none, List.eq_nil_iff_forall_not_mem, sole_iff, List.any_eq_false]
  simp only [mem_addresses, not_exists, not_and, Bool.not_eq_true]
  exact ⟨fun h a x hx _ => h x hx, fun h x hx => h x.address x hx rfl⟩

section
variable (hengine : s.turn.engine = .holding) (hruns : s.turn.holdTimer ≠ none)
include hengine hruns

/-- R127, R133: the hold timer of a turn. -/
theorem holdExpiry_holding :
    s.holdExpiry =
      if s.sched.tx.isSome then s.withTurn { s.turn with holdTimer := none }
      else if s.turn.sole then (s.withTurn { s.turn with holdTimer := none }).renewSoleTurn.schedule
      else (s.withTurn { s.turn with holdTimer := none }).endTurn := by
  have hboth : (decide (s.turn.engine = .holding) && s.turn.holdTimer.isSome) = true := by
    simp [hengine, Option.isSome_iff_ne_none.2 hruns]
  rw [State.holdExpiry, if_pos hboth]
  rfl

theorem holdExpiry_sending (htx : s.sched.tx ≠ none) : s.holdExpiry = s.withTurn { s.turn with holdTimer := none } := by
  rw [holdExpiry_holding hengine hruns, if_pos (Option.isSome_iff_ne_none.2 htx)]

theorem holdExpiry_ends (htx : s.sched.tx = none) (hsole : ¬ s.turn.sole = true) :
    s.holdExpiry = (s.withTurn { s.turn with holdTimer := none }).endTurn := by
  rw [holdExpiry_holding hengine hruns, if_neg (by rw [htx]; nofun), if_neg hsole]

theorem holdExpiry_sole (htx : s.sched.tx = none) (hsole : s.turn.sole = true) :
    s.holdExpiry = (s.withTurn { s.turn with holdTimer := none }).renewSoleTurn.schedule := by
  rw [holdExpiry_holding hengine hruns, if_neg (by rw [htx]; nofun), if_pos hsole]

end

/-- R128: a handover has the line, so that the scheduler is not offered it. -/
theorem schedule_beginHandover (s : State) (k : HandoverKind) (a : Byte) :
    (s.beginHandover k a).schedule = s.beginHandover k a :=
  schedule_quiet (Bool.eq_false_iff.2 fun h => by
    have := (offered_iff.1 h).1.symm.trans (beginHandover_fields s k a).1
    cases this)

theorem schedule_beginProbe (s : State) (a : Byte) : (s.beginProbe a).schedule = s.beginProbe a :=
  schedule_beginHandover ..

section
variable {a : Byte}

theorem afterFailure_successor {announce : Bool} (h : s.turn.successor s.config.station = some a) :
    s.afterFailure announce = s.beginHandover .normal a := by
  simp only [State.afterFailure, h]

theorem afterFailure_sole {announce : Bool} (h : s.turn.list.any (·.present) = false) :
    s.afterFailure announce = (if announce then s.beginSoleTurn.lineEvent .sole else s.beginSoleTurn).schedule := by
  simp only [State.afterFailure, successor_sole_iff.1 (sole_iff.2 h)]

/-- R131: the failure of a handover to a station of the list. -/
theorem handoverFails_known (h : s.turn.knows a = true) :
    s.handoverFails a =
      (((s.withTurn (s.turn.mark a false)).lineEvent (.stationSilent a)).withStats
        s.stats.handoverFailure).afterFailure true := by
  rw [State.handoverFails, if_pos h]
  rfl

/-- R131: the failure of a handover to a station whose record was removed. -/
theorem handoverFails_unknown (h : s.turn.knows a = false) :
    s.handoverFails a = (s.withStats s.stats.handoverFailure).afterFailure true := by
  rw [State.handoverFails, if_neg (by rw [h]; nofun)]

theorem knows_false_iff {t : TurnController} : t.knows a = false ↔ ∀ x ∈ t.list, x.address ≠ a := by
  simp [TurnController.knows]

variable (hengine : s.turn.engine = .handing) (hruns : s.turn.responseTimer ≠ none)
include hengine hruns

theorem responseExpiry_handing :
    s.responseExpiry =
      match s.turn.kind, s.turn.target with
      | some .probe, _ => (s.withTurn { s.turn with responseTimer := none }).afterFailure false
      | some .normal, some a =>
        if s.turn.attempt = some 1 then
          (s.withTurn { s.turn with responseTimer := none, attempt := some 2 }).sendTurn a
        else (s.withTurn { s.turn with responseTimer := none }).handoverFails a
      | _, _ => s.withTurn { s.turn with responseTimer := none } := by
  have hboth : (decide (s.turn.engine = .handing) && s.turn.responseTimer.isSome) = true := by
    simp [hengine, Option.isSome_iff_ne_none.2 hruns]
  rw [State.responseExpiry, if_pos hboth]
  rfl

theorem responseExpiry_probe (hkind : s.turn.kind = some .probe) :
    s.responseExpiry = (s.withTurn { s.turn with responseTimer := none }).afterFailure false := by
  rw [responseExpiry_handing hengine hruns, hkind]

theorem responseExpiry_again (hkind : s.turn.kind = some .normal) (htarget : s.turn.target = some a)
    (hattempt : s.turn.attempt = some 1) :
    s.responseExpiry = (s.withTurn { s.turn with responseTimer := none, attempt := some 2 }).sendTurn a := by
  rw [responseExpiry_handing hengine hruns, hkind, htarget]
  exact if_pos hattempt

theorem responseExpiry_fails (hkind : s.turn.kind = some .normal) (htarget : s.turn.target = some a)
    (hattempt : s.turn.attempt = some 2) :
    s.responseExpiry = (s.withTurn { s.turn with responseTimer := none }).handoverFails a := by
  rw [responseExpiry_handing hengine hruns, hkind, htarget]
  exact if_neg (by rw [hattempt]; decide)

end

/-! ### The tick -/

theorem runsOut_iff (t : Option Nat) : runsOut t = true ↔ ∃ n, t = some n ∧ n ≤ 10 := by
  cases t with
  | none => simp [runsOut]
  | some n =>
    simp only [runsOut, Option.some.injEq, exists_eq_left']
    exact decide_eq_true_iff

theorem entryRunsOut_iff (c : ConnEntry) :
    c.runsOut = true ↔ (∃ n, c.answerTimer = some n ∧ n ≤ 1) ∧ 99 ≤ c.answerPhase := by
  unfold ConnEntry.runsOut
  cases c.answerTimer with
  | none => simp
  | some n => simp [Config.ticksPerMs]

theorem tick_eq (c : ConnEntry) :
    c.tick =
      match c.answerTimer with
      | none => c
      | some n =>
        if n ≤ 1 ∧ 99 ≤ c.answerPhase then c
        else if c.answerPhase < 99 then { c with answerPhase := c.answerPhase + 1 }
        else { c with answerTimer := some (n - 1), answerPhase := 0 } := by
  unfold ConnEntry.tick
  cases htimer : c.answerTimer with
  | none => rfl
  | some n =>
    have hout : c.runsOut = true ↔ n ≤ 1 ∧ 99 ≤ c.answerPhase := by simp [entryRunsOut_iff, htimer]
    have hphase : c.answerPhase + 1 < Config.ticksPerMs ↔ c.answerPhase < 99 := Nat.succ_lt_succ_iff (b := 99)
    dsimp only
    simp only [hout, hphase]

/-- The part after the expiry of the lost timer at a tick. -/
def State.tickLost (s : State) : State := if runsOut s.turn.lostTimer then s.countDown.lostExpiry else s.countDown

/-- And of the hold timer. -/
def State.tickHold (s : State) : State := if runsOut s.turn.holdTimer then s.tickLost.holdExpiry else s.tickLost

/-- And of the turn response timer. -/
def State.tickResponse (s : State) : State :=
  if runsOut s.turn.responseTimer then s.tickHold.responseExpiry else s.tickHold

/-- The part after the first expiries of a tick: the three line timers, then answer timers by index. -/
def State.tickRun (s : State) : Nat → State
  | 0 => s.countDown
  | 1 => s.tickLost
  | 2 => s.tickHold
  | k + 3 =>
    (allEntries.take k).foldl (fun u e => if (s.entry e).runsOut then u.answerExpiry e else u) s.tickResponse

theorem take_succ_allEntries (e : EntryIdx) : allEntries.take (e.val + 1) = allEntries.take e.val ++ [e] := by
  have hlength : e.val < allEntries.length := by simp [allEntries]
  rw [List.take_succ_eq_append_getElem hlength]
  simp [allEntries]

theorem tickRun_answer (s : State) (e : EntryIdx) :
    s.tickRun (4 + e.val) =
      if (s.entry e).runsOut then (s.tickRun (3 + e.val)).answerExpiry e else s.tickRun (3 + e.val) := by
  rw [show 4 + e.val = (e.val + 1) + 3 by omega, show 3 + e.val = e.val + 3 by omega]
  simp only [State.tickRun, take_succ_allEntries, List.foldl_append, List.foldl_cons, List.foldl_nil]

theorem tickRun_all (s : State) : s.tick = s.tickRun 35 := by
  have hall : allEntries.take 32 = allEntries := List.take_of_length_le (by simp [allEntries])
  simp only [State.tickRun, hall]
  rfl

/-- Settles O50. -/
theorem lineTimersExpire : Obligations.LineTimersExpire := by
  refine ⟨fun s => ?_, fun s => ?_⟩
  · have hstep : ∀ {b : Bool} {p : Prop} {i : Instr} {t u v : State}, (b = true ↔ p) → exec i t = .next v →
        (u = if b then v else t) → (p → exec i t = .next u) ∧ (¬ p → u = t) := by
      intro b p i t u v hb hexec hu
      subst hu
      exact ⟨fun hp => by rw [if_pos (hb.2 hp)]; exact hexec, fun hp => if_neg (mt hb.1 hp)⟩
    refine ⟨s.tickRun, ?_, hstep (runsOut_iff _) rfl rfl, hstep (runsOut_iff _) rfl rfl, hstep (runsOut_iff _) rfl rfl,
      fun e => hstep (entryRunsOut_iff _) rfl (tickRun_answer s e), tickRun_all s⟩
    have hticks : ConnEntry.tick = _ := funext tick_eq
    show s.countDown = _
    rw [State.countDown, hticks]
    rfl
  · dsimp only
    refine ⟨fun hengine hruns => congrArg _ (lostExpiry_claims hengine hruns), fun h => congrArg _ (lostExpiry_none h),
      fun h => congrArg _ (holdExpiry_none h), fun h => congrArg _ (responseExpiry_none h), fun hengine hruns =>
        ⟨fun htx => congrArg _ (holdExpiry_sending hengine hruns htx), fun htx hsole => ?_, fun htx hsole hnone => ?_,
          fun htx hsole a ha => ?_⟩, fun hengine hruns => ⟨fun a hkind htarget hattempt =>
            congrArg _ (responseExpiry_again hengine hruns hkind htarget hattempt), ?_, ?_, ?_, ?_⟩⟩
    · exact congrArg _ (holdExpiry_ends hengine hruns htx fun h => hsole (sole_iff.1 h))
    · refine congrArg _ ((holdExpiry_sole hengine hruns htx (sole_iff.2 hsole)).trans ?_)
      rw [renewSoleTurn_renewal (s := s.withTurn { s.turn with holdTimer := none }) hnone]
      rfl
    · refine congrArg _ ((holdExpiry_sole hengine hruns htx (sole_iff.2 hsole)).trans ?_)
      rw [renewSoleTurn_probe (s := s.withTurn { s.turn with holdTimer := none }) ha, schedule_beginProbe]
      rfl
    · intro a b hkind htarget hattempt hlisted
      have hknown : s.turn.knows a = true := Bool.not_eq_false _ ▸ mt knows_false_iff.1 (by simpa using hlisted)
      have hfails := (responseExpiry_fails hengine hruns hkind htarget hattempt).trans
        (handoverFails_known (s := s.withTurn { s.turn with responseTimer := none }) hknown)
      exact ⟨fun hb => congrArg _ (hfails.trans (afterFailure_successor hb)),
        fun hsole => congrArg _ (hfails.trans (afterFailure_sole hsole))⟩
    · intro a b hkind htarget hattempt hlisted
      have hfails := (responseExpiry_fails hengine hruns hkind htarget hattempt).trans
        (handoverFails_unknown (s := s.withTurn { s.turn with responseTimer := none }) (knows_false_iff.2 hlisted))
      exact ⟨fun hb => congrArg _ (hfails.trans (afterFailure_successor hb)),
        fun hsole => congrArg _ (hfails.trans (afterFailure_sole hsole))⟩
    · exact fun b hkind hb => congrArg _ ((responseExpiry_probe hengine hruns hkind).trans (afterFailure_successor hb))
    · exact fun hkind hsole => congrArg _ ((responseExpiry_probe hengine hruns hkind).trans (afterFailure_sole hsole))

end Sys2Proof.Machine
end

section
/-! A frame in transmission: what leaves it on the line. With a frame in transmission the scheduler is not offered the
line and the part receives nothing, so that a command can at most detach it. -/

namespace Sys2Proof.Machine

/-- A part that transmits, with the turn response timer stopped, has the same frame on the line afterwards. -/
structure Steady (s t : State) : Prop where
  of_sending : s.sched.tx ≠ none → s.turn.responseTimer = none →
    t.sched.tx.map (·.frame) = s.sched.tx.map (·.frame) ∧ t.resetLow = s.resetLow ∧ t.turn.responseTimer = none

variable {s : State} {p : Port} {e : EntryIdx}

theorem Steady.rfl : Steady s s := ⟨fun _ h => ⟨Eq.refl _, Eq.refl _, h⟩⟩

theorem Steady.trans {t u : State} (h : Steady s t) (k : Steady t u) : Steady s u := by
  refine ⟨fun htx hresponse => ?_⟩
  obtain ⟨hframe, hreset, hstopped⟩ := h.of_sending htx hresponse
  have hsome : t.sched.tx ≠ none := fun hnone => htx (by
    rw [hnone, Option.map_none] at hframe
    exact Option.map_eq_none_iff.1 hframe.symm)
  obtain ⟨hframe', hreset', hstopped'⟩ := k.of_sending hsome hstopped
  exact ⟨hframe'.trans hframe, hreset'.trans hreset, hstopped'⟩

theorem Steady.of_eq {t : State} (htx : t.sched.tx.map (·.frame) = s.sched.tx.map (·.frame))
    (hreset : t.resetLow = s.resetLow) (hturn : t.turn.responseTimer = s.turn.responseTimer) : Steady s t :=
  ⟨fun _ h => ⟨htx, hreset, hturn.trans h⟩⟩

theorem Aside.steady {t : State} (h : Aside s t) : Steady s t := .of_eq (by rw [h.sched]) h.resetLow (by rw [h.turn])

/-- What does not happen while the part transmits. -/
theorem Steady.of_unsent {t : State} (h : s.sched.tx ≠ none → t = s) : Steady s t :=
  ⟨fun htx hresponse => by rw [h htx]; exact ⟨Eq.refl _, Eq.refl _, hresponse⟩⟩

theorem Steady.ite {P : Prop} [Decidable P] {t u : State} (ht : P → Steady s t) (hu : ¬ P → Steady s u) :
    Steady s (if P then t else u) := by
  split
  · next h => exact ht h
  · next h => exact hu h

theorem foldl_steady {α : Type} {f : State → α → State} (h : ∀ s a, Steady s (f s a)) (xs : List α) (s : State) :
    Steady s (xs.foldl f s) := by
  induction xs generalizing s with
  | nil => exact .rfl
  | cons x xs ih => exact (h s x).trans (ih (f s x))

theorem schedule_sending (htx : s.sched.tx ≠ none) : s.schedule = s :=
  schedule_quiet (Bool.eq_false_iff.2 fun h => htx (offered_iff.1 h).2.1)

theorem schedule_steady : Steady s s.schedule := .of_unsent schedule_sending

theorem setPort_steady (ps : PortState) : Steady s (s.setPort p ps) := (setPort_aside s p ps).steady

theorem setEntry_steady (c : ConnEntry) : Steady s (s.setEntry e c) := (setEntry_aside s e c).steady

theorem withPool_steady (pool : Pool) : Steady s (s.withPool pool) := .of_eq rfl rfl rfl

theorem detachFrom_frame (e : EntryIdx) (x : TxRecord) : (x.detachFrom e).frame = x.frame := by
  unfold TxRecord.detachFrom
  split <;> rfl

theorem freeEntry_steady (e : EntryIdx) : Steady s (s.freeEntry e) :=
  .of_eq (by rw [freeEntry_eq]; simp [Function.comp_def, detachFrom_frame]) rfl rfl

theorem closedEvent_steady (owner : Option Port) (b : Bool) : Steady s (s.closedEvent owner e b) := by
  unfold State.closedEvent
  split
  · exact setPort_steady _
  · exact .rfl

theorem endCloseExchange_steady (b : Bool) : Steady s (s.endCloseExchange e b) := by
  unfold State.endCloseExchange
  dsimp only
  exact .ite (fun _ => freeEntry_steady e) fun _ =>
    .ite (fun _ => (freeEntry_steady e).trans (closedEvent_steady _ _)) fun _ => setEntry_steady _

/-! ### The port reset -/

theorem resetEntry_steady (p : Port) (e : EntryIdx) : Steady s (s.resetEntry p e) := by
  have hgive : ∀ d hs, Steady s ((s.setEntry e d).releaseAll p hs) := fun d hs =>
    (setEntry_steady d).trans (releaseAll_aside _ p hs).steady
  unfold State.resetEntry
  dsimp only
  refine .ite (fun _ => ?_) fun _ => .rfl
  split
  · exact .rfl
  · exact freeEntry_steady e
  · exact hgive _ _
  · exact hgive _ _
  · exact .ite (fun _ => (hgive _ _).trans (freeEntry_steady e)) fun _ => hgive _ _
  · exact .ite (fun _ => (hgive _ _).trans (freeEntry_steady e)) fun _ => hgive _ _

theorem portReset_steady (p : Port) : Steady s (s.portReset p) := by
  have hlisten : Steady s (s.resetListen p) := .of_eq rfl rfl rfl
  have hentries : ∀ t, Steady t (t.resetEntries p) := foldl_steady (fun _ e => resetEntry_steady p e) allEntries
  have hqueue : ∀ t : State, Steady t (t.resetQueue p) := fun t =>
    (setPort_steady _).trans (releaseAll_aside _ p _).steady
  have hheld : ∀ t : State, Steady t (t.resetHeld p) := fun t =>
    (withPool_steady _).trans (releaseAll_aside _ p _).steady
  have hright : ∀ t : State, Steady t { t with config := t.config.dropRight p } := fun t => .of_eq rfl rfl rfl
  have hports : Steady s
      (((((s.resetListen p).resetEntries p).resetQueue p).resetHeld p).modPort p PortState.resetTransaction) :=
    (((hlisten.trans (hentries _)).trans (hqueue _)).trans (hheld _)).trans (setPort_steady _)
  exact hports.trans (hright _)

/-! ### Host transactions -/

theorem Admitted.steady {t : State} (h : Admitted s p t) : Steady s t := by
  refine .of_eq ?_ (by rw [h.rest]) (by rw [h.rest])
  have hline := congrArg (Option.map (·.frame)) h.line
  rwa [Option.map_map, Option.map_map] at hline

theorem runArbiter_steady (p : Port) : Steady s (s.runArbiter p) := (admitRun_admitted s p Config.queueRoom).steady

theorem transact_steady {sdi : List Bool} {taken : State → State} (h : ∀ t, Steady t (taken t)) :
    Steady s (s.transact p sdi taken) := by
  unfold State.transact
  dsimp only
  exact .ite (fun _ => .rfl) fun _ => (setPort_steady _).trans
    (.ite (fun _ => ((setPort_steady _).trans (h _)).trans (setPort_steady _)) fun _ =>
      (setPort_steady _).trans (setPort_steady _))

theorem answer_steady {r : Req} {surplus : Bool} {handle : State → Answer} (h : ∀ t, Steady t (handle t).after) :
    Steady s (s.answer r surplus handle) := by
  unfold State.answer
  dsimp only
  refine Steady.trans ?_ (setPort_steady _)
  split
  · exact .rfl
  · exact h s

theorem request_steady {r : Req} {code : Byte} {args : List Byte} {handle : State → Answer}
    (h : ∀ t, Steady t (handle t).after) : Steady s (s.request r code args handle) :=
  transact_steady fun _ => answer_steady h

theorem requestWithData_steady {r : Req} {code : Byte} {args : List Byte} {handle : State → Answer}
    (h : ∀ t, Steady t (handle t).after) : Steady s (s.requestWithData r code args handle) :=
  transact_steady fun _ => answer_steady h

theorem answerBufGet_steady : Steady s (answerBufGet p s).after := by
  unfold answerBufGet
  split
  · exact withPool_steady _
  · exact .rfl

theorem answerBufPut_steady (handle : Byte) : Steady s (answerBufPut p handle s).after := by
  unfold answerBufPut
  split
  · exact .rfl
  · split
    · exact ((withPool_steady _).trans (release_aside _ p _).steady).trans schedule_steady
    · exact .rfl

theorem answerBufWrite_steady (handle offset count : Byte) (data : List Byte) :
    Steady s (answerBufWrite p handle offset count data s).after := by
  unfold answerBufWrite
  split
  · exact .rfl
  · split
    · exact .rfl
    · split
      · exact withPool_steady _
      · exact .rfl

theorem answerBufRead_steady (handle offset count : Byte) : Steady s (answerBufRead p handle offset count s).after := by
  unfold answerBufRead
  split
  · exact .rfl
  · split
    · exact .rfl
    · split <;> exact .rfl

theorem answerCfgTake_steady : Steady s (answerCfgTake p s).after := by
  unfold answerCfgTake
  split
  · exact .of_eq rfl rfl rfl
  · split <;> exact .rfl

theorem answerCfgPass_steady (heir : Byte) : Steady s (answerCfgPass p heir s).after := by
  unfold answerCfgPass
  split
  · exact .rfl
  · split
    · exact .rfl
    · exact .of_eq rfl rfl rfl

theorem answerCfgStation_steady (station : Byte) : Steady s (answerCfgStation p station s).after := by
  unfold answerCfgStation
  split
  · exact .rfl
  · split
    · exact .rfl
    · split
      · exact .rfl
      · split
        · exact .rfl
        · exact .of_eq rfl rfl rfl

theorem changeBitRate_steady (rate : BitRate) : Steady s (s.changeBitRate rate) := by
  by_cases h : rate = s.config.params.bitRate ∨ s.line.receiving = false
  · rw [changeBitRate_keeps h]
    exact .rfl
  · obtain ⟨hrate, hrec⟩ := not_or.1 h
    rw [changeBitRate_abandons hrate (by simpa using hrec)]
    exact .of_eq rfl rfl rfl

theorem answerCfgLine_steady (params : Option LineParams) : Steady s (answerCfgLine p params s).after := by
  unfold answerCfgLine
  split
  · exact .rfl
  · split
    · exact .rfl
    · split
      · exact .rfl
      · exact (changeBitRate_steady _).trans (.of_eq rfl rfl rfl)

theorem answerCfgQuota_steady (port reserve limit : Byte) : Steady s (answerCfgQuota p port reserve limit s).after := by
  unfold answerCfgQuota
  split
  · exact .rfl
  · dsimp only
    split
    · exact .rfl
    · split
      · exact .rfl
      · split
        · exact .rfl
        · split
          · exact .rfl
          · exact withPool_steady _

theorem withOwnEntry_steady {entry : Byte} {handle : EntryIdx → ConnEntry → Answer}
    (h : ∀ e, Steady s (handle e (s.entry e)).after) : Steady s (withOwnEntry p entry s handle).after := by
  unfold withOwnEntry
  split
  · exact .rfl
  · split
    · exact h _
    · exact .rfl

theorem answerConnOpen_steady (service station window priority retryLimit : Byte) (answerTime : Half) :
    Steady s (answerConnOpen p service station window priority retryLimit answerTime s).after := by
  unfold answerConnOpen
  split
  · exact .rfl
  · split
    · exact .rfl
    · split
      · exact .rfl
      · split
        · exact .rfl
        · exact (setEntry_steady _).trans schedule_steady

theorem answerConnSend_steady (entry handle length : Byte) (hostTag : Half) (notify : Byte) :
    Steady s (answerConnSend p entry handle length hostTag notify s).after := by
  unfold answerConnSend
  split
  · split
    · exact .rfl
    · refine withOwnEntry_steady fun e => ?_
      split
      · exact .rfl
      · split
        · exact .rfl
        · split
          · exact .rfl
          · exact ((withPool_steady _).trans (setEntry_steady _)).trans schedule_steady
  · exact .rfl

theorem answerConnHold_steady (entry : Byte) : Steady s (answerConnHold p entry s).after := by
  refine withOwnEntry_steady fun e => ?_
  split
  · exact .rfl
  · split
    · exact .rfl
    · exact (setEntry_steady _).trans schedule_steady

theorem answerConnResume_steady (entry : Byte) : Steady s (answerConnResume p entry s).after := by
  refine withOwnEntry_steady fun e => ?_
  split
  · exact .rfl
  · split
    · exact .rfl
    · exact (setEntry_steady _).trans schedule_steady

theorem abortRequest_steady (e : EntryIdx) : Steady s (s.abortRequest e) :=
  ((setEntry_steady _).trans (abortEntry_aside _ e).steady).trans schedule_steady

theorem closeEntry_steady (e : EntryIdx) (abort : Bool) : Steady s (closeEntry e (s.entry e) abort s).after := by
  unfold closeEntry
  split
  · exact (freeEntry_steady e).trans (closedEvent_steady _ false)
  · split
    · exact abortRequest_steady e
    · exact (setEntry_steady _).trans schedule_steady
  · split
    · exact abortRequest_steady e
    · exact .rfl
  all_goals exact .rfl

theorem answerConnClose_steady (entry form : Byte) : Steady s (answerConnClose p entry form s).after := by
  unfold answerConnClose
  split
  · exact .rfl
  · exact withOwnEntry_steady fun e => closeEntry_steady e _

theorem answerConnRelease_steady (entry : Byte) : Steady s (answerConnRelease p entry s).after := by
  refine withOwnEntry_steady fun e => ?_
  split
  · exact freeEntry_steady e
  · exact .rfl

theorem answerConnQuery_steady (entry : Byte) : Steady s (answerConnQuery entry s).after := by
  unfold answerConnQuery
  split <;> exact .rfl

theorem answerListenAdd_steady (service stationMatch stationMask windowMax priority retryLimit : Byte)
    (answerTime : Half) (accepts : Byte) :
    Steady s
      (answerListenAdd p service stationMatch stationMask windowMax priority retryLimit answerTime accepts s).after := by
  unfold answerListenAdd
  split
  · exact .rfl
  · split
    · exact .rfl
    · split
      · exact .rfl
      · split
        · exact .rfl
        · exact .of_eq rfl rfl rfl

theorem answerListenDrop_steady (service stationMatch stationMask : Byte) :
    Steady s (answerListenDrop p service stationMatch stationMask s).after := by
  unfold answerListenDrop
  split
  · exact .rfl
  · split
    · exact .rfl
    · split
      · exact .of_eq rfl rfl rfl
      · exact .rfl

theorem answerEvtFetch_steady (n : Byte) : Steady s (answerEvtFetch p n s).after := by
  unfold answerEvtFetch
  split
  · exact .rfl
  · show Steady s (s.fetch p n.toNat)
    unfold State.fetch
    exact .ite (fun _ => .rfl) fun _ =>
      (((setPort_steady _).trans (withPool_steady _)).trans (runArbiter_steady p)).trans schedule_steady

theorem answerEvtFilter_steady (kind filter : Byte) : Steady s (answerEvtFilter p kind filter s).after := by
  unfold answerEvtFilter
  split
  · split
    · exact .rfl
    · exact setPort_steady _
  · exact .rfl

theorem answerPortReset_steady : Steady s (answerPortReset p s).after := by
  rw [answerPortReset_after]
  exact (portReset_steady p).trans schedule_steady

/-! ### The line -/

theorem lineEvent_steady (c : LineCode) : Steady s (s.lineEvent c) := (lineEvent_aside s c).steady

theorem withTurn_steady {tc : TurnController} (h : tc.responseTimer = s.turn.responseTimer ∨ tc.responseTimer = none) :
    Steady s (s.withTurn tc) :=
  ⟨fun _ hresponse => ⟨rfl, rfl, h.elim (fun h => h.trans hresponse) id⟩⟩

theorem soleEnds_sending (htx : s.sched.tx ≠ none) : s.soleEnds = s := by
  have hno : s.sched.tx.isNone = false := Option.isNone_eq_false_iff.2 (Option.isSome_iff_ne_none.2 htx)
  simp [State.soleEnds, hno]

theorem addStation_steady (a : Byte) : Steady s (s.addStation a) := by
  have hinsert : Steady s (s.withTurn { s.turn with list := insertStation a s.turn.list }) := withTurn_steady (.inl rfl)
  unfold State.addStation
  dsimp only
  exact .ite (fun _ => hinsert.trans (.of_unsent soleEnds_sending)) fun _ => hinsert

theorem answerTurnAdd_steady (station : Byte) : Steady s (answerTurnAdd p station s).after := by
  unfold answerTurnAdd
  split
  · exact .rfl
  · split
    · exact .rfl
    · split
      · exact .rfl
      · split
        · exact .rfl
        · split
          · exact .rfl
          · exact addStation_steady station

theorem answerTurnRemove_steady (station : Byte) : Steady s (answerTurnRemove p station s).after := by
  unfold answerTurnRemove
  split
  · exact .rfl
  · split
    · exact .rfl
    · split
      · exact .rfl
      · exact withTurn_steady (.inl rfl)

theorem answerLineStart_steady : Steady s (answerLineStart p s).after := by
  unfold answerLineStart
  split
  · exact .rfl
  · split
    · exact .rfl
    · split
      · exact .rfl
      · exact (withTurn_steady (.inr rfl)).trans (lineEvent_steady .started)

theorem dropClosing_steady : Steady s s.dropClosing :=
  foldl_steady (fun _ e => .ite (fun _ => freeEntry_steady e) fun _ => .rfl) allEntries s

theorem goOffline_steady : Steady s s.goOffline := by
  have hdrop := dropClosing_steady (s := s)
  unfold State.goOffline
  dsimp only
  generalize s.dropClosing = t at hdrop ⊢
  have hoffline : Steady t
      { t with
        turn :=
          { t.turn.noHandover with
            engine := .offline, frameCount := 0, lostTimer := none, holdTimer := none, responseTimer := none }
        sched := { t.sched with strays := [] } } := ⟨fun _ _ => ⟨rfl, rfl, rfl⟩⟩
  exact (hdrop.trans hoffline).trans (lineEvent_steady .stopped)

theorem enterStopping_steady : Steady s s.enterStopping := withTurn_steady (.inr rfl)

theorem stopLine_steady : Steady s s.stopLine := by
  refine ⟨fun htx hresponse => ?_⟩
  have hsending : s.sched.tx.isSome = true := Option.isSome_iff_ne_none.2 htx
  have hstops : Steady s s.stopLine := by
    unfold State.stopLine
    simp only [hsending, if_true]
    split
    · exact goOffline_steady
    · exact enterStopping_steady
    · exact enterStopping_steady
    all_goals exact .rfl
  exact hstops.of_sending htx hresponse

theorem answerLineStop_steady : Steady s (answerLineStop p s).after := by
  unfold answerLineStop
  split
  · exact .rfl
  · split
    · exact .rfl
    · split
      · exact .rfl
      · exact stopLine_steady

theorem answerLineStatus_steady (clear : Byte) : Steady s (answerLineStatus p clear s).after := by
  unfold answerLineStatus
  split
  · exact .rfl
  · exact .rfl
  · split
    · exact .rfl
    · exact .of_eq rfl rfl rfl

/-! ### Receptions and timers -/

theorem deaf_sending (htx : s.sched.tx ≠ none) : s.deaf = true := by
  simp [State.deaf, Option.isSome_iff_ne_none.2 htx]

theorem receiveFrame_steady (verdict : Byte → Verdict) : Steady s (s.receiveFrame verdict) :=
  .of_unsent fun htx => by
    rw [State.receiveFrame]
    exact if_pos (deaf_sending htx)

theorem ignoreIf_steady (b : Bool) : Steady s (s.ignoreIf b) := .ite (fun _ => .of_eq rfl rfl rfl) fun _ => .rfl

theorem answerExpiry_steady (e : EntryIdx) : Steady s (s.answerExpiry e) := by
  have hends : Steady s (s.endEntry e .noAnswer) := (endEntry_aside s e _).steady
  have hagain : ∀ d, Steady s (s.setEntry e d).schedule := fun d => (setEntry_steady d).trans schedule_steady
  unfold State.answerExpiry
  dsimp only
  refine .ite (fun _ => .rfl) fun _ => ?_
  split
  · exact .ite (fun _ => hends) fun _ => hagain _
  · exact .ite (fun _ => hends) fun _ => hagain _
  · exact .ite (fun _ => hends) fun _ => hagain _
  · exact .ite (fun _ => endCloseExchange_steady true) fun _ => hagain _
  all_goals exact .rfl

theorem lostExpiry_steady : Steady s s.lostExpiry := by
  have hturn : Steady s s.beginTurn := withTurn_steady (.inl (by
    show s.turn.countRotation.responseTimer = _
    unfold TurnController.countRotation
    rfl))
  exact .ite (fun _ => (hturn.trans (lineEvent_steady .claimed)).trans schedule_steady) fun _ => .rfl

theorem holdExpiry_steady : Steady s s.holdExpiry := by
  refine ⟨fun htx hresponse => ?_⟩
  by_cases hengine : s.turn.engine = .holding
  · by_cases hruns : s.turn.holdTimer = none
    · rw [holdExpiry_none (.inr hruns)]
      exact ⟨rfl, rfl, hresponse⟩
    · rw [holdExpiry_sending hengine hruns htx]
      exact ⟨rfl, rfl, hresponse⟩
  · rw [holdExpiry_none (.inl hengine)]
    exact ⟨rfl, rfl, hresponse⟩

theorem responseExpiry_steady : Steady s s.responseExpiry :=
  ⟨fun _ hresponse => by rw [responseExpiry_none (.inr hresponse)]; exact ⟨rfl, rfl, hresponse⟩⟩

theorem countDown_steady : Steady s s.countDown :=
  ⟨fun _ hresponse => ⟨rfl, rfl, tickDown_none.2 hresponse⟩⟩

theorem tick_steady : Steady s s.tick := by
  unfold State.tick
  dsimp only
  have hif : ∀ (b : Bool) (t u : State), Steady t u → Steady t (if b then u else t) := fun b t u h =>
    .ite (fun _ => h) fun _ => .rfl
  refine countDown_steady.trans
    ((hif (runsOut s.turn.lostTimer) _ _ lostExpiry_steady).trans ((hif (runsOut s.turn.holdTimer) _ _ holdExpiry_steady).trans
    ((hif (runsOut s.turn.responseTimer) _ _ responseExpiry_steady).trans ?_)))
  exact foldl_steady (fun _ e => hif _ _ _ (answerExpiry_steady e)) allEntries _

theorem idle_steady : Steady s s.idle := .ite (fun _ => .rfl) fun _ => tick_steady

/-! ### The commands -/

theorem prstnAsserted_steady (p : Port) {t : State} (h : execPrstnAsserted p s = .next t) : Steady s t := by
  unfold execPrstnAsserted at h
  split at h
  · exact Host.Outcome.next.inj h ▸ .rfl
  · split at h
    · exact Host.Outcome.next.inj h ▸ setPort_steady _
    · rw [← Host.Outcome.next.inj h]
      exact ((portReset_steady p).trans (setPort_steady _)).trans schedule_steady

/-- R158: a part that transmits stays with its frame under every command but three. -/
theorem exec_steady (i : Instr) {t : State} (hnext : exec i s = .next t) (hend : i ≠ .endOfTransmission)
    (hfault : i ≠ .transmitFault) (hreset : i ≠ .resetAsserted) (hlow : s.resetLow = false) : Steady s t := by
  cases i
  case prstnAsserted p => exact prstnAsserted_steady p hnext
  case resetAsserted => exact absurd rfl hreset
  case endOfTransmission => exact absurd rfl hend
  case transmitFault => exact absurd rfl hfault
  case frameStart =>
    unfold exec execFrameStart at hnext
    dsimp only at hnext
    split at hnext <;> cases hnext
    · exact .rfl
    · next hdeaf => exact .of_unsent fun htx => absurd (tx_of_not_deaf fun hd => hdeaf (by rw [hd]; rfl)) htx
  all_goals rw [← Host.Outcome.next.inj hnext]
  case bufGet r => exact request_steady fun _ => answerBufGet_steady
  case bufPut r h => exact request_steady fun _ => answerBufPut_steady h
  case bufWrite r h o c => exact requestWithData_steady fun _ => answerBufWrite_steady h o c r.rest
  case bufRead r h o c => exact request_steady fun _ => answerBufRead_steady h o c
  case connOpen r sv st w pr rl at' => exact request_steady fun _ => answerConnOpen_steady sv st w pr rl at'
  case connSend r e h l tag n => exact request_steady fun _ => answerConnSend_steady e h l tag n
  case connHold r e => exact request_steady fun _ => answerConnHold_steady e
  case connResume r e => exact request_steady fun _ => answerConnResume_steady e
  case connClose r e f => exact request_steady fun _ => answerConnClose_steady e f
  case connRelease r e => exact request_steady fun _ => answerConnRelease_steady e
  case connQuery r e => exact request_steady fun _ => answerConnQuery_steady e
  case listenAdd r sv m k w pr rl at' a => exact request_steady fun _ => answerListenAdd_steady sv m k w pr rl at' a
  case listenDrop r sv m k => exact request_steady fun _ => answerListenDrop_steady sv m k
  case listenList r => exact request_steady fun _ => .rfl
  case evtFetch r n => exact request_steady fun _ => answerEvtFetch_steady n
  case evtFilter r k f => exact request_steady fun _ => answerEvtFilter_steady k f
  case portInfo r => exact request_steady fun _ => .rfl
  case portResetRequest r => exact request_steady fun _ => answerPortReset_steady
  case cfgTake r => exact request_steady fun _ => answerCfgTake_steady
  case cfgPass r h => exact request_steady fun _ => answerCfgPass_steady h
  case cfgStation r a => exact request_steady fun _ => answerCfgStation_steady a
  case cfgLine r _ _ _ _ _ _ _ => exact request_steady fun _ => answerCfgLine_steady _
  case cfgRead r => exact request_steady fun _ => .rfl
  case cfgQuota r p re l => exact request_steady fun _ => answerCfgQuota_steady p re l
  case turnAdd r a => exact request_steady fun _ => answerTurnAdd_steady a
  case turnRemove r a => exact request_steady fun _ => answerTurnRemove_steady a
  case turnList r => exact request_steady fun _ => .rfl
  case lineStart r => exact request_steady fun _ => answerLineStart_steady
  case lineStop r => exact request_steady fun _ => answerLineStop_steady
  case lineStatus r c => exact request_steady fun _ => answerLineStatus_steady c
  case unknownRequest r code => exact requestWithData_steady fun _ => .rfl
  case truncatedRequest p sdi => exact transact_steady fun _ => setPort_steady _
  case collect p sdi => exact transact_steady fun _ => .rfl
  case ignoredTransaction p sdi => exact transact_steady fun _ => .rfl
  case prstnReleased p => exact setPort_steady _
  case resetReleased => exact .of_eq rfl hlow.symm rfl
  case frameEnd status bytes => exact (receiveFrame_steady _).trans (ignoreIf_steady _)
  case dataReceived h payload => exact receiveFrame_steady _
  case readyReceived h => exact receiveFrame_steady _
  case waitReceived h => exact receiveFrame_steady _
  case repeatReceived h => exact receiveFrame_steady _
  case openReceived h sv w => exact receiveFrame_steady _
  case acceptReceived h w => exact receiveFrame_steady _
  case refuseReceived h w => exact receiveFrame_steady _
  case closeReceived h => exact receiveFrame_steady _
  case closedReceived h w => exact receiveFrame_steady _
  case turnReceived h => exact receiveFrame_steady _
  case answerTimerExpiry e => exact answerExpiry_steady e
  case lostTimerExpiry => exact lostExpiry_steady
  case holdTimerExpiry => exact holdExpiry_steady
  case turnResponseTimerExpiry => exact responseExpiry_steady
  case schedulerChoice => exact schedule_steady
  case noticeAdmission p => exact (runArbiter_steady p).trans schedule_steady
  case lineReturnsToIdle => exact .of_eq rfl rfl rfl
  case selectFalls fall => exact setPort_steady _

/-! ### The start and the end of a transmission -/

theorem lde_iff (s : State) : s.lde = true ↔ s.sched.tx ≠ none ∧ s.resetLow = false := by
  rw [State.lde, Bool.and_eq_true, Bool.not_eq_true', Option.isSome_iff_ne_none]

theorem ltx_released (h : s.lde = false) : s.ltx = none ∧ s.ltxBits = none := by
  have hltx : s.ltx = none := by simp [State.ltx, h]
  exact ⟨hltx, by rw [State.ltxBits, hltx]; rfl⟩

/-- R158: what a frame that starts puts on the line. -/
theorem startFrame_line (o : Origin) (f : Frame) (sn : Option Seq) (d : Discharged) (hlow : s.resetLow = false) :
    (s.startFrame o f sn d).lde = true ∧ (s.startFrame o f sn d).ltx = some f.encode ∧
      (s.startFrame o f sn d).ltxBits = some (bitsOf f.encode) := by
  have hlde : (s.startFrame o f sn d).lde = true := by
    rw [lde_iff, startFrame_eq]
    exact ⟨nofun, hlow⟩
  have hltx : (s.startFrame o f sn d).ltx = some f.encode := by
    rw [State.ltx, if_pos hlde, startFrame_eq]
    rfl
  exact ⟨hlde, hltx, by rw [State.ltxBits, hltx]; rfl⟩

theorem Steady.line {t : State} (h : Steady s t) (hlde : s.lde = true) (hresponse : s.turn.responseTimer = none) :
    t.lde = true ∧ t.ltx = s.ltx ∧ t.ltxBits = s.ltxBits := by
  obtain ⟨hframe, hreset, -⟩ := h.of_sending ((lde_iff s).1 hlde).1 hresponse
  obtain ⟨hsame, hltx, hbits⟩ := lde_ltx_of_frame hframe hreset
  exact ⟨hsame.trans hlde, hltx, hbits⟩

theorem step_idle {t : State} (hpending : s.pending = []) (h : step s = .next t) : t = s.idle := by
  unfold step at h
  rw [hpending] at h
  exact (Host.Outcome.next.inj h).symm

/-- R154: a transmit fault takes the frame off the line. -/
theorem turnFault_idle (htx : s.sched.tx = none) : s.turnFault.sched.tx = none := by
  unfold State.turnFault
  split
  · exact htx
  · exact htx
  · have hrest := (goOffline_rest (s := s.lineEvent .txFault)).2.2.1
    rw [hrest]
    exact Option.map_eq_none_iff.1 ((dropClosing_lineSame (s := s.lineEvent .txFault)).origin.trans (by
      rw [(lineEvent_aside s .txFault).sched, htx]
      rfl))
  · exact htx
  · exact htx

theorem transmissionFails_idle : s.transmissionFails.sched.tx = none := by
  unfold State.transmissionFails
  split
  · next h => exact h
  · exact turnFault_idle rfl

/-! ### What follows the end of a transmission -/

/-- A part with no frame on the line, or with a TURN on it. -/
def State.turnOrIdle (s : State) : Prop := ∀ x, s.sched.tx = some x → ∃ a, x.origin = .turn a

theorem turnOrIdle_idle (h : s.sched.tx = none) : s.turnOrIdle := fun x hx => by
  rw [h] at hx
  cases hx

theorem sendTurn_turnOrIdle (a : Byte) : (s.sendTurn a).turnOrIdle := fun x hx => by
  rw [State.sendTurn, startFrame_eq] at hx
  exact ⟨a, by rw [← Option.some.inj hx]⟩

theorem endTurn_turnOrIdle (h : s.turnOrIdle) : s.endTurn.turnOrIdle := by
  rcases endTurn_cases s with hend | ⟨a, hend⟩ | ⟨a, hend⟩ <;> rw [hend]
  · exact h
  · exact sendTurn_turnOrIdle a
  · exact sendTurn_turnOrIdle a

theorem renewSoleTurn_turnOrIdle (h : s.turnOrIdle) : s.renewSoleTurn.turnOrIdle := by
  unfold State.renewSoleTurn
  split
  · exact sendTurn_turnOrIdle _
  · exact h

theorem goOffline_turnOrIdle (h : s.sched.tx = none) : s.goOffline.turnOrIdle := by
  refine turnOrIdle_idle ?_
  rw [goOffline_rest.2.2.1]
  exact Option.map_eq_none_iff.1 (dropClosing_lineSame.origin.trans (by rw [h]; rfl))

theorem turnAfterFrame_turnOrIdle (h : s.turnOrIdle) : s.turnAfterFrame.turnOrIdle := by
  unfold State.turnAfterFrame
  dsimp only
  split
  · split
    · split
      · exact renewSoleTurn_turnOrIdle h
      · exact h
    · split
      · exact renewSoleTurn_turnOrIdle h
      · exact h
  · split
    · exact endTurn_turnOrIdle h
    · exact h

/-- R153: what the turn controller makes of the end of a transmission starts a TURN or nothing. -/
theorem turnSent_turnOrIdle (o : Origin) (h : s.sched.tx = none) : (s.turnSent o).turnOrIdle := by
  have hidle := turnOrIdle_idle h
  unfold State.turnSent
  split
  · exact hidle
  · exact turnAfterFrame_turnOrIdle (s := s.withTurn { s.turn with frameCount := s.turn.frameCount + 1 }) hidle
  · exact hidle
  · exact hidle
  · exact goOffline_turnOrIdle h
  · unfold State.stopTurn
    split
    · exact sendTurn_turnOrIdle _
    · exact goOffline_turnOrIdle h
  all_goals exact hidle

/-- R153: outside HOLDING the end of a transmission begins no turn. -/
theorem turnSent_holding (o : Origin) (h : (s.turnSent o).turn.engine = .holding) : s.turn.engine = .holding := by
  unfold State.turnSent at h
  split at h
  · assumption
  · assumption
  · exact h
  · exact h
  · rw [(goOffline_fields s).1] at h
    cases h
  · next hengine _ =>
    unfold State.stopTurn at h
    split at h
    · rw [State.sendTurn, startFrame_turn] at h
      exact h
    · rw [(goOffline_fields s).1] at h
      cases h
  all_goals exact h

/-- No frame of an entry that has returned to FREE is on the line. -/
def State.attached (s : State) : Prop := ∀ x, s.sched.tx = some x → x.detached = false

theorem startFrame_attached (o : Origin) (f : Frame) (sn : Option Seq) (d : Discharged) :
    (s.startFrame o f sn d).attached := fun x hx => by
  rw [startFrame_eq] at hx
  rw [← Option.some.inj hx]

theorem giveData_attached (h : s.attached) (e : EntryIdx) : (s.giveData e).attached := by
  unfold State.giveData
  split
  · exact h
  · exact startFrame_attached _ _ _ _

theorem giveResponse_attached (h : s.attached) (e : EntryIdx) : (s.giveResponse e).attached := by
  unfold State.giveResponse
  dsimp only
  split
  · exact startFrame_attached _ _ _ _
  · split
    · exact startFrame_attached _ _ _ _
    · split
      · exact startFrame_attached _ _ _ _
      · split
        · exact giveData_attached h e
        · exact startFrame_attached _ _ _ _

theorem giveInitiative_attached (h : s.attached) (e : EntryIdx) : (s.giveInitiative e).attached := by
  unfold State.giveInitiative
  split
  · exact startFrame_attached _ _ _ _
  · exact startFrame_attached _ _ _ _
  · exact startFrame_attached _ _ _ _
  · exact startFrame_attached _ _ _ _
  all_goals exact h

theorem moveTo_tx (k : Scheduler) (c : Choice) : (k.moveTo c).tx = k.tx := by cases c <;> rfl

theorem startChoice_attached (h : s.attached) (c : Choice) : (s.startChoice c).attached := by
  have hmoved : (s.withSched (s.sched.moveTo c)).attached := fun x hx => h x ((moveTo_tx s.sched c).symm.trans hx)
  cases c with
  | stray r => exact startFrame_attached _ _ _ _
  | response e => exact giveResponse_attached hmoved e
  | initiative e => exact giveInitiative_attached hmoved e
  | data p e => exact giveData_attached hmoved e
  | passing e p k => exact giveData_attached (s := (s.withSched _).modEntry e ConnEntry.settleAbort) hmoved k

/-- R153, step 5: what the choice makes of such a part. -/
theorem schedule_starts {x : TxRecord} (h : s.turnOrIdle) (hx : s.schedule.sched.tx = some x) :
    (∃ a, x.origin = .turn a) ∨
      (s.turn.engine = .holding ∧ s.schedule.turn.engine = .holding ∧ x.detached = false) := by
  rcases schedule_cases s with ⟨-, hsame⟩ | ⟨-, -, -, hends⟩ | ⟨c, ho, hc, hstarts⟩
  · rw [hsame] at hx
    exact .inl (h x hx)
  · rw [hends] at hx
    exact .inl (endTurn_turnOrIdle h x hx)
  · obtain ⟨hengine, htx, -⟩ := offered_iff.1 ho
    have hattached : s.attached := fun y hy => by
      rw [htx] at hy
      cases hy
    rw [hstarts] at hx ⊢
    exact .inr ⟨hengine, by rw [(startChoice_turnSame c).turn, hengine], startChoice_attached hattached c x hx⟩

theorem transmissionEnds_starts {x : TxRecord} (hx : s.transmissionEnds.sched.tx = some x) (hsending : s.sched.tx ≠ none) :
    (∃ a, x.origin = .turn a) ∨
      (s.turn.engine = .holding ∧ s.transmissionEnds.turn.engine = .holding ∧ x.detached = false) := by
  obtain ⟨y, hy⟩ := Option.ne_none_iff_exists'.1 hsending
  have hends : s.transmissionEnds = (((s.originSent y).clearTx).turnSent y.origin).schedule := by
    rw [State.transmissionEnds, hy]
  rw [hends] at hx ⊢
  refine (schedule_starts (turnSent_turnOrIdle y.origin rfl) hx).imp_right fun ⟨hbegun, hgoes, hattached⟩ => ?_
  have hengine : (s.originSent y).turn.engine = .holding := turnSent_holding (s := (s.originSent y).clearTx) _ hbegun
  rw [(originSent_line y).1] at hengine
  exact ⟨hengine, hgoes, hattached⟩

theorem deviceReset_lde (s : State) : s.deviceReset.lde = false := by
  rw [State.lde]
  simp [State.deviceReset]

/-- Settles O48: every command but three is steady (`exec_steady`), and so is the tick. -/
theorem transmissionHoldsTheLine : Obligations.TransmissionHoldsTheLine := by
  refine ⟨fun s => ltx_released, fun s o f sn d hlow => ?_, fun s t i hlde hresponse hnext hend hfault hreset =>
      (exec_steady i hnext hend hfault hreset ((lde_iff s).1 hlde).2).line hlde hresponse,
    fun s t hlde hresponse hpending hnext => by
      rw [step_idle hpending hnext]
      exact idle_steady.line hlde hresponse,
    fun s t hlow hnext => ?_, fun s t htx hnext => ?_, fun s t x htx hnext hx => ?_⟩
  · obtain ⟨hlde, hltx, hbits⟩ := startFrame_line o f sn d hlow
    exact ⟨hlde, hltx, hbits.trans (congrArg some (bitsOf_eq _))⟩
  · rw [exec_resetAsserted hlow] at hnext
    rw [← Host.Outcome.next.inj hnext]
    exact deviceReset_lde s
  · obtain rfl : s.transmissionFails = t := Host.Outcome.next.inj hnext
    rw [State.lde, transmissionFails_idle]
    rfl
  · obtain rfl : s.transmissionEnds = t := Host.Outcome.next.inj hnext
    exact transmissionEnds_starts hx htx

end Sys2Proof.Machine
end

section
/-! The end of a transmission and the transmit fault: what becomes of the turn, and what they do at the origin. -/

namespace Sys2Proof.Machine

variable {s : State} {e : EntryIdx}

/-! ### Becoming OFFLINE -/

/-- R140: some of the CLOSING entries return to FREE. -/
def State.dropThese (s : State) (es : List EntryIdx) : State :=
  es.foldl (fun t e => if (t.entry e).state = .closing then t.freeEntry e else t) s

/-- R17: the frame of one of these entries is detached when the entry is CLOSING. -/
def State.detachThese (s : State) (es : List EntryIdx) (x : TxRecord) : TxRecord :=
  match x.origin with
  | .entry e => if e ∈ es ∧ (s.entry e).state = .closing then { x with detached := true } else x
  | .stray => x
  | .turn _ => x

theorem detachThese_append (s : State) (es : List EntryIdx) (e : EntryIdx) (h : (s.entry e).state = .closing)
    (x : TxRecord) : (s.detachThese es x).detachFrom e = s.detachThese (es ++ [e]) x := by
  unfold State.detachThese TxRecord.detachFrom
  cases horigin : x.origin with
  | entry k =>
    by_cases hk : k = e
    · subst hk
      by_cases hmem : k ∈ es <;> simp [h, hmem, horigin]
    · by_cases hmem : k ∈ es ∧ (s.entry k).state = .closing <;> simp [hmem, hk, horigin]
  | stray => simp [horigin]
  | turn a => simp [horigin]

theorem detachThese_other (s : State) (es : List EntryIdx) (e : EntryIdx)
    (h : ¬ (s.entry e).state = .closing ∨ e ∈ es) (x : TxRecord) : s.detachThese (es ++ [e]) x = s.detachThese es x := by
  unfold State.detachThese
  cases x.origin with
  | entry k =>
    have hiff : (k ∈ es ++ [e] ∧ (s.entry k).state = .closing) ↔ k ∈ es ∧ (s.entry k).state = .closing := by
      rw [List.mem_append, List.mem_singleton]
      refine ⟨fun ⟨hk, hclosing⟩ => ⟨hk.elim id fun hk => ?_, hclosing⟩, fun ⟨hk, hclosing⟩ => ⟨.inl hk, hclosing⟩⟩
      subst hk
      exact h.resolve_left (not_not.2 hclosing)
    simp only [hiff]
  | stray => rfl
  | turn a => rfl

/-- R140: what the dropping of some entries leaves of the part. -/
theorem dropThese_spec (s : State) (es : List EntryIdx) :
    (∀ k, (s.dropThese es).entry k = if k ∈ es ∧ (s.entry k).state = .closing then {} else s.entry k) ∧
      s.dropThese es =
        { s with
          entries := (s.dropThese es).entries
          sched := { s.sched with tx := s.sched.tx.map (s.detachThese es) } } := by
  induction es using List.reverseRecOn with
  | nil =>
    have hnone : s.detachThese [] = id := funext fun x => by
      unfold State.detachThese
      cases x.origin <;> simp
    refine ⟨fun k => by simp [State.dropThese], ?_⟩
    rw [hnone, Option.map_id]
    rfl
  | append_singleton es e ih =>
    obtain ⟨hentries, hrest⟩ := ih
    have hfold : s.dropThese (es ++ [e]) =
        if ((s.dropThese es).entry e).state = .closing then (s.dropThese es).freeEntry e else s.dropThese es :=
      List.foldl_append ..
    by_cases hclosing : ((s.dropThese es).entry e).state = .closing
    · have hstate : (s.entry e).state = .closing := by
        rw [hentries] at hclosing
        split at hclosing
        · cases hclosing
        · exact hclosing
      rw [hfold, if_pos hclosing]
      refine ⟨fun k => ?_, ?_⟩
      · by_cases hk : e = k
        · subst hk
          simp [hstate]
        · have hk' : k ≠ e := Ne.symm hk
          rw [freeEntry_entry_other _ hk, hentries]
          simp [hk']
      · have hdetach : s.detachThese (es ++ [e]) = TxRecord.detachFrom e ∘ s.detachThese es :=
          funext fun x => (detachThese_append s es e hstate x).symm
        rw [hdetach, ← Option.map_map, freeEntry_eq]
        generalize s.dropThese es = t at hrest
        rw [hrest]
    · have hother : ¬ (s.entry e).state = .closing ∨ e ∈ es := by
        rw [hentries] at hclosing
        split at hclosing
        · next h => exact .inr h.1
        · exact .inl hclosing
      rw [hfold, if_neg hclosing]
      refine ⟨fun k => ?_, ?_⟩
      · rw [hentries]
        refine if_congr ⟨fun ⟨hk, h⟩ => ⟨List.mem_append_left _ hk, h⟩, fun ⟨hk, h⟩ => ⟨?_, h⟩⟩ rfl rfl
        rcases List.mem_append.1 hk with hk | hk
        · exact hk
        · rw [List.mem_singleton.1 hk] at h ⊢
          exact hother.resolve_left (not_not.2 h)
      · have hdetach : s.detachThese (es ++ [e]) = s.detachThese es := funext (detachThese_other s es e hother)
        rw [hdetach]
        exact hrest

theorem dropClosing_eq (s : State) :
    s.dropClosing =
      { s with
        entries := s.entries.map fun c => if c.state = .closing then {} else c
        sched :=
          { s.sched with
            tx := s.sched.tx.map fun x =>
              match x.origin with
              | .entry e => if (s.entry e).state = .closing then { x with detached := true } else x
              | .stray => x
              | .turn _ => x } } := by
  obtain ⟨hentries, hrest⟩ := dropThese_spec s allEntries
  have hall : ∀ k : EntryIdx, k ∈ allEntries := fun k => List.mem_finRange k
  have htable : (s.dropThese allEntries).entries = s.entries.map fun c => if c.state = .closing then {} else c :=
    table_ext fun k => by
      rw [look_map]
      refine (hentries k).trans ?_
      simp only [hall, true_and]
      rfl
  have hdetach : s.detachThese allEntries = fun x =>
      match x.origin with
      | .entry e => if (s.entry e).state = .closing then { x with detached := true } else x
      | .stray => x
      | .turn _ => x := funext fun x => by
    unfold State.detachThese
    simp only [hall, true_and]
  rw [htable, hdetach] at hrest
  exact hrest

theorem goOffline_eq (s : State) :
    s.goOffline =
      ({ s with
          entries := s.entries.map fun c => if c.state = .closing then {} else c
          turn :=
            { s.turn with
              engine := .offline, frameCount := 0, target := none, kind := none, attempt := none, lostTimer := none,
              holdTimer := none, responseTimer := none }
          sched :=
            { s.sched with
              strays := []
              tx := s.sched.tx.map fun x =>
                match x.origin with
                | .entry e => if (s.entry e).state = .closing then { x with detached := true } else x
                | .stray => x
                | .turn _ => x } } : State).lineEvent .stopped := by
  unfold State.goOffline
  rw [dropClosing_eq]
  rfl

/-! ### The turn after a frame -/

theorem schedule_away (h : s.turn.engine ≠ .holding) : s.schedule = s :=
  schedule_quiet (Bool.eq_false_iff.2 fun ho => h (offered_iff.1 ho).1)

theorem schedule_goOffline (s : State) : s.goOffline.schedule = s.goOffline :=
  schedule_away (by rw [(goOffline_fields s).1]; nofun)

theorem schedule_endTurn (h : s.turn.sole = false) : s.endTurn.schedule = s.endTurn :=
  schedule_sending (Option.isSome_iff_ne_none.1 (endTurn_sends h))

theorem turnAfterFrame_ends (hsole : s.turn.sole = false)
    (h : s.config.params.turnBudget ≤ s.turn.frameCount ∨ s.turn.holdTimer = none) :
    s.turnAfterFrame = s.endTurn := by
  have hboth : (decide (s.config.params.turnBudget ≤ s.turn.frameCount) || s.turn.holdTimer.isNone) = true := by
    rcases h with h | h <;> simp [h]
  unfold State.turnAfterFrame
  rw [hsole]
  exact if_pos hboth

theorem turnAfterFrame_goes (hsole : s.turn.sole = false)
    (hspent : ¬ s.config.params.turnBudget ≤ s.turn.frameCount) (hruns : s.turn.holdTimer ≠ none) :
    s.turnAfterFrame = s := by
  have hno : ¬ (decide (s.config.params.turnBudget ≤ s.turn.frameCount) || s.turn.holdTimer.isNone) = true := by
    simp [hspent, hruns]
  unfold State.turnAfterFrame
  rw [hsole]
  exact if_neg hno

/-- R133: sole mode, where the budget only restarts the count. -/
theorem turnAfterFrame_sole (hsole : s.turn.sole = true) :
    s.turnAfterFrame =
      if s.turn.holdTimer = none then
        (s.withTurn
          { s.turn with
            frameCount := if s.config.params.turnBudget ≤ s.turn.frameCount then 0 else s.turn.frameCount }).renewSoleTurn
      else
        s.withTurn
          { s.turn with
            frameCount := if s.config.params.turnBudget ≤ s.turn.frameCount then 0 else s.turn.frameCount } := by
  have hcount : (if s.config.params.turnBudget ≤ s.turn.frameCount then s.withTurn { s.turn with frameCount := 0 } else s) =
      s.withTurn
        { s.turn with
          frameCount := if s.config.params.turnBudget ≤ s.turn.frameCount then 0 else s.turn.frameCount } := by
    split <;> rfl
  unfold State.turnAfterFrame
  simp only [hsole, if_true, hcount, Option.isNone_iff_eq_none]
  rfl

/-- R153, steps 3 to 5, for a frame that is no TURN, in each state of the line engine. -/
theorem turnSent_other {o : Origin} (ho : ∀ a, o ≠ .turn a) :
    s.turnSent o =
      match s.turn.engine with
      | .holding => (s.withTurn { s.turn with frameCount := s.turn.frameCount + 1 }).turnAfterFrame
      | .stopping => s.stopTurn
      | .offline | .waiting | .handing => s := by
  unfold State.turnSent
  cases o with
  | turn a => exact absurd rfl (ho a)
  | entry e => cases s.turn.engine <;> rfl
  | stray => cases s.turn.engine <;> rfl

theorem turnSent_away {o : Origin} (h : s.turn.engine = .offline ∨ s.turn.engine = .waiting ∨ s.turn.engine = .handing)
    (ho : ∀ a, o ≠ .turn a) : s.turnSent o = s := by
  rw [turnSent_other ho]
  rcases h with h | h | h <;> rw [h]

theorem turnSent_counts {o : Origin} (h : s.turn.engine = .holding) (ho : ∀ a, o ≠ .turn a) :
    s.turnSent o = (s.withTurn { s.turn with frameCount := s.turn.frameCount + 1 }).turnAfterFrame := by
  rw [turnSent_other ho, h]

theorem turnSent_stops {o : Origin} (h : s.turn.engine = .stopping) (ho : ∀ a, o ≠ .turn a) :
    s.turnSent o = s.stopTurn := by
  rw [turnSent_other ho, h]

/-- R129, R139: the end of a TURN. -/
theorem turnSent_turn (a : Byte) :
    s.turnSent (.turn a) =
      match s.turn.engine with
      | .handing => s.withTurn { s.turn with responseTimer := some s.config.responseTime }
      | .stopping => s.goOffline
      | .holding | .offline | .waiting => s := by
  unfold State.turnSent
  cases s.turn.engine <;> rfl

theorem stopTurn_sole (hsole : s.turn.sole = true) : s.stopTurn = s.goOffline := by
  simp only [State.stopTurn, successor_sole_iff.1 hsole]

theorem stopTurn_successor {a : Byte} (ha : s.turn.successor s.config.station = some a) :
    s.stopTurn = (s.withTurn { s.turn with target := some a }).sendTurn a := by
  simp only [State.stopTurn, ha]

/-! ### The end of a transmission, by its origin and by the state -/

theorem transmissionEnds_eq {x : TxRecord} (hx : s.sched.tx = some x) :
    s.transmissionEnds = (((s.originSent x).clearTx).turnSent x.origin).schedule := by
  rw [State.transmissionEnds, hx]

/-- Two parts with the same turn controller, configuration, line interface and statistics. -/
structure SameTurn (s t : State) : Prop where
  turn : t.turn = s.turn
  config : t.config = s.config
  line : t.line = s.line
  stats : t.stats = s.stats

theorem SameTurn.rfl {s : State} : SameTurn s s := ⟨Eq.refl _, Eq.refl _, Eq.refl _, Eq.refl _⟩

theorem Aside.sameTurn {t : State} (h : Aside s t) : SameTurn s t := ⟨h.turn, h.config, h.line, h.stats⟩

/-- R153: how a transmission that is no TURN ends, in the part `s` in which it ends, given what it does at its origin. -/
inductive EndsAs (s : State) : (State → State) → Prop
  | goes (h : s.turn.engine = .holding) (hsole : s.turn.sole = false)
      (hspent : ¬ s.config.params.turnBudget ≤ s.turn.frameCount + 1) (hruns : s.turn.holdTimer ≠ none) :
      EndsAs s fun t => (t.clearTx.withTurn { s.turn with frameCount := s.turn.frameCount + 1 }).schedule
  | ends (h : s.turn.engine = .holding) (hsole : s.turn.sole = false)
      (hover : s.config.params.turnBudget ≤ s.turn.frameCount + 1 ∨ s.turn.holdTimer = none) :
      EndsAs s fun t => (t.clearTx.withTurn { s.turn with frameCount := s.turn.frameCount + 1 }).endTurn
  | sole (h : s.turn.engine = .holding) (hsole : s.turn.sole = true) (hruns : s.turn.holdTimer ≠ none) :
      EndsAs s fun t =>
        (t.clearTx.withTurn
          { s.turn with
            frameCount :=
              if s.config.params.turnBudget ≤ s.turn.frameCount + 1 then 0 else s.turn.frameCount + 1 }).schedule
  | renews (h : s.turn.engine = .holding) (hsole : s.turn.sole = true) (hexpired : s.turn.holdTimer = none) :
      EndsAs s fun t =>
        (t.clearTx.withTurn
          { s.turn with
            frameCount :=
              if s.config.params.turnBudget ≤ s.turn.frameCount + 1 then 0
              else s.turn.frameCount + 1 }).renewSoleTurn.schedule
  | leaves (h : s.turn.engine = .stopping) (hsole : s.turn.sole = true) : EndsAs s fun t => t.clearTx.goOffline
  | passes (a : Byte) (h : s.turn.engine = .stopping) (ha : s.turn.successor s.config.station = some a) :
      EndsAs s fun t => (t.clearTx.withTurn { s.turn with target := some a }).sendTurn a
  | away (h : s.turn.engine = .offline ∨ s.turn.engine = .waiting ∨ s.turn.engine = .handing) :
      EndsAs s State.clearTx

/-- The part with the line released and the frame counted, in a turn `tc`. -/
def State.counted (t : State) (tc : TurnController) : State :=
  t.clearTx.withTurn { tc with frameCount := tc.frameCount + 1 }

theorem EndsAs.turnSent {ended : State → State} (h : EndsAs s ended) {t : State} (hsame : SameTurn s t) {o : Origin}
    (ho : ∀ a, o ≠ .turn a) : (t.clearTx.turnSent o).schedule = ended t := by
  obtain ⟨hturn, hconfig, -, -⟩ := hsame
  have hturn' : t.clearTx.turn = s.turn := hturn
  have hconfig' : t.clearTx.config = s.config := hconfig
  have hbudget : (t.counted s.turn).config.params.turnBudget = s.config.params.turnBudget := by rw [← hconfig]; rfl
  have hcounts : s.turn.engine = .holding → t.clearTx.turnSent o = (t.counted s.turn).turnAfterFrame := fun h => by
    rw [turnSent_counts (by rw [hturn', h]) ho, hturn']
    rfl
  cases h with
  | goes h hsole hspent hruns =>
    rw [hcounts h, turnAfterFrame_goes (s := t.counted s.turn) hsole (by rw [hbudget]; exact hspent) hruns]
    rfl
  | ends h hsole hover =>
    rw [hcounts h, turnAfterFrame_ends (s := t.counted s.turn) hsole (by rw [hbudget]; exact hover)]
    exact schedule_endTurn (s := t.counted s.turn) hsole
  | sole h hsole hruns =>
    rw [hcounts h, turnAfterFrame_sole (s := t.counted s.turn) hsole, hbudget]
    exact congrArg State.schedule (if_neg hruns)
  | renews h hsole hexpired =>
    rw [hcounts h, turnAfterFrame_sole (s := t.counted s.turn) hsole, hbudget]
    exact congrArg State.schedule (if_pos hexpired)
  | leaves h hsole =>
    rw [turnSent_stops (by rw [hturn', h]) ho, stopTurn_sole (by rw [hturn']; exact hsole), schedule_goOffline]
  | passes a h ha =>
    rw [turnSent_stops (by rw [hturn', h]) ho, stopTurn_successor (by rw [hturn', hconfig']; exact ha), hturn']
    refine schedule_away ?_
    rw [State.sendTurn, startFrame_turn, withTurn_turn, h]
    nofun
  | away h =>
    rw [turnSent_away (by rw [hturn']; exact h) ho]
    refine schedule_away ?_
    rw [hturn']
    rcases h with h | h | h <;> rw [h] <;> nofun

/-- R153: the whole end of a transmission that is no TURN. -/
theorem EndsAs.exec {ended : State → State} (h : EndsAs s ended) {x : TxRecord} (hx : s.sched.tx = some x)
    (ho : ∀ a, x.origin ≠ .turn a) {t : State} (ht : s.originSent x = t) (hsame : SameTurn s t) :
    exec .endOfTransmission s = .next (ended t) := by
  subst ht
  exact congrArg _ ((transmissionEnds_eq hx).trans (h.turnSent hsame ho))

/-! ### A deferred message -/

section
variable {m : SentMsg} {sn : Seq} {p : Port}

/-- R18: no message of the entry was on the line. -/
theorem finishDeferred_none (h : ∀ m ∈ (s.entry e).unacked, some m.sn ≠ some sn) : s.finishDeferred e sn = s :=
  finishDeferred_absent (List.find?_eq_none.2 fun m hm => by
    have hne : m.sn ≠ sn := fun heq => h m hm (congrArg some heq)
    simpa using hne)

variable (howner : (s.entry e).owner = some p) (hunacked : (s.entry e).unacked = [m]) (hsn : m.sn = sn)
include hunacked hsn

theorem without_only : (s.entry e).without sn = { s.entry e with unacked := [] } := by
  simp [ConnEntry.without, hunacked, hsn]

theorem find_only : (s.entry e).unacked.find? (fun k => k.sn = sn) = some m := by
  simp [hunacked, hsn]

include howner

/-- R18: the only message of an orphan was on the line. -/
theorem finishDeferred_orphan (horphan : (s.entry e).orphan = true) :
    s.finishDeferred e sn = (s.setEntry e { s.entry e with unacked := [] }).release p m.msg.handle := by
  rw [finishDeferred_found (find_only hunacked hsn), if_pos horphan, howner,
    without_only hunacked hsn]
  rfl

/-- R18, R52: the only message of an entry that has an owner to tell was on the line. -/
theorem finishDeferred_tells (horphan : (s.entry e).orphan = false) :
    (s.finishDeferred e sn).told p e =
        s.told p e ++ [.unsent m.msg.tag m.msg.handle m.msg.length] ++
          (match (s.entry e).state, (s.entry e).endReason with
          | .ended, some why => [Notice.ended why]
          | _, _ => []) ∧
      (s.finishDeferred e sn).entry e =
        { s.entry e with unacked := [], notices := ((s.finishDeferred e sn).entry e).notices } ∧
      s.tellsOnly (s.finishDeferred e sn) p e := by
  have hfound : s.finishDeferred e sn =
      (s.setEntry e { s.entry e with unacked := [] }).makeNotices e ((s.entry e).deferredNotices sn m) := by
    rw [finishDeferred_found (find_only hunacked hsn), if_neg (by rw [horphan]; nofun),
      without_only hunacked hsn]
  have hnotices : (s.entry e).deferredNotices sn m =
      .unsent m.msg.tag m.msg.handle m.msg.length ::
        (match (s.entry e).state, (s.entry e).endReason with
        | .ended, some why => [Notice.ended why]
        | _, _ => []) := by
    rw [ConnEntry.deferredNotices, without_only hunacked hsn]
    rfl
  obtain ⟨htold, honly⟩ := tells_of_notices (s := s) (c := { s.entry e with unacked := [] })
    ((s.entry e).deferredNotices sn m) howner horphan rfl
  have hentry := makeNotices_entry (s.setEntry e { s.entry e with unacked := [] }) e ((s.entry e).deferredNotices sn m)
  rw [entry_setEntry_same] at hentry
  rw [hfound]
  refine ⟨?_, hentry, honly⟩
  rw [htold, hnotices, List.append_assoc]
  rfl

end

/-! ### What the end of a frame does at its entry -/

section
variable {x : TxRecord}

theorem originSent_detached (ho : x.origin = .entry e) (h : x.detached = true) : s.originSent x = s := by
  simp only [State.originSent, ho, h, if_true]

theorem originSent_entry (ho : x.origin = .entry e) (h : x.detached = false) : s.originSent x = s.frameSent e x := by
  simp only [State.originSent, ho, h, Bool.false_eq_true, if_false]

theorem frameSent_live (h : (s.entry e).state = .opened ∨ (s.entry e).state = .draining) :
    s.frameSent e x = s.setEntry e ((s.entry e).sentLive x).settleTimer := by
  rcases h with h | h <;> simp only [State.frameSent, h, modEntry_eq]

theorem frameSent_opening (h : (s.entry e).state = .opening) (hkind : x.frame.kind = .opening) :
    s.frameSent e x = s.setEntry e (s.entry e).sentControl := by
  simp only [State.frameSent, h, hkind, if_true, modEntry_eq]

theorem frameSent_closing (h : (s.entry e).state = .closing) (hkind : x.frame.kind = .close) :
    s.frameSent e x = s.setEntry e (s.entry e).sentControl := by
  simp only [State.frameSent, h, hkind, if_true, modEntry_eq]

theorem frameSent_left (h : (s.entry e).state = .free ∨ ((s.entry e).state = .opening ∧ x.frame.kind ≠ .opening)) :
    s.frameSent e x = s := by
  rcases h with h | ⟨h, hkind⟩
  · simp only [State.frameSent, h]
  · simp only [State.frameSent, h, if_neg hkind]

/-- R18: a frame of an entry that has left OPEN and DRAINING. -/
theorem frameSent_deferred
    (h : (s.entry e).state = .ended ∨ ((s.entry e).state = .closing ∧ x.frame.kind ≠ .close)) :
    s.frameSent e x = x.sn.elim s (s.finishDeferred e) := by
  rcases h with h | ⟨h, hkind⟩
  · simp only [State.frameSent, h]
    cases x.sn <;> rfl
  · simp only [State.frameSent, h, if_neg hkind]
    cases x.sn <;> rfl

theorem deferred_none (h : ∀ m ∈ (s.entry e).unacked, some m.sn ≠ x.sn) : x.sn.elim s (s.finishDeferred e) = s := by
  cases hsn : x.sn with
  | none => rfl
  | some sn => exact finishDeferred_none (hsn ▸ h)

variable {c : ConnEntry}

theorem sentLive_data (h : x.frame.kind = .data) : c.sentLive x = c.startAfterSend := by
  simp only [ConnEntry.sentLive, h, if_true]

theorem isStatus_iff (k : FrameKind) : k.isStatus = true ↔ k = .ready ∨ k = .wait := by
  cases k <;> simp [FrameKind.isStatus]

theorem sentLive_query (h : x.frame.kind = .ready ∨ x.frame.kind = .wait) (hquery : x.discharged.queryDue = true) :
    c.sentLive x = ({ c with flags := { c.flags with queryOutstanding := true } } : ConnEntry).startAfterSend := by
  have hdata : x.frame.kind ≠ .data := by rcases h with h | h <;> rw [h] <;> nofun
  simp only [ConnEntry.sentLive, if_neg hdata, (isStatus_iff _).2 h, hquery, Bool.and_self, if_true]

theorem sentLive_accept (h : x.frame.kind = .accept) : c.sentLive x = { c with controlDue := .none } := by
  have hstatus : FrameKind.accept.isStatus = false := rfl
  have hdata : ¬ FrameKind.accept = .data := nofun
  simp only [ConnEntry.sentLive, h, if_neg hdata, hstatus, Bool.false_and, Bool.false_eq_true, if_false, if_true]

theorem sentLive_other (hdata : x.frame.kind ≠ .data) (haccept : x.frame.kind ≠ .accept)
    (hquery : (x.frame.kind.isStatus && x.discharged.queryDue) = false) : c.sentLive x = c := by
  simp only [ConnEntry.sentLive, if_neg hdata, if_neg haccept, hquery, Bool.false_eq_true, if_false]

theorem setEntry_sameTurn (c : ConnEntry) : SameTurn s (s.setEntry e c) := (setEntry_aside s e c).sameTurn

end

theorem not_sole (h : ¬ s.turn.list.any (·.present) = false) : s.turn.sole = false :=
  Bool.eq_false_iff.2 fun hsole => h (sole_iff.1 hsole)

/-- R139: the last TURN, spelled out for a part that has the same turn. -/
theorem passes_eq {t : State} (hsame : SameTurn s t) (a : Byte) :
    (t.clearTx.withTurn { s.turn with target := some a }).sendTurn a =
      { t with
        line := { s.line with receiving := false }
        stats := if s.line.receiving then s.stats.checkError else s.stats
        turn := { s.turn with target := some a }
        sched :=
          { t.sched with
            tx :=
              some
                { origin := .turn a
                  frame :=
                    { dest := a, src := s.config.station, kind := .turn, dci := 0xFF, sci := 0xFF, seq := 0,
                      payload := [] }
                  sn := none, discharged := {}, detached := false } } } := by
  rw [State.sendTurn, startFrame_eq, ← hsame.line, ← hsame.stats, ← hsame.config]
  rfl

theorem originSent_stray {s : State} {x : TxRecord} (ho : x.origin = .stray) :
    s.originSent x = s.withSched { s.sched with strays := s.sched.strays.drop 1 } := by
  unfold State.originSent
  rw [ho]

/-- Settles O45. -/
theorem endOfTransmissionAtTheOrigin : Obligations.EndOfTransmissionAtTheOrigin := by
  intro s x hx more spent sole cleared counts ended hended running
  obtain ⟨ended', hends, heq⟩ : ∃ ended', EndsAs s ended' ∧ ∀ t, SameTurn s t → ended' t = ended t := by
    rcases hended with ⟨h, hsole, hspent, hruns, rfl⟩ | ⟨h, hsole, hover, rfl⟩ | ⟨h, hsole, hruns, rfl⟩ |
      ⟨h, hsole, hexpired, rfl⟩ | ⟨h, hsole, rfl⟩ | ⟨h, a, ha, rfl⟩ | ⟨h, rfl⟩
    · exact ⟨_, .goes h (not_sole hsole) hspent hruns, fun _ _ => rfl⟩
    · exact ⟨_, .ends h (not_sole hsole) hover, fun _ _ => rfl⟩
    · exact ⟨_, .sole h (sole_iff.2 hsole) hruns, fun _ _ => rfl⟩
    · exact ⟨_, .renews h (sole_iff.2 hsole) hexpired, fun _ _ => rfl⟩
    · exact ⟨_, .leaves h (sole_iff.2 hsole), fun _ _ => rfl⟩
    · exact ⟨_, .passes a h ha, fun _ hsame => passes_eq hsame a⟩
    · exact ⟨_, .away h, fun _ _ => rfl⟩
  have hrun : (∀ a, x.origin ≠ .turn a) → ∀ t, s.originSent x = t → SameTurn s t →
      exec .endOfTransmission s = .next (ended t) := fun ho t ht hsame => heq t hsame ▸ hends.exec hx ho ht hsame
  refine ⟨fun ho => hrun (by rw [ho]; nofun) _ (originSent_stray ho) ⟨rfl, rfl, rfl, rfl⟩, fun e ho => ?_⟩
  intro c live becomes
  have hkeeps := hrun (by rw [ho]; nofun)
  have hsets : ∀ d : ConnEntry, x.detached = false → s.frameSent e x = s.setEntry e d → becomes d :=
    fun d hattached hd => hkeeps _ ((originSent_entry ho hattached).trans hd) (setEntry_sameTurn d)
  have hsame : x.detached = false → s.frameSent e x = s → exec .endOfTransmission s = .next (ended s) :=
    fun hattached h => hkeeps _ ((originSent_entry ho hattached).trans h) .rfl
  refine ⟨fun hdetached => hkeeps _ (originSent_detached ho hdetached) .rfl, fun hattached hlive hkind => ?_,
    fun hattached hlive hkind hquery => ?_, fun hattached hlive hkind hquery => ?_,
    fun hattached hlive hdata hready hwait haccept => ?_, fun hattached hlive hkind => ?_,
    fun hattached hstate hkind => hsets _ hattached (frameSent_opening hstate hkind),
    fun hattached hstate hkind => hsets _ hattached (frameSent_closing hstate hkind),
    fun hattached hstate hnone => hsame hattached ((frameSent_deferred hstate).trans (deferred_none hnone)),
    fun hattached hstate => hsame hattached (frameSent_left hstate),
    fun sn m p hattached hkind hxsn hstate howner hunacked hmsn => ?_⟩
  · exact hsets _ hattached (by rw [frameSent_live hlive, sentLive_data hkind]; rfl)
  · exact hsets _ hattached (by rw [frameSent_live hlive, sentLive_query hkind hquery]; rfl)
  · have hother : c.sentLive x = c :=
      sentLive_other (by rcases hkind with h | h <;> rw [h] <;> nofun) (by rcases hkind with h | h <;> rw [h] <;> nofun)
        (by rw [hquery, Bool.and_false])
    exact hsets _ hattached (by rw [frameSent_live hlive, hother])
  · have hstatus : x.frame.kind.isStatus = false := Bool.eq_false_iff.2 fun h =>
      ((isStatus_iff _).1 h).elim hready hwait
    exact hsets _ hattached (by rw [frameSent_live hlive, sentLive_other hdata haccept (by rw [hstatus, Bool.false_and])])
  · exact hsets _ hattached (by rw [frameSent_live hlive, sentLive_accept hkind])
  · have hsent : s.originSent x = s.finishDeferred e sn := by
      rw [originSent_entry ho hattached, frameSent_deferred (hstate.symm.imp_right fun h => ⟨h, by rw [hkind]; nofun⟩), hxsn]
      rfl
    have haside := (finishDeferred_aside (s := s) e sn).sameTurn
    exact ⟨fun horphan => hkeeps _ (hsent.trans (finishDeferred_orphan howner hunacked hmsn horphan))
        (finishDeferred_orphan howner hunacked hmsn horphan ▸ haside),
      fun horphan => ⟨_, hkeeps _ hsent haside, finishDeferred_tells howner hunacked hmsn horphan⟩⟩

/-- Settles O46. -/
theorem endOfTransmissionAndTheTurn : Obligations.EndOfTransmissionAndTheTurn := by
  refine ⟨goOffline_eq, fun s hx => congrArg Host.Outcome.next (by rw [State.transmissionEnds, hx]),
    fun s x hx => ?_⟩
  intro clear counted next spent sole
  refine ⟨fun e ho hdetached => ?_, fun a ho => ?_⟩
  · have hrun {ended : State → State} (h : EndsAs s ended) : next (ended s) :=
      h.exec hx (fun a h => by rw [ho] at h; cases h) (originSent_detached ho hdetached) .rfl
    have hcount : (if spent then { counted with turn := { s.turn with frameCount := 0 } } else counted) =
        s.clearTx.withTurn { s.turn with frameCount := if spent then 0 else s.turn.frameCount + 1 } := by
      split <;> rfl
    refine ⟨fun h hsole hover => hrun (.ends h (not_sole hsole) hover),
      fun h hsole hspent hruns => hrun (.goes h (not_sole hsole) hspent hruns),
      fun h hsole hruns => (congrArg (fun t : State => next t.schedule) hcount).mpr (hrun (.sole h (sole_iff.2 hsole) hruns)),
      fun h hsole hexpired => (congrArg (fun t : State => next t.renewSoleTurn.schedule) hcount).mpr
        (hrun (.renews h (sole_iff.2 hsole) hexpired)),
      fun h hsole => hrun (ended := fun t => t.clearTx.goOffline) (.leaves h (sole_iff.2 hsole)), fun h a ha => ?_⟩
    refine ⟨_, hrun (.passes a h ha), ?_⟩
    rw [passes_eq .rfl]
    exact ⟨rfl, ⟨_, rfl, rfl, rfl⟩, rfl, rfl, rfl, rfl⟩
  · have hrun {t : State} (h : clear.turnSent (.turn a) = t) : next t.schedule := by
      refine congrArg _ ((transmissionEnds_eq hx).trans ?_)
      have horigin : s.originSent x = s := by
        unfold State.originSent
        rw [ho]
      rw [horigin, ho, ← h]
      rfl
    have hcase := turnSent_turn (s := clear) a
    have hengine : clear.turn.engine = s.turn.engine := rfl
    rw [hengine] at hcase
    refine ⟨fun h => ?_, fun h => ?_, fun h => ?_, fun h => ?_⟩
    · rw [h] at hcase
      have haway := schedule_away (s := clear.withTurn { s.turn with responseTimer := some clear.config.responseTime })
        (by rw [withTurn_turn, h]; nofun)
      exact (hrun hcase).trans (congrArg _ haway)
    · rw [h] at hcase
      exact schedule_goOffline clear ▸ hrun hcase
    · have haway : clear.schedule = clear := schedule_away (by rcases h with h | h <;> rw [hengine, h] <;> nofun)
      have hkeeps : clear.turnSent (.turn a) = clear := by rcases h with h | h <;> rw [hcase, h]
      exact haway ▸ hrun hkeeps
    · rw [h] at hcase
      exact hrun hcase

/-! ### The transmit fault -/

/-- R125, R138: the turn controller as it waits for a turn. -/
def TurnController.awaiting (c : TurnController) (g : ConfigUnit) : TurnController :=
  { c with engine := .waiting, lostTimer := some g.lostTime, holdTimer := none, responseTimer := none }

theorem turnFault_holding (h : s.turn.engine = .holding) :
    s.turnFault = (s.withTurn (s.turn.awaiting s.config)).lineEvent .txFault := by
  unfold State.turnFault
  rw [h]
  rfl

theorem turnFault_handing (h : s.turn.engine = .handing) :
    s.turnFault = (s.withTurn (s.turn.noHandover.awaiting s.config)).lineEvent .txFault := by
  unfold State.turnFault
  rw [h]
  rfl

theorem turnFault_stopping (h : s.turn.engine = .stopping) : s.turnFault = (s.lineEvent .txFault).goOffline := by
  unfold State.turnFault
  rw [h]

section
variable {x : TxRecord}

theorem originFailed_detached (ho : x.origin = .entry e) (h : x.detached = true) : s.originFailed x = s := by
  simp only [State.originFailed, ho, h, if_true]

theorem originFailed_entry (ho : x.origin = .entry e) (h : x.detached = false) :
    s.originFailed x = s.frameFailed e x := by
  simp only [State.originFailed, ho, h, Bool.false_eq_true, if_false]

theorem originFailed_other (ho : ∀ e, x.origin ≠ .entry e) : s.originFailed x = s := by
  unfold State.originFailed
  cases horigin : x.origin with
  | entry e => exact absurd horigin (ho e)
  | stray => rfl
  | turn a => rfl

theorem frameFailed_live (h : (s.entry e).state = .opened ∨ (s.entry e).state = .draining) :
    s.frameFailed e x =
      s.setEntry e
        (({ s.entry e with flags := (s.entry e).flags.restore x.discharged } : ConnEntry).remark x.sn) := by
  rcases h with h | h <;> simp only [State.frameFailed, h, modEntry_eq]

theorem frameFailed_before (h : (s.entry e).state = .free ∨ (s.entry e).state = .opening) : s.frameFailed e x = s := by
  rcases h with h | h <;> simp only [State.frameFailed, h]

/-- R18: a fault of a frame of an entry that has left OPEN and DRAINING. -/
theorem frameFailed_deferred (h : (s.entry e).state = .closing ∨ (s.entry e).state = .ended) :
    s.frameFailed e x = x.sn.elim s (s.finishDeferred e) := by
  rcases h with h | h
  all_goals
    simp only [State.frameFailed, h]
    cases x.sn <;> rfl

end

theorem transmissionFails_eq {x : TxRecord} (hx : s.sched.tx = some x) :
    s.transmissionFails = ((s.originFailed x).clearTx).turnFault := by
  rw [State.transmissionFails, hx]

/-- Settles O47. -/
theorem transmitFaultRestores : Obligations.TransmitFaultRestores := by
  refine ⟨fun s hx => congrArg Host.Outcome.next (by rw [State.transmissionFails, hx]), fun s x hx => ?_⟩
  intro lost waiting cleared faulted hfaulted
  have hturn : ∀ t, SameTurn s t → t.clearTx.turnFault = faulted t := by
    rintro t ⟨hturn, hconfig, -, -⟩
    have hturn' : t.clearTx.turn = s.turn := hturn
    have hconfig' : t.clearTx.config = s.config := hconfig
    rcases hfaulted with ⟨h, rfl⟩ | ⟨h, rfl⟩ | ⟨h, rfl⟩
    · rw [turnFault_holding (by rw [hturn', h]), hturn', hconfig']
      rfl
    · rw [turnFault_handing (by rw [hturn', h]), hturn', hconfig']
      rfl
    · exact turnFault_stopping (by rw [hturn', h])
  have hrun : ∀ t, s.originFailed x = t → SameTurn s t → exec .transmitFault s = .next (faulted t) := by
    intro t ht hsame
    refine congrArg Host.Outcome.next ?_
    rw [transmissionFails_eq hx, ht, hturn t hsame]
  refine ⟨fun ho => hrun _ (originFailed_other fun e h => by rw [ho] at h; cases h) .rfl,
    fun a ho => hrun _ (originFailed_other fun e h => by rw [ho] at h; cases h) .rfl, fun e ho => ?_⟩
  intro c d
  have hsame (hattached : x.detached = false) (h : s.frameFailed e x = s) : exec .transmitFault s = .next (faulted s) :=
    hrun _ ((originFailed_entry ho hattached).trans h) .rfl
  refine ⟨fun h => ?_, fun hattached hlive => ?_, fun sn m p hattached hxsn hstate howner hunacked hmsn => ?_⟩
  · cases hdetached : x.detached with
    | true => exact hrun _ (originFailed_detached ho hdetached) .rfl
    | false =>
      rcases h with h | h | h | ⟨hstate, hnone⟩
      · rw [hdetached] at h
        cases h
      · exact hsame hdetached (frameFailed_before (.inl h))
      · exact hsame hdetached (frameFailed_before (.inr h))
      · exact hsame hdetached ((frameFailed_deferred hstate).trans (deferred_none hnone))
  · exact hrun _ ((originFailed_entry ho hattached).trans (frameFailed_live hlive)) (setEntry_sameTurn _)
  · have hsent : s.originFailed x = s.finishDeferred e sn := by
      rw [originFailed_entry ho hattached, frameFailed_deferred hstate, hxsn]
      rfl
    have haside := (finishDeferred_aside (s := s) e sn).sameTurn
    exact ⟨fun horphan => hrun _ (hsent.trans (finishDeferred_orphan howner hunacked hmsn horphan))
        (finishDeferred_orphan howner hunacked hmsn horphan ▸ haside),
      fun horphan => ⟨_, hrun _ hsent haside, finishDeferred_tells howner hunacked hmsn horphan⟩⟩

end Sys2Proof.Machine
end

section
/-! Port resets: the buffers of a port given back one after the other, what is left of its entries, and the two ways
to make a port reset. -/

namespace Sys2Proof.Machine

variable {s t u : State} {p : Port} {e : EntryIdx}

/-! ### Buffers given back -/

/-- R87: the pool `b` is the pool `a` after the buffers `hs` of the port `p` have been released; its held set is then
`held`. -/
structure Returned (p : Port) (hs held : List Handle) (a b : Pool) : Prop where
  freeList : b.freeList = a.freeList ++ hs
  mem : b.mem = a.mem
  own : b.account p = { a.account p with charge := (a.account p).charge - hs.length, held := held }
  other : ∀ q, q ≠ p → b.account q = a.account q

theorem Returned.rfl {a : Pool} : Returned p [] (a.account p).held a a :=
  ⟨(List.append_nil _).symm, Eq.refl _, Eq.refl _, fun _ _ => Eq.refl _⟩

theorem Returned.trans {a b c : Pool} {hs ks held held' : List Handle} (h : Returned p hs held a b)
    (k : Returned p ks held' b c) : Returned p (hs ++ ks) held' a c where
  freeList := by rw [k.freeList, h.freeList, List.append_assoc]
  mem := k.mem.trans h.mem
  own := by rw [k.own, h.own, List.length_append, Nat.sub_add_eq]
  other q hq := (k.other q hq).trans (h.other q hq)

theorem release_returned (a : Pool) (p : Port) (h : Handle) : Returned p [h] (a.account p).held a (a.release p h) :=
  ⟨release_freeList a p h, release_mem a p h, release_account a p h,
    fun _ hq => release_account_other a h (Ne.symm hq)⟩

theorem releaseAll_returned (s : State) (p : Port) (hs : List Handle) :
    Returned p hs (s.account p).held s.pool (s.releaseAll p hs).pool := by
  induction hs generalizing s with
  | nil => exact .rfl
  | cons h rest ih =>
    have hrest := ih (s.release p h)
    have hheld : ((s.release p h).account p).held = (s.account p).held :=
      (congrArg Account.held (release_returned s.pool p h).own :)
    rw [hheld] at hrest
    exact (release_returned s.pool p h).trans hrest

/-- R85: a release takes no allocation away from any port. -/
theorem Returned.canAllocate {hs held : List Handle} {a b : Pool} (h : Returned p hs held a b) {q : Port}
    (hcan : a.canAllocate q = true) : b.canAllocate q = true := by
  have hunused : ∀ k, (b.account k).unused ≤ (a.account k).unused + if k = p then hs.length else 0 := by
    intro k
    by_cases hk : k = p
    · subst hk
      rw [h.own, if_pos (Eq.refl _)]
      simp only [Account.unused]
      omega
    · rw [h.other k hk]
      exact Nat.le_add_right _ _
  have htotal : b.unusedTotal ≤ a.unusedTotal + hs.length := by
    have h0 := hunused 0
    have h1 := hunused 1
    have h2 := hunused 2
    have h3 := hunused 3
    simp only [Pool.unusedTotal, sum_four]
    have hone : (if (0 : Port) = p then hs.length else 0) + (if (1 : Port) = p then hs.length else 0) +
        (if (2 : Port) = p then hs.length else 0) + (if (3 : Port) = p then hs.length else 0) = hs.length := by
      fin_cases p <;> simp
    omega
  have hfree : b.freeList.length = a.freeList.length + hs.length := by rw [h.freeList, List.length_append]
  have ha := unusedTotal_eq a q
  have hb := unusedTotal_eq b q
  simp only [Pool.canAllocate, Bool.or_eq_true, Bool.and_eq_true, decide_eq_true_eq] at hcan ⊢
  by_cases hq : q = p
  · subst hq
    have hothers : b.unusedOthers q = a.unusedOthers q := by
      unfold Pool.unusedOthers
      refine congrArg List.sum (List.map_congr_left fun k hk => ?_)
      rw [h.other k (by simpa using (List.mem_filter.1 hk).2)]
    rw [h.own, hothers, hfree]
    dsimp only
    omega
  · rw [h.other q hq] at hb ⊢
    omega

/-- R85: what a port holds is nothing to an allocation. -/
theorem Returned.canAllocate_none {held : List Handle} {a b : Pool} (h : Returned p [] held a b) (q : Port) :
    a.canAllocate q = b.canAllocate q := by
  have hback : Returned p [] (a.account p).held b a :=
    ⟨by rw [h.freeList, List.append_nil, List.append_nil], h.mem.symm, by rw [h.own]; rfl,
      fun q hq => (h.other q hq).symm⟩
  exact Bool.eq_iff_iff.2 ⟨h.canAllocate, hback.canAllocate⟩

/-- R88: only the last of several re-evaluations counts, when the pool only gains in between. -/
theorem reconsider_reconsider {a b : Pool} (h : ∀ q, a.canAllocate q = true → b.canAllocate q = true)
    (c : ConnEntry) : (c.reconsider a).reconsider b = c.reconsider b := by
  cases howner : c.owner with
  | none => rw [reconsider_unowned howner]
  | some q =>
    by_cases hstarved : c.flags.starved = true
    · by_cases hroom : a.canAllocate q = true
      · have hfed : (c.reconsider a).flags.starved = false := by
          rw [reconsider_hungry howner hroom hstarved, settleTimer_eq]
          rfl
        rw [reconsider_fed b hfed, reconsider_hungry howner hroom hstarved,
          reconsider_hungry howner (h q hroom) hstarved]
      · rw [reconsider_refused howner (Bool.eq_false_iff.2 hroom)]
    · rw [reconsider_fed a (Bool.eq_false_iff.2 hstarved)]

/-- R88: an entry after the release of the buffers `hs` has left the pool `b`. -/
def ConnEntry.nudged (c : ConnEntry) (hs : List Handle) (b : Pool) : ConnEntry :=
  if hs = [] then c else c.reconsider b

theorem nudged_trans {ks held : List Handle} {b c : Pool} (k : Returned p ks held b c) (hs : List Handle)
    (d : ConnEntry) : (d.nudged hs b).nudged ks c = d.nudged (hs ++ ks) c := by
  unfold ConnEntry.nudged
  by_cases hks : ks = []
  · subst hks
    by_cases hhs : hs = []
    · simp [hhs]
    · have hsame : d.reconsider b = d.reconsider c := by
        unfold ConnEntry.reconsider
        simp only [k.canAllocate_none]
      simp [hhs, hsame]
  · by_cases hhs : hs = []
    · simp [hhs, hks]
    · simp [hhs, hks, reconsider_reconsider fun q => k.canAllocate]

theorem nudged_fed {c : ConnEntry} (h : c.flags.starved = false) (hs : List Handle) (b : Pool) : c.nudged hs b = c := by
  unfold ConnEntry.nudged
  rw [reconsider_fed b h, ite_self]

theorem releaseAll_nudged (s : State) (p : Port) (hs : List Handle) (k : EntryIdx) :
    (s.releaseAll p hs).entry k = (s.entry k).nudged hs (s.releaseAll p hs).pool := by
  induction hs generalizing s with
  | nil => rfl
  | cons h rest ih =>
    have hfirst : (s.release p h).entry k = (s.entry k).nudged [h] (s.release p h).pool := by
      rw [release_entry, release_pool]
      rfl
    have hrest := ih (s.release p h)
    rw [hfirst, nudged_trans (releaseAll_returned (s.release p h) p rest)] at hrest
    exact hrest

/-! ### The port's entries -/

/-- The entry is the port's own. -/
abbrev State.owned (s : State) (p : Port) (e : EntryIdx) : Prop :=
  (s.entry e).owner = some p ∧ (s.entry e).orphan = false

/-- R22: what a port reset makes of an entry of the port. -/
def ConnEntry.resetForm (c : ConnEntry) (onLine : Option Seq) : ConnEntry :=
  match c.state with
  | .free => c
  | .opening => {}
  | .opened | .draining => { (c.toClosing.keepOnly onLine) with orphan := true, notices := [] }
  | .closing => if c.closeFinished then {} else { c with orphan := true, notices := [] }
  | .ended => if c.unacked = [] then {} else { c.toClosing with orphan := true, notices := [] }

/-- R22: the buffers of the entry that a port reset gives back, in their order. -/
def ConnEntry.resetBuffers (c : ConnEntry) (onLine : Option Seq) : List Handle :=
  match c.state with
  | .opened | .draining =>
    (c.unacked.filter fun m => some m.sn ≠ onLine).map (·.msg.handle) ++ c.sendQueue.map (·.handle) ++
      c.notices.filterMap Notice.buffer
  | .closing | .ended => c.notices.filterMap Notice.buffer
  | .free | .opening => []

/-- R22: the entry returns to FREE at a port reset. -/
def ConnEntry.resetFrees (c : ConnEntry) : Prop :=
  c.state = .opening ∨ (c.state = .closing ∧ c.closeFinished = true) ∨ (c.state = .ended ∧ c.unacked = [])

theorem nudged_fields (c : ConnEntry) (hs : List Handle) (b : Pool) :
    ∃ f x y, c.nudged hs b = { c with flags := f, answerTimer := x, answerPhase := y } := by
  unfold ConnEntry.nudged
  split
  · exact ⟨_, _, _, rfl⟩
  · exact ⟨_, _, _, reconsider_eq b c⟩

/-- R22: a port reset does not ask what a release before it has made of the flags and the answer timer. -/
theorem nudged_resetBuffers (c : ConnEntry) (hs : List Handle) (b : Pool) (o : Option Seq) :
    (c.nudged hs b).resetBuffers o = c.resetBuffers o := by
  obtain ⟨f, x, y, h⟩ := nudged_fields c hs b
  rw [h]
  rfl

theorem nudged_resetFrees (c : ConnEntry) (hs : List Handle) (b : Pool) :
    (c.nudged hs b).resetFrees ↔ c.resetFrees := by
  obtain ⟨f, x, y, h⟩ := nudged_fields c hs b
  rw [h]
  rfl

theorem nudged_resetForm {c : ConnEntry} {o : Option Seq} (hstarved : (c.resetForm o).flags.starved = false)
    (hstate : c.state ≠ .free) (hs : List Handle) (b : Pool) : (c.nudged hs b).resetForm o = c.resetForm o := by
  obtain ⟨f, x, y, h⟩ := nudged_fields c hs b
  by_cases hclosing : c.state = .closing ∧ c.closeFinished = false
  · obtain ⟨hclosing, hfinished⟩ := hclosing
    have hfed : c.flags.starved = false := by
      simpa [ConnEntry.resetForm, hclosing, hfinished] using hstarved
    rw [nudged_fed hfed]
  · rw [h]
    unfold ConnEntry.resetForm
    dsimp only
    cases hc : c.state with
    | free => exact absurd hc hstate
    | closing =>
      have hfinished : c.closeFinished = true := by simpa [hc] using hclosing
      simp only [hfinished, if_true]
    | opening => rfl
    | opened => rfl
    | draining => rfl
    | ended => rfl

/-- R22: the buffers that a port reset gives back for the entry. -/
def State.resetBuffers (s : State) (p : Port) (e : EntryIdx) : List Handle :=
  if s.owned p e then (s.entry e).resetBuffers (s.messageOnLine e) else []

/-- R17, R22: what a port reset of the port does of the frame on the line, when it frees entries among `es`. -/
structure Detaches (s : State) (p : Port) (es : List EntryIdx) (t : State) : Prop where
  absent : s.sched.tx = none → t.sched.tx = none
  freed : ∀ x e, s.sched.tx = some x → x.origin = .entry e → e ∈ es → s.owned p e → (s.entry e).resetFrees →
    t.sched.tx = some { x with detached := true }
  stays : ∀ x, s.sched.tx = some x →
    (∀ e, x.origin = .entry e → ¬ (e ∈ es ∧ s.owned p e ∧ (s.entry e).resetFrees)) → t.sched.tx = some x

/-- R22: the port's entries among `es` have been reset, one after the other. -/
structure ResetThese (s : State) (p : Port) (es : List EntryIdx) (t : State) : Prop where
  pool : Returned p (es.flatMap (s.resetBuffers p)) (s.account p).held s.pool t.pool
  nudged : ∀ k, (k ∉ es ∨ ¬ s.owned p k) → t.entry k = (s.entry k).nudged (es.flatMap (s.resetBuffers p)) t.pool
  form : ∀ k ∈ es, s.owned p k → (s.entry k).state ≠ .free →
    ((s.entry k).resetForm (s.messageOnLine k)).flags.starved = false →
    t.entry k = (s.entry k).resetForm (s.messageOnLine k)
  detaches : Detaches s p es t
  rest : t = { s with entries := t.entries, pool := t.pool, sched := { s.sched with tx := t.sched.tx } }

theorem Detaches.of_same {es : List EntryIdx} (htx : t.sched.tx = s.sched.tx)
    (h : ∀ e ∈ es, s.owned p e → ¬ (s.entry e).resetFrees) : Detaches s p es t :=
  ⟨fun hs => htx.trans hs, fun _ e _ _ he howned hfrees => absurd hfrees (h e he howned), fun _ hs _ => htx.trans hs⟩

theorem Detaches.messageOnLine {es : List EntryIdx} (h : Detaches s p es t) {k : EntryIdx} (hk : k ∉ es) :
    t.messageOnLine k = s.messageOnLine k := by
  rw [messageOnLine_eq, messageOnLine_eq]
  cases hx : s.sched.tx with
  | none => rw [h.absent hx]
  | some x =>
    by_cases hfreed : ∃ e, x.origin = .entry e ∧ e ∈ es ∧ s.owned p e ∧ (s.entry e).resetFrees
    · obtain ⟨e, ho, he, howned, hfrees⟩ := hfreed
      have hek : e ≠ k := fun hek => hk (hek ▸ he)
      rw [h.freed x e hx ho he howned hfrees]
      simp [ho, hek]
    · rw [h.stays x hx fun e ho hfrees => hfreed ⟨e, ho, hfrees⟩]

/-- What an entry that is not reset leaves. -/
theorem ResetThese.none (h : s.resetBuffers p e = []) (hform : ¬ s.owned p e ∨ (s.entry e).state = .free) :
    ResetThese s p [e] s := by
  have hnone : [e].flatMap (s.resetBuffers p) = [] := by rw [List.flatMap_singleton, h]
  have hfree : s.owned p e → (s.entry e).state = .free := fun howned => hform.resolve_left (not_not.2 howned)
  refine ⟨by rw [hnone]; exact .rfl, fun k _ => by rw [hnone]; rfl, fun k hk howned hstate _ => ?_,
    .of_same rfl fun k hk howned hfrees => ?_, rfl⟩
  · rw [List.mem_singleton.1 hk] at howned hstate
    exact absurd (hfree howned) hstate
  · rw [List.mem_singleton.1 hk] at howned hfrees
    simp [ConnEntry.resetFrees, hfree howned] at hfrees

/-- A part that differs in the entries and the pool alone. -/
theorem Aside.eq_with (h : Aside s t) (hports : t.ports = s.ports) :
    t = { s with entries := t.entries, pool := t.pool } := by
  obtain ⟨h1, h2, h3, h4, h5, h6, h7, h8⟩ := h
  cases t
  cases h1; cases h2; cases h3; cases h4; cases h5; cases h6; cases h7; cases h8; cases hports
  rfl

/-- R22: an entry of the port that stays in use. -/
theorem ResetThese.keeps {d : ConnEntry} {hs : List Handle} (howned : s.owned p e)
    (hbuffers : (s.entry e).resetBuffers (s.messageOnLine e) = hs)
    (hform : (s.entry e).resetForm (s.messageOnLine e) = d) (hfrees : ¬ (s.entry e).resetFrees) :
    ResetThese s p [e] ((s.setEntry e d).releaseAll p hs) := by
  have hR : [e].flatMap (s.resetBuffers p) = hs := by
    rw [List.flatMap_singleton, State.resetBuffers, if_pos howned, hbuffers]
  have haside := releaseAll_aside (s.setEntry e d) p hs
  refine ⟨hR ▸ releaseAll_returned (s.setEntry e d) p hs, fun k hk => ?_, fun k hk _ _ hfed => ?_,
    .of_same (congrArg Scheduler.tx haside.sched) fun k hk _ => ?_, ?_⟩
  · have hek : e ≠ k := by
      rcases hk with hk | hk
      · exact fun h => hk (List.mem_singleton.2 h.symm)
      · exact fun h => hk (h ▸ howned)
    rw [releaseAll_nudged, hR, entry_setEntry_other _ _ hek]
  · obtain rfl := List.mem_singleton.1 hk
    rw [hform] at hfed ⊢
    rw [releaseAll_nudged, entry_setEntry_same, nudged_fed hfed]
  · rw [List.mem_singleton.1 hk]
    exact hfrees
  · have hrest := haside.eq_with (releaseAll_ports _ p hs)
    generalize (s.setEntry e d).releaseAll p hs = t at hrest
    rw [hrest]
    rfl

/-- R1, R22: an entry of the port that returns to FREE, once its buffers have been given back. -/
theorem ResetThese.frees {d : ConnEntry} {hs : List Handle} (howned : s.owned p e)
    (hbuffers : (s.entry e).resetBuffers (s.messageOnLine e) = hs)
    (hform : (s.entry e).resetForm (s.messageOnLine e) = {}) (hfrees : (s.entry e).resetFrees) :
    ResetThese s p [e] (((s.setEntry e d).releaseAll p hs).freeEntry e) := by
  have hR : [e].flatMap (s.resetBuffers p) = hs := by
    rw [List.flatMap_singleton, State.resetBuffers, if_pos howned, hbuffers]
  have haside := releaseAll_aside (s.setEntry e d) p hs
  have htx : ((s.setEntry e d).releaseAll p hs).sched.tx = s.sched.tx := congrArg Scheduler.tx haside.sched
  have hpool : (((s.setEntry e d).releaseAll p hs).freeEntry e).pool = ((s.setEntry e d).releaseAll p hs).pool := by
    rw [freeEntry_eq]
  have hfreed : (((s.setEntry e d).releaseAll p hs).freeEntry e).sched.tx =
      s.sched.tx.map (TxRecord.detachFrom e) := by
    rw [freeEntry_eq, ← htx]
  refine ⟨hpool ▸ hR ▸ releaseAll_returned (s.setEntry e d) p hs, fun k hk => ?_, fun k hk _ _ _ => ?_,
    ⟨fun hnone => by rw [hfreed, hnone]; rfl, fun x k hx ho hk _ _ => ?_, fun x hx hno => ?_⟩, ?_⟩
  · have hek : e ≠ k := by
      rcases hk with hk | hk
      · exact fun h => hk (List.mem_singleton.2 h.symm)
      · exact fun h => hk (h ▸ howned)
    rw [freeEntry_entry_other _ hek, releaseAll_nudged, hR, entry_setEntry_other _ _ hek, hpool]
  · obtain rfl := List.mem_singleton.1 hk
    rw [hform, freeEntry_entry]
  · obtain rfl := List.mem_singleton.1 hk
    rw [hfreed, hx]
    simp [TxRecord.detachFrom, ho]
  · have hother : x.origin ≠ .entry e := fun ho => hno e ho ⟨List.mem_singleton_self _, howned, hfrees⟩
    rw [hfreed, hx]
    simp [TxRecord.detachFrom, hother]
  · have hrest := haside.eq_with (releaseAll_ports _ p hs)
    generalize (s.setEntry e d).releaseAll p hs = t at hrest
    rw [freeEntry_eq, hrest]
    rfl

/-- R22: a port reset's effect on one entry. -/
theorem resetEntry_resets (s : State) (p : Port) (e : EntryIdx) : ResetThese s p [e] (s.resetEntry p e) := by
  by_cases howned : s.owned p e
  · have hif : (decide ((s.entry e).owner = some p) && !(s.entry e).orphan) = true := by
      simp [howned.1, howned.2]
    unfold State.resetEntry
    rw [if_pos hif]
    have hmap : ∀ o, ((s.entry e).messagesBut o).map (·.handle) ++ noticeBuffers (s.entry e).notices =
        ((s.entry e).unacked.filter fun m => some m.sn ≠ o).map (·.msg.handle) ++
          (s.entry e).sendQueue.map (·.handle) ++ (s.entry e).notices.filterMap Notice.buffer := fun o => by
      simp [ConnEntry.messagesBut, noticeBuffers]
    cases hstate : (s.entry e).state with
    | free => exact .none (by simp [State.resetBuffers, ConnEntry.resetBuffers, hstate]) (.inr hstate)
    | opening =>
      have hsame : ((s.setEntry e (s.entry e)).releaseAll p []).freeEntry e = s.freeEntry e := by
        rw [setEntry_entry]
        rfl
      exact hsame ▸ .frees howned (by simp [ConnEntry.resetBuffers, hstate])
        (by simp [ConnEntry.resetForm, hstate]) (.inl hstate)
    | opened =>
      exact .keeps howned (by simp only [ConnEntry.resetBuffers, hstate, hmap])
        (by simp only [ConnEntry.resetForm, hstate]) (by simp [ConnEntry.resetFrees, hstate])
    | draining =>
      exact .keeps howned (by simp only [ConnEntry.resetBuffers, hstate, hmap])
        (by simp only [ConnEntry.resetForm, hstate]) (by simp [ConnEntry.resetFrees, hstate])
    | closing =>
      by_cases hfinished : (s.entry e).closeFinished = true
      · simp only [hfinished, if_true]
        exact .frees howned (by simp only [ConnEntry.resetBuffers, hstate]; rfl)
          (by simp only [ConnEntry.resetForm, hstate, hfinished, if_true]) (.inr (.inl ⟨hstate, hfinished⟩))
      · simp only [hfinished]
        exact .keeps howned (by simp only [ConnEntry.resetBuffers, hstate]; rfl)
          (by simp [ConnEntry.resetForm, hstate, hfinished]) (by simp [ConnEntry.resetFrees, hstate, hfinished])
    | ended =>
      by_cases hempty : (s.entry e).unacked = []
      · simp only [hempty, List.isEmpty_nil, if_true]
        exact .frees howned (by simp only [ConnEntry.resetBuffers, hstate]; rfl)
          (by simp only [ConnEntry.resetForm, hstate, hempty, if_true]) (.inr (.inr ⟨hstate, hempty⟩))
      · simp only [List.isEmpty_iff, hempty, if_false]
        exact .keeps howned (by simp only [ConnEntry.resetBuffers, hstate]; rfl)
          (by simp only [ConnEntry.resetForm, hstate, hempty, if_false]) (by simp [ConnEntry.resetFrees, hstate, hempty])
  · have hif : ¬ (decide ((s.entry e).owner = some p) && !(s.entry e).orphan) = true := by
      simpa [State.owned] using howned
    unfold State.resetEntry
    rw [if_neg hif]
    exact .none (if_neg howned) (.inl howned)

section
variable {es : List EntryIdx}

theorem ResetThese.rfl : ResetThese s p [] s :=
  ⟨.rfl, fun _ _ => Eq.refl _, fun _ hk => absurd hk List.not_mem_nil, .of_same (Eq.refl _) fun _ hk => absurd hk
    List.not_mem_nil, Eq.refl _⟩

theorem ResetThese.owned_iff (h : ResetThese s p es t) (he : e ∉ es) : t.owned p e ↔ s.owned p e := by
  obtain ⟨f, x, y, hfields⟩ := nudged_fields (s.entry e) (es.flatMap (s.resetBuffers p)) t.pool
  rw [State.owned, h.nudged e (.inl he), hfields]

theorem ResetThese.buffers_eq (h : ResetThese s p es t) (he : e ∉ es) : t.resetBuffers p e = s.resetBuffers p e := by
  unfold State.resetBuffers
  simp only [h.owned_iff he, h.detaches.messageOnLine he, h.nudged e (.inl he), nudged_resetBuffers]

theorem ResetThese.frees_iff (h : ResetThese s p es t) (he : e ∉ es) :
    (t.entry e).resetFrees ↔ (s.entry e).resetFrees := by
  rw [h.nudged e (.inl he), nudged_resetFrees]

theorem Detaches.append {k : EntryIdx} (h : Detaches s p es t) (howned : t.owned p k ↔ s.owned p k)
    (hfrees : (t.entry k).resetFrees ↔ (s.entry k).resetFrees) (hk : k ∉ es) (hnext : Detaches t p [k] u) :
    Detaches s p (es ++ [k]) u := by
  refine ⟨fun hs => hnext.absent (h.absent hs), fun x e hx ho he hown hfree => ?_, fun x hx hno => ?_⟩
  · rcases List.mem_append.1 he with he | he
    · refine hnext.stays _ (h.freed x e hx ho he hown hfree) fun e' ho' hcase => hk ?_
      obtain rfl : e = e' := by injection ho.symm.trans ho'
      exact List.mem_singleton.1 hcase.1 ▸ he
    · obtain rfl := List.mem_singleton.1 he
      refine hnext.freed x e (h.stays x hx fun e' ho' hcase => hk ?_) ho (List.mem_singleton_self _)
        (howned.2 hown) (hfrees.2 hfree)
      obtain rfl : e = e' := by injection ho.symm.trans ho'
      exact hcase.1
  · refine hnext.stays x (h.stays x hx fun e ho hcase => hno e ho ⟨List.mem_append_left _ hcase.1, hcase.2⟩)
      fun e ho hcase => hno e ho ?_
    obtain rfl := List.mem_singleton.1 hcase.1
    exact ⟨List.mem_append_right _ hcase.1, howned.1 hcase.2.1, hfrees.1 hcase.2.2⟩

/-- R22: one more entry of the port is reset. -/
theorem ResetThese.append {k : EntryIdx} (h : ResetThese s p es t) (hk : k ∉ es) (hnext : ResetThese t p [k] u) :
    ResetThese s p (es ++ [k]) u := by
  have hR : (es ++ [k]).flatMap (s.resetBuffers p) = es.flatMap (s.resetBuffers p) ++ s.resetBuffers p k := by
    rw [List.flatMap_append, List.flatMap_singleton]
  have hone : [k].flatMap (t.resetBuffers p) = s.resetBuffers p k := by
    rw [List.flatMap_singleton, h.buffers_eq hk]
  have hpool := hnext.pool
  rw [hone] at hpool
  have hheld : (t.account p).held = (s.account p).held := (congrArg Account.held h.pool.own :)
  rw [hheld] at hpool
  refine ⟨hR ▸ h.pool.trans hpool, fun j hj => ?_, fun j hj howned hstate hfed => ?_,
    h.detaches.append (h.owned_iff hk) (h.frees_iff hk) hk hnext.detaches, ?_⟩
  · have hfirst : t.entry j = _ := h.nudged j (hj.imp_left fun hj hmem => hj (List.mem_append_left _ hmem))
    have hsecond := hnext.nudged j (by
      by_cases hjk : j = k
      · subst hjk
        refine .inr fun howned => ?_
        exact hj.elim (fun hj => hj (List.mem_append_right _ (List.mem_singleton_self _)))
          fun hj => hj ((h.owned_iff hk).1 howned)
      · exact .inl fun hmem => hjk (List.mem_singleton.1 hmem))
    rw [hsecond, hfirst, hone, hR, nudged_trans hpool]
  · by_cases hjk : j = k
    · subst hjk
      have hentry : t.entry j = _ := h.nudged j (.inl hk)
      have hform : (t.entry j).resetForm (t.messageOnLine j) = (s.entry j).resetForm (s.messageOnLine j) := by
        rw [h.detaches.messageOnLine hk, hentry, nudged_resetForm hfed hstate]
      have hstate' : (t.entry j).state ≠ .free := by
        obtain ⟨f, x, y, hfields⟩ := nudged_fields (s.entry j) (es.flatMap (s.resetBuffers p)) t.pool
        rwa [hentry, hfields]
      rw [hnext.form j (List.mem_singleton_self _) ((h.owned_iff hk).2 howned) hstate' (hform ▸ hfed), hform]
    · have hentry := h.form j ((List.mem_append.1 hj).resolve_right fun hj => hjk (List.mem_singleton.1 hj)) howned
        hstate hfed
      rw [hnext.nudged j (.inl fun hj => hjk (List.mem_singleton.1 hj)), hentry, nudged_fed hfed]
  · have hrest := hnext.rest
    rw [h.rest] at hrest
    exact hrest

/-- R182, step 2: any of the port's entries, one after the other. -/
theorem resetThese (hes : es.Nodup) : ResetThese s p es (es.foldl (fun t e => t.resetEntry p e) s) := by
  induction es using List.reverseRecOn with
  | nil => exact .rfl
  | append_singleton es e ih =>
    have hboth := List.nodup_append.1 hes
    have he : e ∉ es := fun he => hboth.2.2 e he e (List.mem_singleton_self _) rfl
    rw [List.foldl_append]
    exact (ih hboth.1).append he (resetEntry_resets _ p e)

end

/-! ### The whole port reset -/

/-- R182: a part `t` in which a port reset has given the buffers `hs` of the port back. -/
structure GivesBack (s : State) (p : Port) (hs held : List Handle) (t : State) : Prop where
  pool : Returned p hs held s.pool t.pool
  nudged : ∀ k, t.entry k = (s.entry k).nudged hs t.pool

/-- R182, step 3. -/
theorem resetQueue_givesBack (s : State) (p : Port) :
    GivesBack s p ((s.port p).queue.filterMap EventRecord.buffer) (s.account p).held (s.resetQueue p) ∧
      s.resetQueue p =
        { s.modPort p PortState.resetEvents with
          entries := (s.resetQueue p).entries, pool := (s.resetQueue p).pool } :=
  ⟨⟨releaseAll_returned (s.modPort p PortState.resetEvents) p _, fun k => releaseAll_nudged _ p _ k⟩,
    (releaseAll_aside (s.modPort p PortState.resetEvents) p _).eq_with (releaseAll_ports _ p _)⟩

/-- R182, step 4. -/
theorem resetHeld_givesBack (s : State) (p : Port) :
    GivesBack s p (s.account p).held [] (s.resetHeld p) ∧
      s.resetHeld p = { s with entries := (s.resetHeld p).entries, pool := (s.resetHeld p).pool } := by
  have hlet : Returned p [] [] s.pool (s.pool.modAccount p fun a => { a with held := [] }) :=
    ⟨(List.append_nil _).symm, rfl, by rw [modAccount_account, if_pos rfl]; rfl,
      fun q hq => by rw [modAccount_account, if_neg (Ne.symm hq)]⟩
  have hback := releaseAll_returned (s.withPool (s.pool.modAccount p fun a => { a with held := [] })) p (s.account p).held
  have hheld : ((s.withPool (s.pool.modAccount p fun a => { a with held := [] })).account p).held = [] :=
    (congrArg Account.held hlet.own :)
  rw [hheld] at hback
  exact ⟨⟨hlet.trans hback, fun k => releaseAll_nudged _ p _ k⟩,
    (releaseAll_aside (s.withPool (s.pool.modAccount p fun a => { a with held := [] })) p _).eq_with
      (releaseAll_ports _ p _)⟩

/-- R182: the buffers that a port reset gives back, in their order. -/
def State.resetReleases (s : State) (p : Port) : List Handle :=
  allEntries.flatMap (s.resetBuffers p) ++ (s.port p).queue.filterMap EventRecord.buffer ++ (s.account p).held

/-- R182: a port reset, step by step. -/
structure PortResets (s : State) (p : Port) (t : State) : Prop where
  pool : Returned p (s.resetReleases p) [] s.pool t.pool
  nudged : ∀ k, ¬ s.owned p k → t.entry k = (s.entry k).nudged (s.resetReleases p) t.pool
  form : ∀ k, s.owned p k → (s.entry k).state ≠ .free →
    ((s.entry k).resetForm (s.messageOnLine k)).flags.starved = false →
    t.entry k = (s.entry k).resetForm (s.messageOnLine k)
  detaches : Detaches s p allEntries t
  port : t.port p = (s.port p).resetEvents.resetTransaction
  ports : ∀ q, q ≠ p → t.port q = s.port q
  listen : t.listen = s.listen.filter fun l => l.owner ≠ p
  config : t.config = s.config.dropRight p
  sched : t.sched = { s.sched with tx := t.sched.tx }
  rest : t.pending = s.pending ∧ t.resetLow = s.resetLow ∧ t.turn = s.turn ∧ t.line = s.line ∧ t.stats = s.stats

theorem portReset_resets (s : State) (p : Port) : PortResets s p (s.portReset p) := by
  have hfirst : ResetThese (s.resetListen p) p allEntries ((s.resetListen p).resetEntries p) :=
    resetThese (List.nodup_finRange 32)
  generalize hr : s.portReset p = r
  unfold State.portReset at hr
  generalize (s.resetListen p).resetEntries p = t at hfirst hr
  obtain ⟨hqueue, hqueueRest⟩ := resetQueue_givesBack t p
  generalize t.resetQueue p = u at hqueue hqueueRest hr
  obtain ⟨hheld, hheldRest⟩ := resetHeld_givesBack u p
  generalize u.resetHeld p = v at hheld hheldRest hr
  have hport : t.port p = s.port p := by rw [hfirst.rest]; rfl
  have hkept : (t.account p).held = (s.account p).held := (congrArg Account.held hfirst.pool.own :)
  have hkept' : (u.account p).held = (s.account p).held := Eq.trans (congrArg Account.held hqueue.pool.own :) hkept
  rw [hport] at hqueue
  rw [hkept] at hqueue
  rw [hkept'] at hheld
  have hpool : Returned p (s.resetReleases p) [] s.pool v.pool := (hfirst.pool.trans hqueue.pool).trans hheld.pool
  have hports : v.ports = (s.modPort p PortState.resetEvents).ports := by
    have htports : t.ports = s.ports := (congrArg State.ports hfirst.rest :)
    have huports : u.ports = (t.modPort p PortState.resetEvents).ports := (congrArg State.ports hqueueRest :)
    have hvports : v.ports = u.ports := (congrArg State.ports hheldRest :)
    rw [hvports, huports, State.modPort, State.modPort, hport]
    exact congrArg (put · p _) htports
  have hrport : ∀ q, r.port q = if p = q then (s.port p).resetEvents.resetTransaction else s.port q := by
    intro q
    have hvport : v.port p = (s.port p).resetEvents := by
      show look v.ports p = _
      rw [hports]
      exact look_put_same _ _ _
    have hcase : r.port q = if p = q then (v.port p).resetTransaction else v.port q := by
      rw [← hr]
      exact look_put _ _ _ _
    rw [hcase, hvport]
    split
    · rfl
    · next hq =>
      show look v.ports q = _
      rw [hports]
      exact look_put_other _ _ hq
  have hsched : v.sched = { s.sched with tx := t.sched.tx } := by rw [hheldRest, hqueueRest, hfirst.rest]; rfl
  subst hr
  refine ⟨hpool, fun k hk => ?_, fun k howned hstate hfed => ?_, ?_, by rw [hrport, if_pos rfl],
    fun q hq => by rw [hrport, if_neg (Ne.symm hq)], ?_, ?_, ?_, ?_⟩
  · have hentry : v.entry k = (s.entry k).nudged (s.resetReleases p) v.pool := by
      rw [hheld.nudged, hqueue.nudged, hfirst.nudged k (.inr hk), nudged_trans hqueue.pool, nudged_trans hheld.pool]
      rfl
    exact hentry
  · have hentry : v.entry k = (s.entry k).resetForm (s.messageOnLine k) := by
      have hk : t.entry k = (s.entry k).resetForm (s.messageOnLine k) :=
        hfirst.form k (List.mem_finRange k) howned hstate hfed
      rw [hheld.nudged, hqueue.nudged, hk, nudged_fed hfed, nudged_fed hfed]
    exact hentry
  · have htx : v.sched.tx = t.sched.tx := (congrArg Scheduler.tx hsched :)
    exact ⟨fun h => htx.trans (hfirst.detaches.absent h),
      fun x e hx ho he howned hfrees => htx.trans (hfirst.detaches.freed x e hx ho he howned hfrees),
      fun x hx hno => htx.trans (hfirst.detaches.stays x hx hno)⟩
  · show v.listen = _
    rw [hheldRest, hqueueRest, hfirst.rest]
    rfl
  · have hconfig : v.config = s.config := by rw [hheldRest, hqueueRest, hfirst.rest]; rfl
    exact congrArg (·.dropRight p) hconfig
  · show v.sched = { s.sched with tx := v.sched.tx }
    rw [hsched]
  · show v.pending = s.pending ∧ v.resetLow = s.resetLow ∧ v.turn = s.turn ∧ v.line = s.line ∧ v.stats = s.stats
    rw [hheldRest, hqueueRest, hfirst.rest]
    exact ⟨rfl, rfl, rfl, rfl, rfl⟩

/-- Settles O23. -/
theorem portResetLeaves : Obligations.PortResetLeaves := by
  intro s p
  have h := portReset_resets s p
  generalize s.portReset p = t at h
  intro t' freed ofEntry released
  obtain ⟨hpending, hreset, hturn, hline, hstats⟩ := h.rest
  have hreleased : released = s.resetReleases p := by
    rfl
  have hown : t.account p =
      { s.account p with charge := (s.account p).charge - (s.resetReleases p).length, held := [] } := h.pool.own
  refine ⟨h.listen, by rw [h.port]; rfl, by rw [h.port, reset_port]; rfl, by rw [h.port]; rfl, by rw [h.port]; rfl,
    by rw [h.port]; rfl, by rw [h.port]; rfl, by rw [h.port]; rfl, by rw [h.port]; rfl, by rw [hown],
    by rw [hown], by rw [hown], by rw [h.port]; rfl, by rw [h.port]; rfl, by rw [h.port]; rfl, by rw [h.port]; rfl,
    by rw [h.port]; rfl, hpending, hreset, fun e howner horphan hstate => ?_, fun e hother => ?_,
    hreleased ▸ h.pool.freeList, by rw [hown, hreleased], h.config, hturn, h.sched, h.detaches.absent,
    fun x hx => ⟨fun e ho hfreed => ?_, fun hno => ?_⟩, hline, hstats, h.pool.mem, fun q hq => ⟨h.ports q hq, h.pool.other q hq⟩⟩
  · intro c onLine
    have hform (h' : (c.resetForm onLine).flags.starved = false) : t.entry e = c.resetForm onLine :=
      h.form e ⟨howner, horphan⟩ hstate h'
    have hbecomes {d : ConnEntry} (hd : c.resetForm onLine = d) (hfed : d.flags.starved = false) : t.entry e = d :=
      (hform (hd ▸ hfed)).trans hd
    refine ⟨fun hs => hbecomes (by simp only [ConnEntry.resetForm, hs]) rfl, fun hs => ?_,
      fun hs hfinished => hbecomes (by simp only [ConnEntry.resetForm, hs, hfinished, if_true]) rfl,
      fun hs hfinished hfed => hbecomes (by simp [ConnEntry.resetForm, hs, hfinished]) hfed,
      fun hs hempty => hbecomes (by simp only [ConnEntry.resetForm, hs, hempty, if_true]) rfl,
      fun hs hsome => hbecomes (by simp only [ConnEntry.resetForm, hs, if_neg hsome]; rfl) rfl⟩
    rcases hs with hs | hs <;> exact hbecomes (by simp only [ConnEntry.resetForm, hs]; rfl) rfl
  · have hno : ¬ s.owned p e := fun howned => hother.elim (fun h => h howned.1) fun h => by
      rw [howned.2] at h
      cases h
    have hentry := h.nudged e hno
    rw [hreleased]
    exact ⟨fun hnone => by rw [hentry, ConnEntry.nudged, if_pos hnone],
      fun hsome => by rw [hentry, ConnEntry.nudged, if_neg hsome]⟩
  · exact h.detaches.freed x e hx ho (List.mem_finRange e) ⟨hfreed.1, hfreed.2.1⟩ hfreed.2.2
  · exact h.detaches.stays x hx fun e ho hcase => hno e ho ⟨hcase.2.1.1, hcase.2.1.2, hcase.2.2⟩

/-! ### The request and the pin -/

/-- R181: the results of PORT.RESET. -/
theorem resetResults_portReset (s : State) (p : Port) :
    resetResults p s (s.portReset p) =
      [byte ((s.portReset p).pool.freeList.length - s.pool.freeList.length),
        byte (s.entriesInUse - (s.portReset p).entriesInUse), byte ((s.portReset p).orphans - s.orphans),
        byte ((s.listen.filter fun l => l.owner = p).length),
        flagByte (decide (s.config.rightHolder = some p))] := by
  have hremoved : s.listen.length - (s.portReset p).listen.length = (s.listen.filter fun l => l.owner = p).length := by
    rw [(portReset_resets s p).listen]
    have hboth := List.length_eq_length_filter_add (l := s.listen) fun l => decide (l.owner = p)
    simp only [← decide_not] at hboth
    simp only [ne_eq]
    omega
  rw [resetResults, hremoved]
  rfl

theorem answerPortReset_eq (s : State) (p : Port) :
    answerPortReset p s =
      .ok
        [byte ((s.portReset p).pool.freeList.length - s.pool.freeList.length),
          byte (s.entriesInUse - (s.portReset p).entriesInUse), byte ((s.portReset p).orphans - s.orphans),
          byte ((s.listen.filter fun l => l.owner = p).length), flagByte (decide (s.config.rightHolder = some p))]
        (s.portReset p).schedule := by
  rw [answerPortReset, resetResults_portReset]

/-- Settles O22. -/
theorem portResetByRequestAndByPin : Obligations.PortResetByRequestAndByPin := by
  refine ⟨fun s r hs hr => ?_, fun s p hlow hin => ?_, fun s p hin => ?_, fun s p hlow hin => ?_, fun s p => rfl⟩
  · intro before
    have hbytes : [(0x51 : Byte), r.tag] ++ [] ++ r.rest = [0x51, r.tag] := by rw [hr]; rfl
    have hhandle : answerPortReset r.port before =
        .ok
          [byte ((before.portReset r.port).pool.freeList.length - s.pool.freeList.length),
            byte (s.entriesInUse - (before.portReset r.port).entriesInUse),
            byte ((before.portReset r.port).orphans - s.orphans),
            byte ((s.listen.filter fun l => l.owner = r.port).length),
            flagByte (decide (s.config.rightHolder = some r.port))]
          (before.portReset r.port).schedule := by
      have hpool : before.pool = s.pool := rfl
      have huse : before.entriesInUse = s.entriesInUse := rfl
      have horphans : before.orphans = s.orphans := rfl
      have hlisten : before.listen = s.listen := rfl
      have hconfig : before.config = s.config := rfl
      rw [answerPortReset_eq, ← hpool, ← huse, ← horphans, ← hlisten, ← hconfig]
    have hidle : (((before.portReset r.port).schedule).port r.port).transaction ≠ .collect := by
      rw [schedule_transaction, (portReset_resets before r.port).port]
      nofun
    exact congrArg Host.Outcome.next
      (request_serves (fun t => (t.portReset r.port).schedule) hs hr (hbytes.symm ▸ hhandle) (hbytes.symm ▸ hidle))
  · show execPrstnAsserted p s = _
    rw [execPrstnAsserted, if_neg (by rw [hin]; nofun), if_neg (by rw [hlow]; nofun)]
  · show execPrstnAsserted p s = _
    rw [execPrstnAsserted, if_pos hin]
  · show execPrstnAsserted p s = _
    rw [execPrstnAsserted, if_neg (by rw [hin]; nofun), if_pos hlow]

end Sys2Proof.Machine
end

section
/-! Receptions: a good frame for the part, up to its routing, and what an entry or no entry makes of a control frame. -/

namespace Sys2Proof.Machine

variable {s : State} {h : RxHead} {k : FrameKind} {payload : List Byte} {e : EntryIdx}

/-! ### What a frame leaves before it is routed -/

/-- The blocks that no frame start and no turn controller touches. -/
structure Beside (s t : State) : Prop where
  entries : t.entries = s.entries
  listen : t.listen = s.listen
  pool : t.pool = s.pool
  config : t.config = s.config
  pending : t.pending = s.pending
  resetLow : t.resetLow = s.resetLow
  sched : t.sched = s.sched

theorem Beside.rfl : Beside s s := ⟨Eq.refl _, Eq.refl _, Eq.refl _, Eq.refl _, Eq.refl _, Eq.refl _, Eq.refl _⟩

theorem Beside.trans {t u : State} (h : Beside s t) (k : Beside t u) : Beside s u :=
  ⟨k.entries.trans h.entries, k.listen.trans h.listen, k.pool.trans h.pool, k.config.trans h.config,
    k.pending.trans h.pending, k.resetLow.trans h.resetLow, k.sched.trans h.sched⟩

theorem handoverSuccess_beside (s : State) : Beside s s.handoverSuccess := by
  unfold State.handoverSuccess
  dsimp only
  split
  · split
    · constructor <;> rfl
    · constructor <;> rfl
  · constructor <;> rfl

theorem turnFrameStart_beside (s : State) : Beside s s.turnFrameStart := by
  unfold State.turnFrameStart
  split
  · constructor <;> rfl
  · split
    · exact handoverSuccess_beside s
    · exact .rfl
  all_goals exact .rfl

/-- R157: the part with its frame start reported and its frame ended. -/
def State.frameOver (s : State) : State :=
  let started := if s.line.receiving then s else s.frameStarts
  { started with line := { started.line with receiving := false } }

theorem frameOver_beside (s : State) : Beside s s.frameOver := by
  have hstarts : Beside s s.frameStarts := by
    obtain ⟨h1, h2, h3, h4, h5, h6, h7⟩ := turnFrameStart_beside s
    exact ⟨h1, h2, h3, h4, h5, h6, h7⟩
  unfold State.frameOver
  dsimp only
  split
  · constructor <;> rfl
  · obtain ⟨h1, h2, h3, h4, h5, h6, h7⟩ := hstarts
    exact ⟨h1, h2, h3, h4, h5, h6, h7⟩

theorem hearStation_beside (s : State) (src : Byte) : Beside s (s.hearStation src) := by
  unfold State.hearStation
  split <;> constructor <;> rfl

theorem turnFrameEnd_beside (s : State) {f : Frame} (hkind : f.kind ≠ .turn) : Beside s (s.turnFrameEnd f) := by
  unfold State.turnFrameEnd
  simp only [hkind, decide_false, Bool.false_and, Bool.false_eq_true, if_false]
  split
  · constructor <;> rfl
  all_goals exact .rfl

/-! ### A good frame for the part -/

theorem not_deaf (hs : s.listening) : s.deaf = false := by
  obtain ⟨hlow, htx, hignoring⟩ := hs
  rw [State.deaf, hlow, htx, hignoring]
  rfl

theorem reached_eq (s : State) (f : Frame) :
    s.reached f = ((s.frameOver.withStats s.frameOver.stats.frameForUs).hearStation f.src).turnFrameEnd f := rfl

/-- R160: a frame that ends at a part that hears it. -/
theorem receiveFrame_heard (hs : s.listening) (verdict : Byte → Verdict) :
    s.receiveFrame verdict = s.frameOver.takeVerdict (verdict s.config.station) := by
  have hif : ¬ s.deaf = true := Bool.eq_false_iff.1 (not_deaf hs)
  rw [← (frameOver_beside s).config, State.receiveFrame, if_neg hif]
  rfl

/-- R163: a good frame for the part. -/
theorem receiveFrame_good (hs : s.listening) {verdict : Byte → Verdict} {f : Frame}
    (hgood : verdict s.config.station = .good f) (hours : f.dest = s.config.station) :
    s.receiveFrame verdict = (s.reached f).routeFrame f := by
  have hdest : f.dest = s.frameOver.config.station := by rw [(frameOver_beside s).config, hours]
  rw [receiveFrame_heard hs, hgood, State.takeVerdict, State.dispatch]
  simp only [if_pos hdest]
  rfl

theorem frameFor_good (hs : s.canHear h) (hallows : k.allows payload.length = true) :
    frameFor k h payload s.config.station = .good (s.frameFrom h k payload) := by
  obtain ⟨-, hown, hsrc, hother⟩ := hs
  refine if_pos ?_
  simp only [Frame.inRange, hallows, hown, hsrc, Bool.and_eq_true, decide_eq_true_eq]
  exact ⟨⟨⟨trivial, trivial⟩, trivial⟩, hother⟩

/-- R163, R164: a typed reception of a payload that its kind allows. -/
theorem received_eq (hs : s.canHear h) (hallows : k.allows payload.length = true) :
    s.receiveFrame (frameFor k h payload) =
      (s.reached (s.frameFrom h k payload)).routeFrame (s.frameFrom h k payload) :=
  receiveFrame_good hs.1 (frameFor_good hs hallows) rfl

/-- R163: what a good frame other than a TURN leaves before it is routed. -/
theorem reached_beside (s : State) {f : Frame} (hkind : f.kind ≠ .turn) : Beside s (s.reached f) := by
  have hcount : Beside s.frameOver (s.frameOver.withStats s.frameOver.stats.frameForUs) := by constructor <;> rfl
  exact (((frameOver_beside s).trans hcount).trans (hearStation_beside _ _)).trans (turnFrameEnd_beside _ hkind)

theorem reached_entry (s : State) {f : Frame} (hkind : f.kind ≠ .turn) (e : EntryIdx) :
    (s.reached f).entry e = s.entry e := by
  rw [State.entry, (reached_beside s hkind).entries]
  rfl

/-! ### Routing -/

variable {f : Frame}

theorem routeFrame_unnamed (hturn : f.kind ≠ .turn) (hopen : f.kind ≠ .opening) (he : 31 < f.dci.toNat) :
    s.routeFrame f = s.takeStray f := by
  unfold State.routeFrame
  rw [entryArg_of_lt he]
  split
  · next hk => exact absurd hk hturn
  · next hk => exact absurd hk hopen
  · rfl

theorem routeFrame_named (hturn : f.kind ≠ .turn) (hopen : f.kind ≠ .opening) (he : f.dci.toNat = e.val) :
    s.routeFrame f = if (s.entry e).isStray f then s.takeStray f else s.takeAtEntry e f := by
  unfold State.routeFrame
  rw [entryArg_of_eq he]
  split
  · next hk => exact absurd hk hturn
  · next hk => exact absurd hk hopen
  · rfl

/-- R164: a good frame for the part that names an entry. -/
theorem received_at (hs : s.canHear h) (hallows : k.allows payload.length = true) (hturn : k ≠ .turn)
    (hopen : k ≠ .opening) (he : h.dci.toNat = e.val) :
    s.receiveFrame (frameFor k h payload) =
      if (s.entry e).isStray (s.frameFrom h k payload) then
        (s.reached (s.frameFrom h k payload)).takeStray (s.frameFrom h k payload)
      else (s.reached (s.frameFrom h k payload)).takeAtEntry e (s.frameFrom h k payload) := by
  have hentry : (s.reached (s.frameFrom h k payload)).entry e = s.entry e := reached_entry s hturn e
  rw [received_eq hs hallows, routeFrame_named hturn hopen he, hentry]

/-! ### Stray frames -/

theorem takeStray_silent (hkind : f.kind = .closed ∨ f.kind = .refuse) :
    s.takeStray f = s.withStats s.stats.stray := by
  rcases hkind with hkind | hkind <;> simp [State.takeStray, hkind]

theorem takeStray_answered (hclosed : f.kind ≠ .closed) (hrefuse : f.kind ≠ .refuse) :
    s.takeStray f =
      (s.withStats s.stats.stray).offerStray { reason := .noConnection, dest := f.src, dci := f.sci, sci := f.dci } := by
  simp [State.takeStray, hclosed, hrefuse]

/-- R77: the frame comes from no connection of the entry. -/
theorem isStray_of {c : ConnEntry}
    (hc : c.state = .free ∨ c.state = .ended ∨ (c.state = .opening ∧ c.remoteStation ≠ some f.src) ∨
      ((c.state = .opened ∨ c.state = .draining ∨ c.state = .closing) ∧
        ¬ (c.remoteStation = some f.src ∧ c.remoteIndex = some f.sci))) :
    c.isStray f = true := by
  have hremote (hno : ¬ (c.remoteStation = some f.src ∧ c.remoteIndex = some f.sci)) :
      c.hasRemote f.src f.sci = false := by
    rw [← Bool.not_eq_true, ConnEntry.hasRemote, Bool.and_eq_true, decide_eq_true_eq, decide_eq_true_eq]
    exact hno
  rcases hc with hc | hc | ⟨hc, hsrc⟩ | ⟨hc, hno⟩
  · simp only [ConnEntry.isStray, hc]
  · simp only [ConnEntry.isStray, hc]
  · simp only [ConnEntry.isStray, hc, hsrc, decide_false, Bool.and_false, Bool.not_false]
  · rcases hc with hc | hc | hc <;> simp only [ConnEntry.isStray, hc, hremote hno, Bool.not_false]

/-- R77: an OPENING entry takes no frame but ACCEPT, REFUSE and CLOSED. -/
theorem isStray_opening {c : ConnEntry} (hc : c.state = .opening) (haccept : f.kind ≠ .accept)
    (hrefuse : f.kind ≠ .refuse) (hclosed : f.kind ≠ .closed) : c.isStray f = true := by
  simp [ConnEntry.isStray, hc, haccept, hrefuse, hclosed]

/-- R77, R78: what a stray frame of a kind does, routed. -/
theorem received_stray (hs : s.canHear h) (hallows : k.allows payload.length = true) (hturn : k ≠ .turn)
    (hopen : k ≠ .opening)
    (hstray : 31 < h.dci.toNat ∨
      ∃ e : EntryIdx, h.dci.toNat = e.val ∧ (s.entry e).isStray (s.frameFrom h k payload) = true) :
    s.receiveFrame (frameFor k h payload) =
      (s.reached (s.frameFrom h k payload)).takeStray (s.frameFrom h k payload) := by
  rcases hstray with hout | ⟨e, he, hstray⟩
  · rw [received_eq hs hallows, routeFrame_unnamed hturn hopen hout]
  · rw [received_at hs hallows hturn hopen he, if_pos hstray]

theorem received_stray_answered (hs : s.canHear h) (hallows : k.allows payload.length = true) (hturn : k ≠ .turn)
    (hopen : k ≠ .opening) (hclosed : k ≠ .closed) (hrefuse : k ≠ .refuse)
    (hstray : 31 < h.dci.toNat ∨
      ∃ e : EntryIdx, h.dci.toNat = e.val ∧ (s.entry e).isStray (s.frameFrom h k payload) = true) :
    s.receiveFrame (frameFor k h payload) =
      (let u := s.reached (s.frameFrom h k payload)
       u.withStats u.stats.stray).offerStray { reason := .noConnection, dest := h.src, dci := h.sci, sci := h.dci } := by
  rw [received_stray hs hallows hturn hopen hstray, takeStray_answered hclosed hrefuse]
  rfl

theorem dataAllows (h1 : 1 ≤ payload.length) (h2 : payload.length ≤ 240) : FrameKind.data.allows payload.length = true := by
  simp [FrameKind.allows, h1, h2]

/-- Settles O44. -/
theorem strayFramesAndReplies : Obligations.StrayFramesAndReplies := by
  refine ⟨fun s h hs hno => ?_, fun s h e hs he hstate hsrc => ?_, fun s x => ⟨fun ho => ?_, fun ho hroom => ?_, fun ho hfull => ?_⟩⟩
  · intro counted reply
    have hstray (k : FrameKind) (payload : List Byte) : 31 < h.dci.toNat ∨
        ∃ e : EntryIdx, h.dci.toNat = e.val ∧ (s.entry e).isStray (s.frameFrom h k payload) = true :=
      hno.imp_right fun ⟨e, he, hc⟩ => ⟨e, he, isStray_of hc⟩
    have hanswered {k : FrameKind} {payload : List Byte} (hallows : k.allows payload.length = true) (hturn : k ≠ .turn)
        (hopen : k ≠ .opening) (hclosed : k ≠ .closed) (hrefuse : k ≠ .refuse) :
        Host.Outcome.next (s.receiveFrame (frameFor k h payload)) =
          (.next ((counted k payload).offerStray reply) : Host.Outcome State Fault Refusal) :=
      congrArg _ (received_stray_answered hs hallows hturn hopen hclosed hrefuse (hstray k payload))
    have hsilent {k : FrameKind} {payload : List Byte} (hallows : k.allows payload.length = true)
        (hkind : k = .closed ∨ k = .refuse) :
        Host.Outcome.next (s.receiveFrame (frameFor k h payload)) =
          (.next (counted k payload) : Host.Outcome State Fault Refusal) := by
      have hturn : k ≠ .turn := by rcases hkind with rfl | rfl <;> nofun
      have hopen : k ≠ .opening := by rcases hkind with rfl | rfl <;> nofun
      exact congrArg _ ((received_stray hs hallows hturn hopen (hstray k payload)).trans (takeStray_silent hkind))
    exact ⟨fun payload h1 h2 => hanswered (dataAllows h1 h2) nofun nofun nofun nofun,
      hanswered rfl nofun nofun nofun nofun, hanswered rfl nofun nofun nofun nofun,
      hanswered rfl nofun nofun nofun nofun, hanswered rfl nofun nofun nofun nofun,
      fun v => ⟨hanswered rfl nofun nofun nofun nofun, hsilent rfl (.inr rfl), hsilent rfl (.inl rfl)⟩⟩
  · intro strays
    have hanswered {k : FrameKind} {payload : List Byte} (hallows : k.allows payload.length = true) (hturn : k ≠ .turn)
        (hopen : k ≠ .opening) (hclosed : k ≠ .closed) (hrefuse : k ≠ .refuse) (haccept : k ≠ .accept) :
        Host.Outcome.next (s.receiveFrame (frameFor k h payload)) =
          (.next (strays k payload) : Host.Outcome State Fault Refusal) :=
      congrArg _ (received_stray_answered hs hallows hturn hopen hclosed hrefuse
        (.inr ⟨e, he, isStray_opening hstate haccept hrefuse hclosed⟩))
    exact ⟨fun payload h1 h2 => hanswered (dataAllows h1 h2) nofun nofun nofun nofun nofun,
      hanswered rfl nofun nofun nofun nofun nofun, hanswered rfl nofun nofun nofun nofun nofun,
      hanswered rfl nofun nofun nofun nofun nofun, hanswered rfl nofun nofun nofun nofun nofun⟩
  · rw [State.offerStray, if_pos ho]
  · rw [State.offerStray, if_neg ho, if_pos (show s.sched.strays.length < Config.strayMax from hroom)]
    rfl
  · rw [State.offerStray, if_neg ho, if_neg (show ¬ s.sched.strays.length < Config.strayMax from Nat.not_lt.2 hfull)]
    rfl

/-! ### Control frames at an entry -/

theorem isStray_remote {c : ConnEntry} (hc : c.state = .opened ∨ c.state = .draining ∨ c.state = .closing)
    (hstation : c.remoteStation = some f.src) (hindex : c.remoteIndex = some f.sci) : c.isStray f = false := by
  have hremote : c.hasRemote f.src f.sci = true := by simp [ConnEntry.hasRemote, hstation, hindex]
  rcases hc with hc | hc | hc <;> simp only [ConnEntry.isStray, hc, hremote, Bool.not_true]

theorem takeAtEntry_live (hc : (s.entry e).state = .opened ∨ (s.entry e).state = .draining) :
    s.takeAtEntry e f = s.takeLive e f := by
  rcases hc with hc | hc <;> simp only [State.takeAtEntry, hc]

theorem takeAtEntry_closing (hc : (s.entry e).state = .closing) : s.takeAtEntry e f = s.takeClosing e f := by
  simp only [State.takeAtEntry, hc]

theorem takeAtEntry_opening (hc : (s.entry e).state = .opening) : s.takeAtEntry e f = s.takeOpening e f := by
  simp only [State.takeAtEntry, hc]

section
variable (hs : s.canHear h) (hallows : k.allows payload.length = true) (hturn : k ≠ .turn) (hopen : k ≠ .opening)
  (he : h.dci.toNat = e.val) (hstation : (s.entry e).remoteStation = some h.src)
include hs hallows hturn hopen he hstation

/-- R164: a frame from the remote of an OPEN or DRAINING entry. -/
theorem received_live (hindex : (s.entry e).remoteIndex = some h.sci)
    (hc : (s.entry e).state = .opened ∨ (s.entry e).state = .draining) :
    s.receiveFrame (frameFor k h payload) =
      (s.reached (s.frameFrom h k payload)).takeLive e (s.frameFrom h k payload) := by
  have hentry : (s.reached (s.frameFrom h k payload)).entry e = s.entry e := reached_entry s hturn e
  have hours : ¬ (s.entry e).isStray (s.frameFrom h k payload) = true :=
    Bool.eq_false_iff.1 (isStray_remote (hc.imp_right .inl) hstation hindex)
  rw [received_at hs hallows hturn hopen he, if_neg hours, takeAtEntry_live (by rw [hentry]; exact hc)]

theorem received_closing (hindex : (s.entry e).remoteIndex = some h.sci) (hc : (s.entry e).state = .closing) :
    s.receiveFrame (frameFor k h payload) =
      (s.reached (s.frameFrom h k payload)).takeClosing e (s.frameFrom h k payload) := by
  have hentry : (s.reached (s.frameFrom h k payload)).entry e = s.entry e := reached_entry s hturn e
  have hours : ¬ (s.entry e).isStray (s.frameFrom h k payload) = true :=
    Bool.eq_false_iff.1 (isStray_remote (.inr (.inr hc)) hstation hindex)
  rw [received_at hs hallows hturn hopen he, if_neg hours, takeAtEntry_closing (by rw [hentry]; exact hc)]

/-- R10: an answer from the remote station of an OPENING entry. -/
theorem received_opening (hkind : k = .accept ∨ k = .refuse ∨ k = .closed) (hc : (s.entry e).state = .opening) :
    s.receiveFrame (frameFor k h payload) =
      (s.reached (s.frameFrom h k payload)).takeOpening e (s.frameFrom h k payload) := by
  have hentry : (s.reached (s.frameFrom h k payload)).entry e = s.entry e := reached_entry s hturn e
  have hours : ¬ (s.entry e).isStray (s.frameFrom h k payload) = true := by
    rcases hkind with rfl | rfl | rfl <;> simp [ConnEntry.isStray, hc, hstation, State.frameFrom]
  rw [received_at hs hallows hturn hopen he, if_neg hours, takeAtEntry_opening (by rw [hentry]; exact hc)]

end

/-- R14: DATA, READY, WAIT, REPEAT, REFUSE and ACCEPT reach a CLOSING entry for nothing. -/
theorem takeClosing_other (hclosed : f.kind ≠ .closed) (hclose : f.kind ≠ .close) : s.takeClosing e f = s := by
  unfold State.takeClosing
  dsimp only
  split
  · next hk => exact absurd hk hclosed
  · next hk => exact absurd hk hclose
  · rfl

theorem takeClosing_closed (hkind : f.kind = .closed) :
    s.takeClosing e f = if (s.entry e).closeFinished then s else s.endCloseExchange e false := by
  simp only [State.takeClosing, hkind]

theorem takeClosing_close (hkind : f.kind = .close) :
    s.takeClosing e f =
      if (s.entry e).closeFinished then s.replyClosed e f else (s.replyClosed e f).endCloseExchange e false := by
  simp only [State.takeClosing, hkind]

theorem endCloseExchange_orphan (horphan : (s.entry e).orphan = true) (timedOut : Bool) :
    s.endCloseExchange e timedOut = s.freeEntry e := by
  simp only [State.endCloseExchange, horphan, if_true]

theorem endCloseExchange_quiet (horphan : (s.entry e).orphan = false) (hnotices : (s.entry e).notices = [])
    (timedOut : Bool) :
    s.endCloseExchange e timedOut =
      (s.freeEntry e).closedEvent (s.entry e).owner e ((s.entry e).closeTimedOut || timedOut) := by
  simp only [State.endCloseExchange, horphan, hnotices, List.isEmpty_nil, Bool.false_eq_true, if_false, if_true]

theorem endCloseExchange_waits (horphan : (s.entry e).orphan = false) (hnotices : (s.entry e).notices ≠ [])
    (timedOut : Bool) :
    s.endCloseExchange e timedOut =
      s.setEntry e
        { (s.entry e).stopTimer with
          controlDue := .none, closeTimedOut := (s.entry e).closeTimedOut || timedOut, closeFinished := true } := by
  simp only [State.endCloseExchange, horphan, List.isEmpty_iff, hnotices, Bool.false_eq_true, if_false]

/-- Settles O43. -/
theorem entryTakesControlFrames : Obligations.EntryTakesControlFrames := by
  refine ⟨fun s h e hs he hstation hindex => ?_, fun s e p timedOut howner => ?_⟩
  · intro c at_ closedReply live
    refine ⟨fun hlive => ?_, fun hc => ?_, fun hc v => ?_⟩
    · have htakes {k : FrameKind} {payload : List Byte} {t : State} (hallows : k.allows payload.length = true)
          (hturn : k ≠ .turn) (hopen : k ≠ .opening) (ht : (at_ k payload).takeLive e (s.frameFrom h k payload) = t) :
          Host.Outcome.next (s.receiveFrame (frameFor k h payload)) = (.next t : Host.Outcome State Fault Refusal) :=
        congrArg _ ((received_live hs hallows hturn hopen he hstation hindex hlive).trans ht)
      exact ⟨htakes (k := .close) (payload := []) rfl nofun nofun rfl, fun v =>
        ⟨htakes (k := .closed) (payload := [v]) rfl nofun nofun rfl,
          htakes (k := .refuse) (payload := [v]) rfl nofun nofun rfl,
          htakes (k := .accept) (payload := [v]) rfl nofun nofun rfl⟩⟩
    · have hdiscards {k : FrameKind} {payload : List Byte} (hallows : k.allows payload.length = true) (hturn : k ≠ .turn)
          (hopen : k ≠ .opening) (hclosed : k ≠ .closed) (hclose : k ≠ .close) :
          Host.Outcome.next (s.receiveFrame (frameFor k h payload)) =
            (.next (at_ k payload) : Host.Outcome State Fault Refusal) :=
        congrArg _ ((received_closing hs hallows hturn hopen he hstation hindex hc).trans
          (takeClosing_other hclosed hclose))
      exact ⟨hdiscards rfl nofun nofun nofun nofun, hdiscards rfl nofun nofun nofun nofun,
        hdiscards rfl nofun nofun nofun nofun, fun payload h1 h2 => hdiscards (dataAllows h1 h2) nofun nofun nofun nofun⟩
    · have htakes {k : FrameKind} {payload : List Byte} {t : State} (hallows : k.allows payload.length = true)
          (hturn : k ≠ .turn) (hopen : k ≠ .opening) (ht : (at_ k payload).takeClosing e (s.frameFrom h k payload) = t) :
          Host.Outcome.next (s.receiveFrame (frameFor k h payload)) = (.next t : Host.Outcome State Fault Refusal) :=
        congrArg _ ((received_closing hs hallows hturn hopen he hstation hindex hc).trans ht)
      have hfinished (k : FrameKind) (payload : List Byte) (hturn : k ≠ .turn) :
          ((at_ k payload).entry e).closeFinished = c.closeFinished :=
        congrArg ConnEntry.closeFinished (reached_entry s (f := s.frameFrom h k payload) hturn e)
      have hclosed := takeClosing_closed (s := at_ .closed [v]) (e := e) (f := s.frameFrom h .closed [v]) rfl
      have hclose := takeClosing_close (s := at_ .close []) (e := e) (f := s.frameFrom h .close []) rfl
      rw [hfinished .closed [v] nofun] at hclosed
      rw [hfinished .close [] nofun] at hclose
      refine ⟨htakes (k := .refuse) (payload := [v]) rfl nofun nofun (takeClosing_other nofun nofun),
        htakes (k := .accept) (payload := [v]) rfl nofun nofun (takeClosing_other nofun nofun),
        fun hdone => ?_, fun hdone => ?_⟩
      · rw [hdone] at hclosed hclose
        exact ⟨htakes rfl nofun nofun hclosed, htakes rfl nofun nofun hclose⟩
      · rw [hdone] at hclosed hclose
        exact ⟨htakes rfl nofun nofun hclosed, htakes rfl nofun nofun hclose⟩
  · intro c freed
    have hfreed : s.freeEntry e = freed := by
      rw [freeEntry_eq]
      rfl
    refine ⟨fun horphan => ?_, fun horphan hnotices => ?_, fun horphan hnotices => ?_⟩
    · rw [endCloseExchange_orphan horphan, hfreed]
    · rw [endCloseExchange_quiet horphan hnotices, hfreed, howner]
      rfl
    · rw [endCloseExchange_waits horphan hnotices]
      rfl

/-! ### Answers at an OPENING entry -/

theorem entryEvent_owned {p : Port} (howner : (s.entry e).owner = some p) (horphan : (s.entry e).orphan = false)
    (b : EventBody) : s.entryEvent e b = s.modPort p (·.offer b) := by
  simp only [State.entryEvent, howner, horphan, Bool.false_eq_true, if_false]

theorem hasRemote_iff {c : ConnEntry} {station index : Byte} :
    c.hasRemote station index = true ↔ c.remoteStation = some station ∧ c.remoteIndex = some index := by
  rw [ConnEntry.hasRemote, Bool.and_eq_true, decide_eq_true_eq, decide_eq_true_eq]

/-- R5, R69: the remote belongs to another entry that is OPEN, DRAINING, CLOSING or ENDED. -/
theorem remoteInUse_iff {station index : Byte} :
    s.remoteInUse e station index = true ↔
      ∃ k : EntryIdx, k ≠ e ∧ (s.entry k).remoteStation = some station ∧ (s.entry k).remoteIndex = some index ∧
        ((s.entry k).state = .opened ∨ (s.entry k).state = .draining ∨ (s.entry k).state = .closing ∨
          (s.entry k).state = .ended) := by
  have hstate : ∀ x : EntryState, (x ≠ .free ∧ x ≠ .opening) ↔
      (x = .opened ∨ x = .draining ∨ x = .closing ∨ x = .ended) := fun x => by
    cases x <;> decide
  simp only [State.remoteInUse, List.any_eq_true, Bool.and_eq_true, decide_eq_true_eq, hasRemote_iff]
  refine ⟨fun ⟨k, _, ⟨⟨hk, hfree⟩, hopening⟩, hstation, hindex⟩ => ⟨k, hk, hstation, hindex, (hstate _).1 ⟨hfree, hopening⟩⟩,
    fun ⟨k, hk, hstation, hindex, hc⟩ => ⟨k, List.mem_finRange k, ⟨⟨hk, ((hstate _).2 hc).1⟩, ((hstate _).2 hc).2⟩,
      hstation, hindex⟩⟩

/-- The window byte of an ACCEPT. -/
def Frame.windowByte (f : Frame) : Nat := (f.payload[0]?.getD 0).toNat

theorem takeAccept_far (hsci : 31 < f.sci.toNat) : s.takeAccept e f = s.endEntry e .protocol := by
  simp only [State.takeAccept, hsci, if_true]

theorem takeAccept_bad (hsci : f.sci.toNat ≤ 31)
    (hbad : ¬ (1 ≤ f.windowByte ∧ f.windowByte ≤ (s.entry e).windowSize) ∨ s.remoteInUse e f.src f.sci = true) :
    s.takeAccept e f = s.badAccept e f := by
  have hfar : ¬ 31 < f.sci.toNat := Nat.not_lt.2 hsci
  unfold State.takeAccept
  simp only [hfar, if_false]
  change (if decide (f.windowByte = 0) || decide ((s.entry e).windowSize < f.windowByte) then _ else _) = _
  split
  · rfl
  · next hok =>
    rw [Bool.or_eq_true, decide_eq_true_eq, decide_eq_true_eq, not_or] at hok
    rw [if_pos (hbad.resolve_left (not_not.2 ⟨by omega, by omega⟩))]

theorem takeAccept_agreed (hsci : f.sci.toNat ≤ 31) (hlow : 1 ≤ f.windowByte)
    (hhigh : f.windowByte ≤ (s.entry e).windowSize) (hfree : ¬ s.remoteInUse e f.src f.sci = true) :
    s.takeAccept e f = (s.setEntry e ((s.entry e).toOpen f.sci f.windowByte)).entryEvent e (.opened e) := by
  have hfar : ¬ 31 < f.sci.toNat := Nat.not_lt.2 hsci
  have hok : ¬ (decide (f.windowByte = 0) || decide ((s.entry e).windowSize < f.windowByte)) = true := by
    rw [Bool.or_eq_true, decide_eq_true_eq, decide_eq_true_eq]
    omega
  unfold State.takeAccept
  simp only [hfar, if_false]
  exact (if_neg hok).trans (if_neg hfree)

/-- Settles O42. -/
theorem openingEntryTakesAnswers : Obligations.OpeningEntryTakesAnswers := by
  intro s h e hs he hstate hstation c
  have htakes {k : FrameKind} {payload : List Byte} {t : State} (hallows : k.allows payload.length = true)
      (hkind : k = .accept ∨ k = .refuse ∨ k = .closed)
      (ht : (s.reached (s.frameFrom h k payload)).takeOpening e (s.frameFrom h k payload) = t) :
      Host.Outcome.next (s.receiveFrame (frameFor k h payload)) = (.next t : Host.Outcome State Fault Refusal) := by
    have hturn : k ≠ .turn := by rcases hkind with rfl | rfl | rfl <;> nofun
    have hopen : k ≠ .opening := by rcases hkind with rfl | rfl | rfl <;> nofun
    exact congrArg _ ((received_opening hs hallows hturn hopen he hstation hkind hstate).trans ht)
  refine ⟨fun window => ?_, fun reason => htakes (k := .refuse) (payload := [reason]) rfl (.inr (.inl rfl)) rfl,
    fun reason => htakes (k := .closed) (payload := [reason]) rfl (.inr (.inr rfl)) rfl⟩
  intro u agreed taken
  have hentry : ∀ k, u.entry k = s.entry k := reached_entry s (f := s.frameFrom h .accept [window]) nofun
  have haccepts {t : State} (ht : u.takeAccept e (s.frameFrom h .accept [window]) = t) :
      exec (.acceptReceived h window) s = .next t :=
    htakes (k := .accept) (payload := [window]) rfl (.inl rfl) ht
  have htaken : u.remoteInUse e h.src h.sci = true ↔ taken := by
    rw [remoteInUse_iff]
    simp only [hentry]
    rfl
  refine ⟨fun hfar => haccepts (takeAccept_far hfar), fun hnear hbad => haccepts ?_,
    fun hnear hagreed hfree p howner horphan => haccepts ?_⟩
  · rw [takeAccept_bad hnear (hbad.imp (fun hno hyes => hno ?_) htaken.2), State.badAccept, modEntry_eq, hentry]
    · rfl
    · rw [hentry] at hyes
      exact hyes
  · rw [takeAccept_agreed (s := u) (e := e) (f := s.frameFrom h .accept [window]) hnear hagreed.1
        (by rw [hentry]; exact hagreed.2) fun hin => hfree (htaken.1 hin), hentry,
      entryEvent_owned (p := p) (by rw [entry_setEntry_same]; exact howner)
      (by rw [entry_setEntry_same]; exact horphan)]
    rfl

/-! ### Listen handling -/

/-- The mask of the six bits of a station address. -/
theorem sixBits (i : Nat) : (0x3F : Byte).getLsbD i = decide (i < 6) := by
  by_cases hi : i < 8
  · exact (by decide : ∀ i < 8, (0x3F : Byte).getLsbD i = decide (i < 6)) i hi
  · rw [BitVec.getLsbD_of_ge _ _ (Nat.not_lt.1 hi)]
    exact (decide_eq_false (by omega)).symm

/-- R55, R63: each of the six bits is masked or equal. -/
theorem matches_iff (l : ListenEntry) (station service : Byte) :
    l.matches station service = true ↔
      l.service = service ∧ ∀ bit : Nat, bit < 6 →
        l.stationMask.getLsbD bit = true ∨ station.getLsbD bit = l.stationMatch.getLsbD bit := by
  rw [ListenEntry.matches, Bool.and_eq_true, decide_eq_true_eq, decide_eq_true_eq]
  refine and_congr_right fun _ => ⟨fun hzero bit hbit => ?_, fun hbits => BitVec.eq_of_getLsbD_eq fun i hi => ?_⟩
  · have hbitZero : (((station ^^^ l.stationMatch) &&& ~~~l.stationMask) &&& 0x3F).getLsbD bit = false := by
      rw [hzero]
      exact BitVec.getLsbD_zero
    simp only [BitVec.getLsbD_and, BitVec.getLsbD_xor, BitVec.getLsbD_not, sixBits, hbit, decide_true,
      Bool.and_true, show bit < 8 by omega, Bool.true_and] at hbitZero
    cases hmask : l.stationMask.getLsbD bit <;> simp [hmask] at hbitZero ⊢
    exact hbitZero
  · rw [BitVec.getLsbD_and, sixBits]
    by_cases hbit : i < 6
    · rcases hbits i hbit with hmask | heq
      · simp [hmask]
      · simp [heq]
    · simp [hbit]

/-- R60: the engine has left the line as far as listen handling goes. -/
def State.leftLine (s : State) : Prop := s.turn.engine = .offline ∨ s.turn.engine = .stopping

theorem turnFrameStart_leftLine (s : State) : s.turnFrameStart.leftLine ↔ s.leftLine := by
  unfold State.leftLine
  cases hengine : s.turn.engine with
  | handing =>
    have hcases : s.turnFrameStart.turn.engine = .waiting ∨ s.turnFrameStart.turn.engine = .handing := by
      unfold State.turnFrameStart State.handoverSuccess
      rw [hengine]
      dsimp only
      split
      · refine .inl ?_
        split
        · split <;> rfl
        · rfl
      · exact .inr hengine
    rcases hcases with h | h <;> simp [h]
  | waiting =>
    have h : s.turnFrameStart.turn.engine = .waiting := by
      unfold State.turnFrameStart
      rw [hengine]
      exact hengine
    rw [h]
  | offline =>
    have h : s.turnFrameStart = s := by simp only [State.turnFrameStart, hengine]
    rw [h, hengine]
  | holding =>
    have h : s.turnFrameStart = s := by simp only [State.turnFrameStart, hengine]
    rw [h, hengine]
  | stopping =>
    have h : s.turnFrameStart = s := by simp only [State.turnFrameStart, hengine]
    rw [h, hengine]

theorem turnFrameEnd_leftLine {f : Frame} (hkind : f.kind ≠ .turn) : (s.turnFrameEnd f).leftLine ↔ s.leftLine := by
  have hcases : (s.turnFrameEnd f = s.yieldTurn f.src ∧ s.turn.engine = .holding) ∨ s.turnFrameEnd f = s := by
    unfold State.turnFrameEnd
    simp only [hkind, decide_false, Bool.false_and, Bool.false_eq_true, if_false]
    split
    · next h => exact .inl ⟨rfl, h⟩
    all_goals exact .inr rfl
  rcases hcases with ⟨h, hengine⟩ | h
  · have hnew : (s.yieldTurn f.src).turn.engine = .waiting := rfl
    rw [h, State.leftLine, State.leftLine, hnew, hengine]
    simp
  · rw [h]

theorem reached_leftLine {f : Frame} (hkind : f.kind ≠ .turn) : (s.reached f).leftLine ↔ s.leftLine := by
  have hover : s.frameOver.leftLine ↔ s.leftLine := by
    unfold State.frameOver
    dsimp only
    split
    · rfl
    · exact turnFrameStart_leftLine s
  have hhear : ∀ t : State, (t.hearStation f.src).leftLine ↔ t.leftLine := fun t => by
    rw [State.leftLine, hearStation_engine]
    rfl
  rw [reached_eq, turnFrameEnd_leftLine hkind, hhear]
  exact hover

section
variable {l : ListenEntry} {front back : List ListenEntry}

/-- R64: the listen table once its first entry equal to `l` has been used. -/
theorem useListen_split (hfront : l ∉ front) :
    useListen l (front ++ l :: back) =
      if l.accepts = 0 then front ++ l :: back
      else if l.accepts = 1 then front ++ back
      else front ++ { l with accepts := l.accepts - 1 } :: back := by
  unfold useListen
  by_cases hone : l.accepts = 1
  · have hzero : ¬ l.accepts = 0 := by omega
    rw [if_pos hone, if_neg hzero, if_pos hone, List.erase_append_right _ hfront, List.erase_cons_head]
  · by_cases hzero : l.accepts = 0
    · rw [if_neg hone, if_pos hzero, if_pos hzero]
    · rw [if_neg hone, if_neg hzero, if_neg hzero, if_neg hone, List.replace_append_right hfront,
        List.replace_cons_self]

end

/-- R60: the decision on a sound OPEN at a part on the line. -/
theorem listenHandling_sound {f : Frame} (hon : ¬ s.leftLine) (hsci : f.sci.toNat ≤ 31)
    (hlow : 1 ≤ (f.payload[1]?.getD 0).toNat) (hhigh : (f.payload[1]?.getD 0).toNat ≤ 4) :
    s.listenHandling f = s.decideOpen f (f.payload[0]?.getD 0) (f.payload[1]?.getD 0).toNat := by
  have haway : ¬ (decide (s.turn.engine = .offline) || decide (s.turn.engine = .stopping)) = true := by
    simpa [State.leftLine] using hon
  have hsound : ¬ (decide (31 < f.sci.toNat) || !within 1 4 (f.payload[1]?.getD 0).toNat) = true := by
    have hwithin : within 1 4 (f.payload[1]?.getD 0).toNat = true := by
      rw [within, decide_eq_true hlow, decide_eq_true hhigh, Bool.and_self]
    rw [hwithin, decide_eq_false (Nat.not_lt.2 hsci)]
    nofun
  unfold State.listenHandling
  exact (if_neg haway).trans (if_neg hsound)

theorem listenHandling_away {f : Frame} (haway : s.leftLine) : s.listenHandling f = s := by
  have haway' : (decide (s.turn.engine = .offline) || decide (s.turn.engine = .stopping)) = true := by
    simpa [State.leftLine] using haway
  unfold State.listenHandling
  exact if_pos haway'

theorem listenHandling_unsound {f : Frame} (hon : ¬ s.leftLine)
    (hbad : ¬ (f.sci.toNat ≤ 31 ∧ 1 ≤ (f.payload[1]?.getD 0).toNat ∧ (f.payload[1]?.getD 0).toNat ≤ 4)) :
    s.listenHandling f = s.withStats s.stats.formatError := by
  have haway : ¬ (decide (s.turn.engine = .offline) || decide (s.turn.engine = .stopping)) = true := by
    simpa [State.leftLine] using hon
  have hunsound : (decide (31 < f.sci.toNat) || !within 1 4 (f.payload[1]?.getD 0).toNat) = true := by
    rw [Bool.or_eq_true, decide_eq_true_eq, Bool.not_eq_true', ← Bool.not_eq_true, within, Bool.and_eq_true,
      decide_eq_true_eq, decide_eq_true_eq]
    by_cases hsci : 31 < f.sci.toNat
    · exact .inl hsci
    · exact .inr fun hwithin => hbad ⟨Nat.not_lt.1 hsci, hwithin⟩
  unfold State.listenHandling
  exact (if_neg haway).trans (if_pos hunsound)

section
variable {f : Frame} {service : Byte} {window : Nat}

theorem decideOpen_live (hlive : (s.entry e).live = true) (hremote : (s.entry e).hasRemote f.src f.sci = true)
    (hfirst : ∀ k, k < e → ¬ ((s.entry k).live = true ∧ (s.entry k).hasRemote f.src f.sci = true)) :
    s.decideOpen f service window = s.setEntry e { s.entry e with controlDue := .sendAccept } := by
  have hfind : allEntries.find? (fun e => (s.entry e).live && (s.entry e).hasRemote f.src f.sci) = some e :=
    firstEntry.2 ⟨by rw [hlive, hremote]; rfl, fun k hk => Bool.eq_false_iff.2 fun h => hfirst k hk (Bool.and_eq_true_iff.1 h)⟩
  simp only [State.decideOpen, hfind, modEntry_eq]

variable (hno : ∀ e, ¬ ((s.entry e).live = true ∧ (s.entry e).hasRemote f.src f.sci = true))
include hno

theorem noLive_find : allEntries.find? (fun e => (s.entry e).live && (s.entry e).hasRemote f.src f.sci) = none :=
  List.find?_eq_none.2 fun k _ h => hno k (Bool.and_eq_true_iff.1 h)

theorem decideOpen_stale
    (hending : ∃ e, ((s.entry e).state = .closing ∨ (s.entry e).state = .ended) ∧
      (s.entry e).hasRemote f.src f.sci = true) :
    s.decideOpen f service window = s.refuseOpen f .stale := by
  have hany : (allEntries.any fun e => ((s.entry e).state = .closing || (s.entry e).state = .ended) &&
      (s.entry e).hasRemote f.src f.sci) = true := by
    obtain ⟨e, hstate, hremote⟩ := hending
    refine List.any_eq_true.2 ⟨e, List.mem_finRange e, ?_⟩
    rw [hremote, Bool.and_true, Bool.or_eq_true, decide_eq_true_eq, decide_eq_true_eq]
    exact hstate
  simp only [State.decideOpen, noLive_find hno, hany, if_true]

variable (hnone : ∀ e, ¬ (((s.entry e).state = .closing ∨ (s.entry e).state = .ended) ∧
  (s.entry e).hasRemote f.src f.sci = true))
include hnone

/-- R63: an OPEN that no entry knows. -/
theorem decideOpen_new :
    s.decideOpen f service window =
      match s.listen.find? (·.matches f.src service) with
      | none => s.refuseOpen f .noService
      | some l =>
        match s.lowestFree with
        | none => s.refuseOpen f .full
        | some e => s.acceptOpen l e f service window := by
  have hany : (allEntries.any fun e => ((s.entry e).state = .closing || (s.entry e).state = .ended) &&
      (s.entry e).hasRemote f.src f.sci) = false := by
    refine Bool.eq_false_iff.2 fun h => ?_
    obtain ⟨e, -, he⟩ := List.any_eq_true.1 h
    rw [Bool.and_eq_true, Bool.or_eq_true, decide_eq_true_eq, decide_eq_true_eq] at he
    exact hnone e he
  simp only [State.decideOpen, noLive_find hno, hany, Bool.false_eq_true, if_false] <;> rfl

end

/-- R9, R64: an OPEN accepted by the first listen entry that matches. -/
theorem acceptOpen_split {f : Frame} {service : Byte} {window : Nat} {l : ListenEntry} {front back : List ListenEntry}
    (hlisten : s.listen = front ++ l :: back) (hfront : l ∉ front) :
    s.acceptOpen l e f service window =
      (let arrived := (s.setEntry e (ConnEntry.accepted l f.src f.sci service window)).makeNotice e (.arrived f.src service)
       if l.accepts = 0 then arrived
       else if l.accepts = 1 then
         ({ arrived with listen := front ++ back } : State).modPort l.owner (·.offer (.listenDone e service))
       else { arrived with listen := front ++ { l with accepts := l.accepts - 1 } :: back }) := by
  have hkept : ((s.setEntry e (ConnEntry.accepted l f.src f.sci service window)).makeNotice e
      (.arrived f.src service)).listen = front ++ l :: back := (makeNotice_aside _ _ _).listen.trans hlisten
  unfold State.acceptOpen
  dsimp only
  generalize (s.setEntry e (ConnEntry.accepted l f.src f.sci service window)).makeNotice e (.arrived f.src service) =
    arrived at hkept
  rw [hkept, useListen_split hfront]
  by_cases hzero : l.accepts = 0
  · rw [if_pos hzero, if_neg (by omega), ← hkept, if_pos hzero]
  · by_cases hone : l.accepts = 1
    · rw [if_neg hzero, if_pos hone, if_pos hone, if_neg hzero, if_pos hone]
    · rw [if_neg hzero, if_neg hone, if_neg hone, if_neg hzero, if_neg hone]

/-- Settles O41. -/
theorem openIsDecided : Obligations.OpenIsDecided := by
  intro s h service window hs command u away sound remote live ending refused fits
  have hentry : ∀ k, u.entry k = s.entry k :=
    reached_entry s (f := s.frameFrom h .opening [service, window]) nofun
  have hlisten : u.listen = s.listen := (reached_beside s (f := s.frameFrom h .opening [service, window]) nofun).listen
  have haway : u.leftLine ↔ away := reached_leftLine (f := s.frameFrom h .opening [service, window]) nofun
  have hruns {t : State} (ht : u.listenHandling (s.frameFrom h .opening [service, window]) = t) :
      exec command s = .next t := by
    refine congrArg Host.Outcome.next ((received_eq hs (k := .opening) (payload := [service, window]) rfl).trans ?_)
    exact ht
  have hdecides (hon : ¬ away) (hsound : sound) {t : State}
      (ht : u.decideOpen (s.frameFrom h .opening [service, window]) service window.toNat = t) :
      exec command s = .next t :=
    hruns ((listenHandling_sound (f := s.frameFrom h .opening [service, window]) (fun h => hon (haway.1 h)) hsound.1
      hsound.2.1 hsound.2.2).trans ht)
  have hlive : ∀ k, ((u.entry k).live = true ∧ (u.entry k).hasRemote h.src h.sci = true) ↔ live k := fun k => by
    rw [hentry, live_iff, hasRemote_iff]
    exact and_comm
  have hending : ∀ k, (((u.entry k).state = .closing ∨ (u.entry k).state = .ended) ∧
      (u.entry k).hasRemote h.src h.sci = true) ↔ ending k := fun k => by
    rw [hentry, hasRemote_iff]
    exact and_comm
  have hfits : ∀ l : ListenEntry, l.matches h.src service = true ↔ fits l := fun l => matches_iff l h.src service
  refine ⟨fun h => hruns (listenHandling_away (haway.2 h)),
    fun hon hbad => hruns (listenHandling_unsound (fun h => hon (haway.1 h)) hbad),
    fun hon hsound e he hfirst => hdecides hon hsound ?_, fun hon hsound hno ⟨e, he⟩ => hdecides hon hsound ?_,
    fun hon hsound hno => ?_⟩
  · obtain ⟨hl, hr⟩ := (hlive e).2 he
    rw [decideOpen_live hl hr fun k hk h => hfirst k hk ((hlive k).1 h), hentry]
  · exact decideOpen_stale (fun k h => hno k ((hlive k).1 h)) ⟨e, (hending e).2 he⟩
  · have hnew := decideOpen_new (s := u) (f := s.frameFrom h .opening [service, window]) (service := service)
      (window := window.toNat) (fun k h => (hno k).1 ((hlive k).1 h)) fun k h => (hno k).2 ((hending k).1 h)
    rw [hlisten] at hnew
    have hnew' : u.decideOpen (s.frameFrom h .opening [service, window]) service window.toNat =
        match s.listen.find? (·.matches h.src service) with
        | none => refused .noService
        | some l =>
          match u.lowestFree with
          | none => refused .full
          | some e => u.acceptOpen l e (s.frameFrom h .opening [service, window]) service window.toNat := hnew
    refine ⟨fun hnofit => hdecides hon hsound ?_, fun front back l hsplit hfit hbefore => ?_⟩
    · have hfind : s.listen.find? (·.matches h.src service) = none :=
        List.find?_eq_none.2 fun l hl h => hnofit l hl ((hfits l).1 h)
      rw [hnew', hfind]
    · have hfind : s.listen.find? (·.matches h.src service) = some l := by
        rw [hsplit, List.find?_append, List.find?_eq_none.2 fun k hk h => hbefore k hk ((hfits k).1 h), Option.none_or]
        exact List.find?_cons_of_pos ((hfits l).2 hfit)
      rw [hfind] at hnew'
      refine ⟨fun hfull => hdecides hon hsound ?_, fun e hfree hlow hfront => hdecides hon hsound ?_⟩
      · have hnone : u.lowestFree = none := lowestFree_none.2 fun k => by rw [hentry]; exact hfull k
        rw [hnew', hnone]
      · have hsome : u.lowestFree = some e :=
          lowestFree_some.2 ⟨by rw [hentry]; exact hfree, fun k hk => by rw [hentry]; exact hlow k hk⟩
        rw [hnew', hsome]
        exact acceptOpen_split (hlisten.trans hsplit) hfront

end Sys2Proof.Machine
end

section
/-! Transfer frames at an OPEN or DRAINING entry: the acknowledgement, the end of a frame, and what each kind does. -/

namespace Sys2Proof.Machine

variable {s t : State} {p : Port} {e : EntryIdx}

/-! ### The acknowledgement -/

/-- R35: the SENT events of acknowledged messages, offered to their port in order. -/
def PortState.offerSent (e : EntryIdx) (ms : List SentMsg) (ps : PortState) : PortState :=
  (ms.filter (·.msg.notify)).foldl (fun ps m => ps.offer (.sent e m.msg.tag)) ps

theorem offerSent_cons (e : EntryIdx) (m : SentMsg) (ms : List SentMsg) (ps : PortState) :
    ps.offerSent e (m :: ms) = (if m.msg.notify then ps.offer (.sent e m.msg.tag) else ps).offerSent e ms := by
  unfold PortState.offerSent
  by_cases hnotify : m.msg.notify = true
  · rw [if_pos hnotify, List.filter_cons_of_pos (by exact hnotify)]
    rfl
  · rw [if_neg hnotify, List.filter_cons_of_neg (by exact hnotify)]

/-- R34, R35: one acknowledged message of an entry of the port `p`. -/
theorem acknowledgeOne_eq (howner : (s.entry e).owner = some p) (horphan : (s.entry e).orphan = false) (m : SentMsg) :
    s.acknowledgeOne e m =
      (s.release p m.msg.handle).modPort p fun ps =>
        if m.msg.notify then ps.offer (.sent e m.msg.tag) else ps := by
  have hfields := reconsider_fields (s.pool.release p m.msg.handle) (s.entry e)
  have howner' : ((s.release p m.msg.handle).entry e).owner = some p := by
    rw [release_entry, hfields.2.1, howner]
  have horphan' : ((s.release p m.msg.handle).entry e).orphan = false := by
    rw [release_entry, hfields.2.2.1, horphan]
  unfold State.acknowledgeOne
  rw [howner]
  dsimp only
  by_cases hnotify : m.msg.notify = true
  · simp only [if_pos hnotify]
    exact entryEvent_owned howner' horphan' _
  · simp only [if_neg hnotify]
    rw [modPort_eq, setPort_port]

theorem modPort_modPort (s : State) (p : Port) (f g : PortState → PortState) :
    (s.modPort p f).modPort p g = s.modPort p fun ps => g (f ps) := by
  simp only [State.modPort, State.setPort, State.port, look_put_same, put_put]

/-- A port's own side is nothing to the releases of its buffers. -/
theorem releaseAll_modPort (s : State) (p q : Port) (f : PortState → PortState) (hs : List Handle) :
    (s.modPort q f).releaseAll p hs = (s.releaseAll p hs).modPort q f := by
  induction hs generalizing s with
  | nil => rfl
  | cons h rest ih => exact ih (s.release p h)

theorem acknowledge_fold (ms : List SentMsg) (howner : (s.entry e).owner = some p)
    (horphan : (s.entry e).orphan = false) :
    ms.foldl (fun s m => s.acknowledgeOne e m) s =
      (s.releaseAll p (ms.map (·.msg.handle))).modPort p (·.offerSent e ms) := by
  induction ms generalizing s with
  | nil => exact (setPort_port s p).symm
  | cons m ms ih =>
    have hentry : (s.acknowledgeOne e m).entry e = (s.entry e).reconsider (s.pool.release p m.msg.handle) := by
      rw [acknowledgeOne_eq howner horphan]
      exact release_entry s p m.msg.handle e
    have hfields := reconsider_fields (s.pool.release p m.msg.handle) (s.entry e)
    rw [List.foldl_cons, ih (by rw [hentry, hfields.2.1, howner]) (by rw [hentry, hfields.2.2.1, horphan]),
      acknowledgeOne_eq howner horphan, releaseAll_modPort, modPort_modPort]
    simp only [offerSent_cons]
    rfl

/-- R34: an acknowledgement at an entry of the port `p`. -/
theorem acknowledge_eq (howner : (s.entry e).owner = some p) (horphan : (s.entry e).orphan = false) (en : Seq) (n : Nat) :
    s.acknowledge e en n =
      ((s.setEntry e ((s.entry e).takeAck en n)).releaseAll p
        (((s.entry e).unacked.take n).map (·.msg.handle))).modPort p
          (·.offerSent e ((s.entry e).unacked.take n)) := by
  have hsame : (s.setEntry e ((s.entry e).takeAck en n)).entry e = (s.entry e).takeAck en n := entry_setEntry_same ..
  rw [State.acknowledge, modEntry_eq]
  exact acknowledge_fold (s := s.setEntry e ((s.entry e).takeAck en n)) _ (by rw [hsame]; exact howner)
    (by rw [hsame]; exact horphan)

/-- R88: an acknowledgement of no message examines no entry. -/
theorem acknowledge_nudged {n : Nat} (hn : n ≤ (s.entry e).unacked.length) (c : ConnEntry) (pool : Pool) :
    c.nudged (((s.entry e).unacked.take n).map (·.msg.handle)) pool = if n = 0 then c else c.reconsider pool := by
  have hiff : ((s.entry e).unacked.take n).map (·.msg.handle) = [] ↔ n = 0 := by
    rw [List.map_eq_nil_iff, List.take_eq_nil_iff]
    refine ⟨fun h => h.elim id fun h => ?_, .inl⟩
    rw [h, List.length_nil] at hn
    exact Nat.le_zero.1 hn
  simp only [ConnEntry.nudged, hiff]

section
variable (howner : (s.entry e).owner = some p) (horphan : (s.entry e).orphan = false) (en : Seq) {n : Nat}
include howner horphan

theorem acknowledge_entry_eq (k : EntryIdx) :
    (s.acknowledge e en n).entry k =
      ((s.setEntry e ((s.entry e).takeAck en n)).entry k).nudged (((s.entry e).unacked.take n).map (·.msg.handle))
        (s.acknowledge e en n).pool := by
  rw [acknowledge_eq howner horphan]
  exact releaseAll_nudged _ p _ k

theorem acknowledge_returned :
    Returned p (((s.entry e).unacked.take n).map (·.msg.handle)) (s.account p).held s.pool
      (s.acknowledge e en n).pool := by
  rw [acknowledge_eq howner horphan]
  exact releaseAll_returned (s.setEntry e ((s.entry e).takeAck en n)) p _

theorem acknowledge_port : (s.acknowledge e en n).port p = (s.port p).offerSent e ((s.entry e).unacked.take n) := by
  rw [acknowledge_eq howner horphan, modPort_eq, port_setPort_same, State.port, releaseAll_ports]
  rfl

theorem acknowledge_port_other {q : Port} (hq : q ≠ p) : (s.acknowledge e en n).port q = s.port q := by
  rw [acknowledge_eq howner horphan, modPort_eq, port_setPort_other _ _ (Ne.symm hq), State.port, releaseAll_ports]
  rfl

theorem acknowledge_rest :
    s.acknowledge e en n =
      { s with
        entries := (s.acknowledge e en n).entries, pool := (s.acknowledge e en n).pool
        ports := (s.acknowledge e en n).ports } := by
  rw [acknowledge_eq howner horphan]
  have haside := (releaseAll_aside (s.setEntry e ((s.entry e).takeAck en n)) p
    (((s.entry e).unacked.take n).map (·.msg.handle))).eq_with (releaseAll_ports _ _ _)
  generalize (s.setEntry e ((s.entry e).takeAck en n)).releaseAll p
    (((s.entry e).unacked.take n).map (·.msg.handle)) = t at haside
  rw [haside]
  rfl

/-- The entry after its acknowledgement is the entry but for the window, the flags, the retry count and the timer. -/
theorem acknowledge_fields :
    ∃ f x y, (s.acknowledge e en n).entry e =
      { (s.entry e).takeAck en n with flags := f, answerTimer := x, answerPhase := y } := by
  rw [acknowledge_entry_eq howner horphan en e, entry_setEntry_same]
  exact nudged_fields ..

end

/-! ### The end of a transfer frame -/

/-- R39, R43, R44: what the steps 4 and 5 leave of the entry besides its flags and its answer timer. -/
theorem settled_fields (c : ConnEntry) (isWait progress q : Bool) :
    ∃ f x y, ((c.takeQuery q).frameTimer isWait progress).settleTimer =
      { c with flags := f, answerTimer := x, answerPhase := y } := by
  have hquery : ∃ f, c.takeQuery q = { c with flags := f } := by
    unfold ConnEntry.takeQuery
    split
    · exact ⟨_, rfl⟩
    · exact ⟨_, rfl⟩
  obtain ⟨f, hf⟩ := hquery
  have htimer : ∃ x y, (c.takeQuery q).frameTimer isWait progress =
      { c with flags := f, answerTimer := x, answerPhase := y } := by
    rw [hf]
    unfold ConnEntry.frameTimer
    split
    · exact ⟨_, _, rfl⟩
    · split
      · exact ⟨_, _, rfl⟩
      · exact ⟨_, _, rfl⟩
  obtain ⟨x, y, hxy⟩ := htimer
  rw [hxy, settleTimer_eq]
  exact ⟨_, _, _, rfl⟩

theorem takeQuery_eq (c : ConnEntry) (q : Bool) :
    c.takeQuery q = { c with flags := { c.flags with answerOwed := c.flags.answerOwed || q } } := by
  cases q with
  | true => rw [Bool.or_true]; rfl
  | false => rw [Bool.or_false]; rfl

theorem frameTimer_eq (c : ConnEntry) (isWait progress : Bool) :
    c.frameTimer isWait progress =
      if c.flags.queryDue = false ∧ ((isWait = true ∧ c.answerTimer = none) ∨ (progress = true ∧ c.answerTimer ≠ none))
      then { c with answerTimer := c.answerTime, answerPhase := 0 } else c := by
  unfold ConnEntry.frameTimer
  cases c.flags.queryDue with
  | true => simp
  | false => simp [ConnEntry.startTimer, Option.isSome_iff_ne_none]

/-- R33, steps 4 to 6, as the statements spell them out. -/
theorem frameDone_eq {c : ConnEntry} (hlive : c.state = .opened ∨ c.state = .draining) (isWait progress q : Bool) :
    (((c.takeQuery q).frameTimer isWait progress).settleTimer).drained = c.frameDone isWait progress q := by
  obtain ⟨f, x, y, hfields⟩ := settled_fields c isWait progress q
  unfold ConnEntry.frameDone
  by_cases hdrained : c.state = .draining ∧ c.sendQueue = [] ∧ c.unacked = []
  · obtain ⟨hstate, hqueue, hunacked⟩ := hdrained
    have hif : (decide (c.state = .draining) && c.sendQueue.isEmpty && c.unacked.isEmpty) = true := by
      simp [hstate, hqueue, hunacked]
    rw [if_pos ⟨hstate, hqueue, hunacked⟩, hfields]
    exact if_pos hif
  · have hif : ¬ (decide (c.state = .draining) && c.sendQueue.isEmpty && c.unacked.isEmpty) = true := by
      simpa [and_assoc] using hdrained
    have hkeeps : (((c.takeQuery q).frameTimer isWait progress).settleTimer).drained =
        ((c.takeQuery q).frameTimer isWait progress).settleTimer := by
      rw [hfields]
      exact if_neg hif
    rw [if_neg hdrained, hkeeps, frameTimer_eq, takeQuery_eq]
    dsimp only
    by_cases hidle : c.unacked = [] ∧ c.flags.peerWaiting = false ∧ c.flags.queryOutstanding = false
    · rw [if_pos hidle]
      obtain ⟨hunacked, hwaiting, hquery⟩ := hidle
      split
      · exact settleTimer_stops hlive hunacked hwaiting hquery
      · exact settleTimer_stops hlive hunacked hwaiting hquery
    · rw [if_neg hidle]
      split
      · exact settleTimer_leaves fun h => hidle h.2
      · exact settleTimer_leaves fun h => hidle h.2

/-! ### Transfer frames -/

section
variable {f : Frame}

theorem takeTransfer_badAck (hn : (s.entry e).unacked.length < (seqEN f.seq - (s.entry e).va).toNat) :
    s.takeTransfer e f = s.endEntry e .badAck := by
  have hnone : (s.entry e).acknowledged (seqEN f.seq) = none := if_neg (Nat.not_le.2 hn)
  simp only [State.takeTransfer, hnone]

/-- The part whose entry has taken the EN and the A of a transfer frame. -/
def State.acked (s : State) (e : EntryIdx) (f : Frame) : State :=
  let v := s.acknowledge e (seqEN f.seq) (seqEN f.seq - (s.entry e).va).toNat
  v.setEntry e ((v.entry e).answeredBy (seqA f.seq))

theorem answeredBy_eq (c : ConnEntry) (a : Bool) : c.answeredBy a = c.takeAnswer a := rfl

theorem answeredBy_fields (c : ConnEntry) (a : Bool) :
    (c.answeredBy a).state = c.state ∧ (c.answeredBy a).owner = c.owner ∧ (c.answeredBy a).orphan = c.orphan ∧
      (c.answeredBy a).notices = c.notices ∧ (c.answeredBy a).sendQueue = c.sendQueue := by
  unfold ConnEntry.answeredBy
  split <;> exact ⟨rfl, rfl, rfl, rfl, rfl⟩

/-- R33: a transfer frame whose EN acknowledges no more than was sent. -/
theorem takeTransfer_acked (hlive : (s.entry e).state = .opened ∨ (s.entry e).state = .draining)
    (hn : (seqEN f.seq - (s.entry e).va).toNat ≤ (s.entry e).unacked.length) :
    s.takeTransfer e f =
      ((s.acked e f).takeKind e f).setEntry e
        ((((s.acked e f).takeKind e f).entry e).frameDone (f.kind = .wait)
          (decide (0 < (seqEN f.seq - (s.entry e).va).toNat) || seqA f.seq) (seqQ f.seq)) := by
  have hsome : (s.entry e).acknowledged (seqEN f.seq) = some (seqEN f.seq - (s.entry e).va).toNat := if_pos hn
  have hstate : (((s.acked e f).takeKind e f).entry e).state = (s.entry e).state := by
    rw [takeKind_state, State.acked, entry_setEntry_same, (answeredBy_fields _ _).1, acknowledge_state]
  have hdone := frameDone_eq (c := ((s.acked e f).takeKind e f).entry e) (by rw [hstate]; exact hlive) (f.kind = .wait)
    (decide (0 < (seqEN f.seq - (s.entry e).va).toNat) || seqA f.seq) (seqQ f.seq)
  unfold State.takeTransfer
  rw [hsome, ← hdone]
  rfl

variable (hacked : (s.entry e).owner = some p) (horphan : (s.entry e).orphan = false)
include hacked horphan

theorem acked_owner : ((s.acked e f).entry e).owner = some p := by
  obtain ⟨g, x, y, hfields⟩ := acknowledge_fields hacked horphan (seqEN f.seq)
    (n := (seqEN f.seq - (s.entry e).va).toNat)
  rw [State.acked, entry_setEntry_same, (answeredBy_fields _ _).2.1, hfields]
  exact hacked

theorem acked_orphan : ((s.acked e f).entry e).orphan = false := by
  obtain ⟨g, x, y, hfields⟩ := acknowledge_fields hacked horphan (seqEN f.seq)
    (n := (seqEN f.seq - (s.entry e).va).toNat)
  rw [State.acked, entry_setEntry_same, (answeredBy_fields _ _).2.2.1, hfields]
  exact horphan

end

/-- R38: the event of a change of peer waiting. -/
def State.toldStatus (s : State) (p : Port) (e : EntryIdx) (changed waiting : Bool) : State :=
  if changed then s.modPort p (·.offer (if waiting then .peerWait e else .peerReady e)) else s

/-- R38: READY or WAIT at an entry of the port `p`, and what then becomes of the entry. -/
theorem takeStatus_then (howner : (s.entry e).owner = some p) (horphan : (s.entry e).orphan = false) (waiting : Bool)
    (g : ConnEntry → ConnEntry) :
    (s.takeStatus e waiting).setEntry e (g ((s.takeStatus e waiting).entry e)) =
      (s.setEntry e (g { s.entry e with flags := { (s.entry e).flags with peerWaiting := waiting } })).toldStatus p e
        (decide ((s.entry e).flags.peerWaiting ≠ waiting)) waiting := by
  unfold State.takeStatus State.toldStatus
  dsimp only
  by_cases hsame : (s.entry e).flags.peerWaiting = waiting
  · rw [if_pos hsame, if_neg (by simpa using hsame), entry_setEntry_same, setEntry_setEntry]
  · rw [if_neg hsame, if_pos (decide_eq_true hsame), entryEvent_owned (p := p)
      (by rw [entry_setEntry_same]; exact howner) (by rw [entry_setEntry_same]; exact horphan)]
    have hentry : ∀ b, (((s.setEntry e { s.entry e with flags := { (s.entry e).flags with peerWaiting := waiting } }).modPort p
        (·.offer b)).entry e) = { s.entry e with flags := { (s.entry e).flags with peerWaiting := waiting } } :=
      fun b => entry_setEntry_same ..
    rw [hentry]
    exact congrArg (·.modPort p (·.offer (if waiting then .peerWait e else .peerReady e)))
      (setEntry_setEntry (s := s) (e := e) ..)

/-! ### Where the parts of a sequence byte stand -/

theorem seq_parts (b : Byte) :
    (seqSN b).toNat = b.toNat / 32 ∧ (seqEN b).toNat = b.toNat / 4 % 8 ∧ (seqQ b = true ↔ b.toNat / 2 % 2 = 1) ∧
      (seqA b = true ↔ b.toNat % 2 = 1) := by
  have hlt : b.toNat < 256 := b.isLt
  refine ⟨?_, ?_, ?_, ?_⟩
  · rw [seqSN, BitVec.extractLsb'_toNat, Nat.shiftRight_eq_div_pow]
    omega
  · rw [seqEN, BitVec.extractLsb'_toNat, Nat.shiftRight_eq_div_pow]
  · rw [seqQ, BitVec.getLsbD, Nat.testBit_eq_decide_div_mod_eq, decide_eq_true_eq]
  · rw [seqA, BitVec.getLsbD, Nat.testBit_eq_decide_div_mod_eq, decide_eq_true_eq, pow_zero, Nat.div_one]

/-- R33: what READY, WAIT and REPEAT make of the acknowledged part. -/
theorem takeTransfer_status {f : Frame} (hlive : (s.entry e).state = .opened ∨ (s.entry e).state = .draining)
    (howner : (s.entry e).owner = some p) (horphan : (s.entry e).orphan = false)
    (hn : (seqEN f.seq - (s.entry e).va).toNat ≤ (s.entry e).unacked.length) (waiting : Bool)
    (hkind : f.kind = if waiting then .wait else .ready) :
    s.takeTransfer e f =
      ((s.acked e f).setEntry e
        (({ (s.acked e f).entry e with
            flags := { ((s.acked e f).entry e).flags with peerWaiting := waiting } } : ConnEntry).frameDone waiting
          (decide (0 < (seqEN f.seq - (s.entry e).va).toNat) || seqA f.seq) (seqQ f.seq))).toldStatus p e
        (decide (((s.acked e f).entry e).flags.peerWaiting ≠ waiting)) waiting := by
  have htakes : (s.acked e f).takeKind e f = (s.acked e f).takeStatus e waiting := by
    cases waiting <;> simp only [State.takeKind, hkind] <;> rfl
  have hwait : decide (f.kind = .wait) = waiting := by cases waiting <;> rw [hkind] <;> rfl
  rw [takeTransfer_acked hlive hn, htakes, hwait]
  exact takeStatus_then (acked_owner howner horphan) (acked_orphan howner horphan) waiting
    (·.frameDone waiting (decide (0 < (seqEN f.seq - (s.entry e).va).toNat) || seqA f.seq) (seqQ f.seq))

theorem takeTransfer_repeat {f : Frame} (hlive : (s.entry e).state = .opened ∨ (s.entry e).state = .draining)
    (hn : (seqEN f.seq - (s.entry e).va).toNat ≤ (s.entry e).unacked.length) (hkind : f.kind = .rept) :
    s.takeTransfer e f =
      (s.acked e f).setEntry e
        (((s.acked e f).entry e).markAll.frameDone false
          (decide (0 < (seqEN f.seq - (s.entry e).va).toNat) || seqA f.seq) (seqQ f.seq)) := by
  have htakes : (s.acked e f).takeKind e f = (s.acked e f).setEntry e ((s.acked e f).entry e).markAll := by
    simp only [State.takeKind, hkind, modEntry_eq]
  have hwait : decide (f.kind = .wait) = false := by rw [hkind]; rfl
  rw [takeTransfer_acked hlive hn, htakes, hwait, entry_setEntry_same, setEntry_setEntry]

theorem toldStatus_eq (s : State) (p : Port) (e : EntryIdx) (old waiting : Bool) :
    s.toldStatus p e (decide (old ≠ waiting)) waiting =
      if old = waiting then s else s.modPort p (·.offer (if waiting then .peerWait e else .peerReady e)) := by
  unfold State.toldStatus
  by_cases hsame : old = waiting
  · rw [if_pos hsame, if_neg (by rw [decide_eq_true_eq]; exact not_not.2 hsame)]
  · rw [if_neg hsame, if_pos (decide_eq_true hsame)]

theorem transfer_ne_turn {k : FrameKind} (hkind : k = .data ∨ k = .ready ∨ k = .wait ∨ k = .rept) : k ≠ .turn := by
  rcases hkind with rfl | rfl | rfl | rfl <;> nofun

/-- R12, R33: a transfer frame from the remote of an OPEN or DRAINING entry. -/
theorem received_transfer {h : RxHead} {k : FrameKind} {payload : List Byte} (hs : s.canHear h)
    (hallows : k.allows payload.length = true) (hkind : k = .data ∨ k = .ready ∨ k = .wait ∨ k = .rept)
    (he : h.dci.toNat = e.val) (hstation : (s.entry e).remoteStation = some h.src)
    (hindex : (s.entry e).remoteIndex = some h.sci)
    (hlive : (s.entry e).state = .opened ∨ (s.entry e).state = .draining) :
    s.receiveFrame (frameFor k h payload) =
      (s.reached (s.frameFrom h k payload)).takeTransfer e (s.frameFrom h k payload) := by
  have hopen : k ≠ .opening := by rcases hkind with rfl | rfl | rfl | rfl <;> nofun
  rw [received_live hs hallows (transfer_ne_turn hkind) hopen he hstation hindex hlive]
  rcases hkind with rfl | rfl | rfl | rfl <;> rfl

/-- Settles O40. -/
theorem transferFramesAreTaken : Obligations.TransferFramesAreTaken := by
  refine ⟨seq_parts, fun s e p en n howner horphan hn => ?_, fun s h e p hs he hlive hstation hindex howner horphan => ?_⟩
  · intro c v left examined
    have hback := acknowledge_returned howner horphan en (n := n)
    have hlength : (((s.entry e).unacked.take n).map (·.msg.handle)).length = n := by
      rw [List.length_map, List.length_take, Nat.min_eq_left hn]
    have hentry := acknowledge_entry_eq howner horphan en (n := n)
    simp only [acknowledge_nudged hn] at hentry
    have hown : v.account p = { s.account p with charge := (s.account p).charge - n } := by
      have h : v.account p = { s.account p with
        charge := (s.account p).charge - (((s.entry e).unacked.take n).map (·.msg.handle)).length } := hback.own
      rw [hlength] at h
      exact h
    refine ⟨hback.freeList, hback.mem, hown,
      fun q hq => ⟨hback.other q hq, acknowledge_port_other howner horphan en hq⟩,
      acknowledge_port howner horphan en, (hentry e).trans ?_, fun k hk => (hentry k).trans ?_,
      acknowledge_rest howner horphan en⟩
    · rw [entry_setEntry_same]
      rfl
    · rw [entry_setEntry_other _ _ (Ne.symm hk)]
  · intro n at_
    have hentry : ∀ {k : FrameKind} {payload : List Byte}, k ≠ .turn → (at_ k payload).entry e = s.entry e :=
      fun {k payload} hturn => reached_entry s (f := s.frameFrom h k payload) hturn e
    have htakes {k : FrameKind} {payload : List Byte} {t : State} (hallows : k.allows payload.length = true)
        (hkind : k = .data ∨ k = .ready ∨ k = .wait ∨ k = .rept)
        (ht : (at_ k payload).takeTransfer e (s.frameFrom h k payload) = t) :
        Host.Outcome.next (s.receiveFrame (frameFor k h payload)) = (.next t : Host.Outcome State Fault Refusal) :=
      congrArg _ ((received_transfer hs hallows hkind he hstation hindex hlive).trans ht)
    refine ⟨fun hover => ?_, fun hn => ?_⟩
    · have hbad {k : FrameKind} {payload : List Byte} (hallows : k.allows payload.length = true)
          (hkind : k = .data ∨ k = .ready ∨ k = .wait ∨ k = .rept) :
          Host.Outcome.next (s.receiveFrame (frameFor k h payload)) =
            (.next ((at_ k payload).endEntry e .badAck) : Host.Outcome State Fault Refusal) := by
        refine htakes hallows hkind (takeTransfer_badAck ?_)
        rw [hentry (transfer_ne_turn hkind)]
        exact hover
      exact ⟨hbad rfl (by simp), hbad rfl (by simp), hbad rfl (by simp),
        fun payload h1 h2 => hbad (dataAllows h1 h2) (by simp)⟩
    · intro progress acked answered told status
      have hacked (k : FrameKind) (hturn : k ≠ .turn) :
          (at_ k []).acked e (s.frameFrom h k []) = (acked k).setEntry e (answered k) := by
        rw [State.acked, hentry hturn]
        rfl
      have hmine (k : FrameKind) (hturn : k ≠ .turn) :
          ((at_ k []).acked e (s.frameFrom h k [])).entry e = answered k := by
        rw [hacked k hturn, entry_setEntry_same]
      have hstatus (k : FrameKind) (waiting : Bool) (hk : k = if waiting then .wait else .ready) :
          (at_ k []).takeTransfer e (s.frameFrom h k []) = status k waiting := by
        have hturn : k ≠ .turn := by cases waiting <;> rw [hk] <;> nofun
        rw [takeTransfer_status (p := p) (by rw [hentry hturn]; exact hlive) (by rw [hentry hturn]; exact howner)
          (by rw [hentry hturn]; exact horphan) (by rw [hentry hturn]; exact hn) waiting hk, hmine k hturn,
          hacked k hturn, setEntry_setEntry, hentry hturn]
        exact toldStatus_eq ..
      refine ⟨htakes (k := .ready) rfl (by simp) (hstatus .ready false rfl),
        htakes (k := .wait) rfl (by simp) (hstatus .wait true rfl), htakes (k := .rept) rfl (by simp) ?_⟩
      have hrept : (at_ .rept []).entry e = s.entry e := hentry nofun
      rw [takeTransfer_repeat (by rw [hrept]; exact hlive) (by rw [hrept]; exact hn) rfl, hmine .rept nofun,
        hacked .rept nofun, setEntry_setEntry, hrept]
      rfl

/-! ### DATA -/

theorem outOfOrder_eq (c : ConnEntry) :
    c.outOfOrder =
      { c with
        flags := { c.flags with repeatDue := c.flags.repeatDue || !c.flags.repeatSent, repeatSent := true } } := by
  unfold ConnEntry.outOfOrder
  cases hsent : c.flags.repeatSent with
  | true =>
    have hflags : ({ c.flags with repeatDue := c.flags.repeatDue || !true, repeatSent := true } : Flags) = c.flags := by
      rw [Bool.not_true, Bool.or_false, ← hsent]
    rw [if_pos rfl, hflags]
  | false =>
    rw [if_neg nofun, Bool.not_false, Bool.or_true]

section
variable {sn : Seq} {payload : List Byte}

theorem takeData_outOfOrder (h : sn ≠ (s.entry e).vr) :
    s.takeData e sn payload = s.setEntry e (s.entry e).outOfOrder := by
  simp only [State.takeData, if_pos h, modEntry_eq]

theorem takeData_busy (h : sn = (s.entry e).vr) (hbusy : (s.entry e).busy = true) :
    s.takeData e sn payload = s.setEntry e (s.entry e).refuseData := by
  have hsn : ¬ sn ≠ (s.entry e).vr := not_not.2 h
  simp only [State.takeData, if_neg hsn, if_pos hbusy, modEntry_eq]

theorem takeData_starves (h : sn = (s.entry e).vr) (hbusy : (s.entry e).busy = false)
    (howner : (s.entry e).owner = some p) (horphan : (s.entry e).orphan = false) (hnone : s.pool.allocate p = none) :
    s.takeData e sn payload = (s.setEntry e (s.entry e).starve).modPort p (·.offer (.starved e)) := by
  have hsn : ¬ sn ≠ (s.entry e).vr := not_not.2 h
  have hnot : ¬ (s.entry e).busy = true := Bool.eq_false_iff.1 hbusy
  simp only [State.takeData, if_neg hsn, if_neg hnot, howner, Option.bind_some, hnone, modEntry_eq]
  exact entryEvent_owned (by rw [entry_setEntry_same]; exact howner) (by rw [entry_setEntry_same]; exact horphan) _

theorem takeData_stores {b : Handle} {pool : Pool} (h : sn = (s.entry e).vr) (hbusy : (s.entry e).busy = false)
    (howner : (s.entry e).owner = some p) (hsome : s.pool.allocate p = some (b, pool)) :
    s.takeData e sn payload = s.storeData e payload b pool := by
  have hsn : ¬ sn ≠ (s.entry e).vr := not_not.2 h
  have hnot : ¬ (s.entry e).busy = true := Bool.eq_false_iff.1 hbusy
  simp only [State.takeData, if_neg hsn, if_neg hnot, howner, Option.bind_some, hsome]

end

/-- R81: the pool refuses. -/
theorem allocate_refused {pool : Pool} (h : pool.canAllocate p = false ∨ pool.freeList = []) :
    pool.allocate p = none := by
  rcases h with h | h
  · exact allocate_none h
  · simp only [Pool.allocate, h]

section
variable {h : RxHead} {payload : List Byte} (hs : s.canHear h) (h1 : 1 ≤ payload.length) (h2 : payload.length ≤ 240)
  (he : h.dci.toNat = e.val) (hlive : (s.entry e).state = .opened ∨ (s.entry e).state = .draining)
  (hstation : (s.entry e).remoteStation = some h.src) (hindex : (s.entry e).remoteIndex = some h.sci)
  (hn : (seqEN h.seq - (s.entry e).va).toNat ≤ (s.entry e).unacked.length)
include hs h1 h2 he hlive hstation hindex hn

/-- R33, R40: DATA whose EN acknowledges no more than was sent, up to the steps 4 to 6. -/
theorem received_data :
    let v := (s.reached (s.frameFrom h .data payload)).acknowledge e (seqEN h.seq) (seqEN h.seq - (s.entry e).va).toNat
    let t := (v.setEntry e ((v.entry e).answeredBy (seqA h.seq))).takeData e (seqSN h.seq) payload
    exec (.dataReceived h payload) s =
      .next (t.setEntry e ((t.entry e).frameDone false
        (decide (0 < (seqEN h.seq - (s.entry e).va).toNat) || seqA h.seq) (seqQ h.seq))) := by
  intro v t
  have hentry : (s.reached (s.frameFrom h .data payload)).entry e = s.entry e :=
    reached_entry s (f := s.frameFrom h .data payload) nofun e
  have hacked : (s.reached (s.frameFrom h .data payload)).acked e (s.frameFrom h .data payload) =
      v.setEntry e ((v.entry e).answeredBy (seqA h.seq)) := by
    rw [State.acked, hentry]
    rfl
  refine congrArg Host.Outcome.next
    ((received_transfer hs (dataAllows h1 h2) (.inl rfl) he hstation hindex hlive).trans ?_)
  rw [takeTransfer_acked (by rw [hentry]; exact hlive) (by rw [hentry]; exact hn), hacked, hentry]
  rfl

end

/-- Settles O39. -/
theorem dataIsRefusedOrDiscarded : Obligations.DataIsRefusedOrDiscarded := by
  intro s h payload e p hs h1 h2 he hlive hstation hindex howner horphan n v c leaves hn
  have hrun : exec (.dataReceived h payload) s =
      .next (((v.setEntry e c).takeData e (seqSN h.seq) payload).setEntry e
        ((((v.setEntry e c).takeData e (seqSN h.seq) payload).entry e).frameDone false (decide (0 < n) || seqA h.seq)
          (seqQ h.seq))) := received_data hs h1 h2 he hlive hstation hindex hn
  have hentry : (s.reached (s.frameFrom h .data payload)).entry e = s.entry e :=
    reached_entry s (f := s.frameFrom h .data payload) nofun e
  have hmine : (v.setEntry e c).entry e = c := entry_setEntry_same ..
  obtain ⟨g, x, y, hfields⟩ := acknowledge_fields (s := s.reached (s.frameFrom h .data payload)) (p := p)
    (by rw [hentry]; exact howner) (by rw [hentry]; exact horphan) (seqEN h.seq) (n := n)
  have hcowner : c.owner = some p := by
    show ((v.entry e).answeredBy (seqA h.seq)).owner = some p
    rw [(answeredBy_fields _ _).2.1, hfields, hentry]
    exact howner
  have hcorphan : c.orphan = false := by
    show ((v.entry e).answeredBy (seqA h.seq)).orphan = false
    rw [(answeredBy_fields _ _).2.2.1, hfields, hentry]
    exact horphan
  have hleaves {d : ConnEntry}
      (hd : (v.setEntry e c).takeData e (seqSN h.seq) payload = (v.setEntry e c).setEntry e d) :
      exec (.dataReceived h payload) s =
        .next (v.setEntry e (d.frameDone false (decide (0 < n) || seqA h.seq) (seqQ h.seq))) := by
    refine hrun.trans (congrArg Host.Outcome.next ?_)
    rw [hd, entry_setEntry_same, setEntry_setEntry, setEntry_setEntry]
  refine ⟨fun hsn => ?_, fun hsn hbusy => ?_, fun hsn hbusy hnone => ?_⟩
  · have hout := takeData_outOfOrder (s := v.setEntry e c) (sn := seqSN h.seq) (payload := payload) (e := e) (by rw [hmine]; exact hsn)
    rw [hmine, outOfOrder_eq] at hout
    exact hleaves hout
  · have hout := takeData_busy (s := v.setEntry e c) (sn := seqSN h.seq) (payload := payload) (e := e) (by rw [hmine]; exact hsn)
      (by rw [hmine]; exact hbusy)
    rw [hmine] at hout
    exact hleaves hout
  · have hout := takeData_starves (s := v.setEntry e c) (sn := seqSN h.seq) (payload := payload) (e := e) (p := p)
      (by rw [hmine]; exact hsn) (by rw [hmine]; exact hbusy) (by rw [hmine]; exact hcowner)
      (by rw [hmine]; exact hcorphan) (allocate_refused hnone)
    rw [hmine, setEntry_setEntry] at hout
    refine hrun.trans (congrArg Host.Outcome.next ?_)
    rw [hout]
    have hstarved : ((v.setEntry e c.starve).modPort p (·.offer (.starved e))).entry e = c.starve :=
      entry_setEntry_same ..
    rw [hstarved]
    exact congrArg (·.modPort p (·.offer (.starved e))) (setEntry_setEntry (s := v) (e := e) ..)

/-! ### DATA accepted -/

/-- R105: what a notice does beside its entry does not hang on the entry's other fields. -/
theorem makeNotice_setEntry {c c' : ConnEntry} (howner : c.owner = some p) (horphan : c.orphan = false)
    (hsame : c'.owner = c.owner ∧ c'.orphan = c.orphan ∧ c'.notices = c.notices) (n : Notice) (z : ConnEntry) :
    ((s.setEntry e c').makeNotice e n).setEntry e z = ((s.setEntry e c).makeNotice e n).setEntry e z ∧
      (((s.setEntry e c').makeNotice e n).entry e).notices = (((s.setEntry e c).makeNotice e n).entry e).notices := by
  obtain ⟨ho, hor, hnotices⟩ := hsame
  have hc : (s.setEntry e c).entry e = c := entry_setEntry_same ..
  have hc' : (s.setEntry e c').entry e = c' := entry_setEntry_same ..
  by_cases hqueue : c.notices = [] ∧ (s.port p).queue.length < 47
  · obtain ⟨hempty, hroom⟩ := hqueue
    rw [makeNotice_queue (s := s.setEntry e c) n (by rw [hc]; exact howner) (by rw [hc]; exact horphan)
        (by rw [hc]; exact hempty) hroom,
      makeNotice_queue (s := s.setEntry e c') n (by rw [hc', ho]; exact howner) (by rw [hc', hor]; exact horphan)
        (by rw [hc', hnotices]; exact hempty) hroom]
    refine ⟨?_, ?_⟩
    · have hset : ∀ d ps, ((s.setEntry e d).setPort p ps).setEntry e z = (s.setEntry e z).setPort p ps :=
        fun d ps => congrArg (·.setPort p ps) (setEntry_setEntry s e d z)
      rw [hset, hset]
      rfl
    · show ((s.setEntry e c').entry e).notices = ((s.setEntry e c).entry e).notices
      rw [hc, hc', hnotices]
  · have hlist : c.notices ≠ [] ∨ 47 ≤ (s.port p).queue.length := by
      by_cases hempty : c.notices = []
      · exact .inr (Nat.not_lt.1 fun hroom => hqueue ⟨hempty, hroom⟩)
      · exact .inl hempty
    rw [makeNotice_list (s := s.setEntry e c) (p := p) n (by rw [hc]; exact howner) (by rw [hc]; exact horphan)
        (by rw [hc]; exact hlist),
      makeNotice_list (s := s.setEntry e c') (p := p) n (by rw [hc', ho]; exact howner) (by rw [hc', hor]; exact horphan)
        (by rw [hc', hnotices]; exact hlist)]
    refine ⟨by simp only [setEntry_setEntry], ?_⟩
    simp only [entry_setEntry_same, hnotices]

/-- R46: a live entry with no cause of busy but its notices. -/
theorem announceBusy_eq {c : ConnEntry} (hlive : c.state = .opened ∨ c.state = .draining)
    (hhold : c.flags.hostHold = false) (hstarved : c.flags.starved = false) :
    c.announceBusy =
      { c with
        flags :=
          { c.flags with
            busyAnnounced := c.flags.busyAnnounced || c.noticeFull
            statusDue := c.flags.statusDue || (c.noticeFull && !c.flags.busyAnnounced) } } := by
  have hbusy : c.busy = c.noticeFull := by rw [ConnEntry.busy, hhold, hstarved]; rfl
  unfold ConnEntry.announceBusy
  rw [live_iff.2 hlive, hbusy, Bool.true_and]
  cases hfull : c.noticeFull with
  | false => rw [if_neg nofun, Bool.or_false, Bool.false_and, Bool.or_false]
  | true =>
    cases hann : c.flags.busyAnnounced with
    | false => rw [if_pos (show (true && !false) = true from rfl), Bool.or_true, Bool.true_and, Bool.not_false, Bool.or_true]; rfl
    | true =>
      rw [if_neg nofun, Bool.or_true, Bool.true_and, Bool.not_true, Bool.or_false, ← hann]

theorem frameDone_notices (c : ConnEntry) (isWait progress q : Bool) :
    (c.frameDone isWait progress q).notices = c.notices := by
  unfold ConnEntry.frameDone
  dsimp only
  split
  · rfl
  · split
    · rfl
    · split <;> rfl

/-- R81, R86: the pool once it has granted the head of its free list to the port. -/
def Pool.granted (pool : Pool) (p : Port) (tail : List Handle) : Pool :=
  { pool with
    freeList := tail
    accounts := put pool.accounts p { pool.account p with charge := (pool.account p).charge + 1 } }

/-- R40, R86: the part whose entry `e`, as `c` says, has taken the payload into the buffer `b` and told its owner. -/
def State.stored (v : State) (e : EntryIdx) (c : ConnEntry) (p : Port) (b : Handle) (tail : List Handle)
    (payload : List Byte) : State :=
  ((v.withPool ((v.pool.granted p tail).store b 0 payload)).setEntry e c.acceptData).makeNotice e
    (.received b payload.length)

/-- R40: DATA in order, at an entry that is not busy, with an allocation allowed. -/
theorem takeData_accepts {v : State} {c : ConnEntry} {sn : Seq} {payload : List Byte} {b : Handle} {tail : List Handle}
    (hsn : sn = c.vr) (hbusy : c.busy = false) (howner : c.owner = some p) (hfree : v.pool.freeList = b :: tail)
    (hcan : v.pool.canAllocate p = true) :
    (v.setEntry e c).takeData e sn payload =
      (v.stored e c p b tail payload).setEntry e ((v.stored e c p b tail payload).entry e).announceBusy := by
  have hmine : (v.setEntry e c).entry e = c := entry_setEntry_same ..
  have hmine' : ((v.setEntry e c).withPool ((v.pool.granted p tail).store b 0 payload)).entry e = c := hmine
  have hset : ((v.setEntry e c).withPool ((v.pool.granted p tail).store b 0 payload)).setEntry e c.acceptData =
      (v.withPool ((v.pool.granted p tail).store b 0 payload)).setEntry e c.acceptData :=
    congrArg (·.withPool ((v.pool.granted p tail).store b 0 payload)) (setEntry_setEntry v e c c.acceptData)
  have hallocate : (v.setEntry e c).pool.allocate p = some (b, v.pool.granted p tail) := allocate_cons hfree hcan
  rw [takeData_stores (s := v.setEntry e c) (by rw [hmine]; exact hsn) (by rw [hmine]; exact hbusy)
    (by rw [hmine]; exact howner) hallocate, State.storeData, modEntry_eq, modEntry_eq, hmine', hset]
  rfl

theorem stored_entry (v : State) (c : ConnEntry) (b : Handle) (tail : List Handle) (payload : List Byte) :
    (v.stored e c p b tail payload).entry e =
      { c.acceptData with notices := ((v.stored e c p b tail payload).entry e).notices } := by
  have h := makeNotices_entry ((v.withPool ((v.pool.granted p tail).store b 0 payload)).setEntry e c.acceptData) e
    [.received b payload.length]
  rw [entry_setEntry_same] at h
  exact h

theorem stored_pool (v : State) (c : ConnEntry) (b : Handle) (tail : List Handle) (payload : List Byte) :
    (v.stored e c p b tail payload).pool = (v.pool.granted p tail).store b 0 payload :=
  makeNotices_pool ((v.withPool ((v.pool.granted p tail).store b 0 payload)).setEntry e c.acceptData) e
    [.received b payload.length]

theorem stored_aside (v : State) (c : ConnEntry) (b : Handle) (tail : List Handle) (payload : List Byte) :
    Aside v (v.stored e c p b tail payload) := by
  obtain ⟨h1, h2, h3, h4, h5, h6, h7, h8⟩ :=
    makeNotice_aside ((v.withPool ((v.pool.granted p tail).store b 0 payload)).setEntry e c.acceptData) e
      (.received b payload.length)
  exact ⟨h1, h2, h3, h4, h5, h6, h7, h8⟩

/-- Settles O38. -/
theorem dataIsAccepted : Obligations.DataIsAccepted := by
  intro s h payload e p b tail hs h1 h2 he hlive hstation hindex howner horphan n u v c hn hsn hbusy hfree hcan
  have hrun : exec (.dataReceived h payload) s =
      .next (((v.setEntry e c).takeData e (seqSN h.seq) payload).setEntry e
        ((((v.setEntry e c).takeData e (seqSN h.seq) payload).entry e).frameDone false (decide (0 < n) || seqA h.seq)
          (seqQ h.seq))) := received_data hs h1 h2 he hlive hstation hindex hn
  have hbeside : Beside s u := reached_beside s (f := s.frameFrom h .data payload) nofun
  have hentry : u.entry e = s.entry e := reached_entry s (f := s.frameFrom h .data payload) nofun e
  have huowner : (u.entry e).owner = some p := by rw [hentry]; exact howner
  have huorphan : (u.entry e).orphan = false := by rw [hentry]; exact horphan
  have hmine : (v.setEntry e c).entry e = c := entry_setEntry_same ..
  obtain ⟨hcstate, hcowner, hcorphan, hcnotices, -⟩ := answeredBy_fields (v.entry e) (seqA h.seq)
  obtain ⟨g, x, y, hfields⟩ := acknowledge_fields huowner huorphan (seqEN h.seq) (n := n)
  have howner' : c.owner = some p := by
    rw [hcowner, hfields]
    exact huowner
  have horphan' : c.orphan = false := by
    rw [hcorphan, hfields]
    exact huorphan
  have hstate : c.state = .opened ∨ c.state = .draining := by
    rw [hcstate, hfields]
    exact hentry.symm ▸ hlive
  have hcauses := hbusy
  simp only [ConnEntry.busy, Bool.or_eq_false_iff] at hcauses
  obtain ⟨⟨hhold, hstarved⟩, -⟩ := hcauses
  let told : State := v.stored e c p b tail payload
  have hnotices : told.entry e = { c.acceptData with notices := (told.entry e).notices } := stored_entry ..
  let d : ConnEntry := (told.entry e).announceBusy.frameDone false (decide (0 < n) || seqA h.seq) (seqQ h.seq)
  have hannounce := announceBusy_eq (c := told.entry e) (by rw [hnotices]; exact hstate) (by rw [hnotices]; exact hhold)
    (by rw [hnotices]; exact hstarved)
  have hd : d.notices = (told.entry e).notices := by
    show (ConnEntry.frameDone _ _ _ _).notices = _
    rw [frameDone_notices, hannounce]
  have hlast : exec (.dataReceived h payload) s = .next (told.setEntry e d) := by
    rw [hrun, takeData_accepts hsn hbusy howner' hfree hcan, entry_setEntry_same, setEntry_setEntry]
  have hback := acknowledge_returned huowner huorphan (seqEN h.seq) (n := n)
  have hrestV := acknowledge_rest huowner huorphan (seqEN h.seq) (n := n)
  obtain ⟨htells, hrest, hothers, hports, added, hport, -⟩ :=
    tells_of_notices (s := v.withPool ((v.pool.granted p tail).store b 0 payload)) (e := e) (p := p) (c := c.acceptData)
      [.received b payload.length] howner' horphan' hcnotices
  have hmine' : (told.setEntry e d).entry e = d := entry_setEntry_same ..
  have hpool : (told.setEntry e d).pool = (v.pool.granted p tail).store b 0 payload := stored_pool ..
  refine ⟨told.setEntry e d, hlast, ?_, ?_, fun q hq => ⟨?_, ?_⟩, fun hwf k i hi => ?_, ?_, ?_, ⟨?_, ?_⟩, ?_,
    fun k hk => ?_, ?_⟩
  · rw [hpool]
    rfl
  · rw [State.account, hpool]
    exact look_put_same ..
  · have hother : (v.pool.granted p tail).account q = v.pool.account q := look_put_other _ _ (Ne.symm hq)
    rw [State.account, hpool]
    exact (hother.trans (hback.other q hq)).trans (congrArg (·.account q) hbeside.pool)
  · exact (hports q hq).trans (acknowledge_port_other huowner huorphan _ hq)
  · have hmem : v.pool.mem = s.pool.mem := hback.mem.trans (congrArg Pool.mem hbeside.pool)
    have hbyte : (v.pool.granted p tail).byteAt k i = s.pool.byteAt k i := by
      show v.pool.mem.read _ = s.pool.mem.read _
      rw [hmem]
    rw [hpool, store_byteAt (pool := v.pool.granted p tail) (by show v.pool.mem.wf = true; rw [hmem]; exact hwf) b k hi
      (by omega), hbyte, Nat.zero_add, Nat.sub_zero]
    simp only [Nat.zero_le, true_and]
  · have hsame : (told.setEntry e d).told p e = told.told p e := by
      rw [told_eq, told_eq, hmine', hd]
      rfl
    rw [hsame]
    exact htells
  · have hport' : (told.setEntry e d).port p = { v.port p with queue := (v.port p).queue ++ added } := hport
    rw [hport']
  · rw [hpool, hmine']
    exact (makeNotice_setEntry (s := v.withPool ((v.pool.granted p tail).store b 0 payload)) (e := e) (c := c)
      (c' := c.acceptData) howner' horphan' ⟨rfl, rfl, rfl⟩ (.received b payload.length) d).1
  · rw [hpool, hmine', hd]
    exact (makeNotice_setEntry (s := v.withPool ((v.pool.granted p tail).store b 0 payload)) (e := e) (c := c)
      (c' := c.acceptData) howner' horphan' ⟨rfl, rfl, rfl⟩ (.received b payload.length) d).2
  · rw [hmine']
    have hfull : d.noticeFull = (told.entry e).noticeFull := by rw [ConnEntry.noticeFull, hd]; rfl
    show d = _
    rw [hfull, hd]
    show ((told.entry e).announceBusy).frameDone _ _ _ = _
    rw [hannounce, hnotices]
    rfl
  · rw [entry_setEntry_other _ _ (Ne.symm hk)]
    exact hothers k hk
  · have haside : Aside v told := stored_aside ..
    have hv : v.listen = u.listen ∧ v.turn = u.turn ∧ v.sched = u.sched ∧ v.line = u.line ∧ v.stats = u.stats ∧
        v.config = u.config ∧ v.pending = u.pending ∧ v.resetLow = u.resetLow :=
      ⟨(congrArg State.listen hrestV :), (congrArg State.turn hrestV :), (congrArg State.sched hrestV :),
        (congrArg State.line hrestV :), (congrArg State.stats hrestV :), (congrArg State.config hrestV :),
        (congrArg State.pending hrestV :), (congrArg State.resetLow hrestV :)⟩
    obtain ⟨hlisten, hturn, hsched, hline, hstats, hconfig, hpending, hreset⟩ := hv
    exact ⟨(haside.listen.trans hlisten).trans hbeside.listen, haside.turn.trans hturn,
      (haside.sched.trans hsched).trans hbeside.sched, haside.line.trans hline, haside.stats.trans hstats,
      (haside.config.trans hconfig).trans hbeside.config, (haside.pending.trans hpending).trans hbeside.pending,
      (haside.resetLow.trans hreset).trans hbeside.resetLow⟩

end Sys2Proof.Machine
end

section
/-! Frames as bytes on the line: the checks of a frame end, and what the turn controller makes of a good frame. -/

namespace Sys2Proof.Machine

variable {s : State} {own : Byte} {f : Frame}

/-! ### The format of a frame -/

theorem toNat_byte_of_lt {n : Nat} (h : n < 256) : (byte n).toNat = n := by
  rw [byte, BitVec.toNat_ofNat]
  exact Nat.mod_eq_of_lt h

theorem byte_toNat_self (b : Byte) : byte b.toNat = b := BitVec.ofNat_toNat ..

theorem ofByte_byte (k : FrameKind) : FrameKind.ofByte k.byte = some k := by cases k <;> rfl

theorem byte_of_ofByte {b : Byte} {k : FrameKind} (h : FrameKind.ofByte b = some k) : b = k.byte := by
  unfold FrameKind.ofByte at h
  split at h
  · next hlow =>
    have hcode : k.code = b.toNat / 16 := by simpa using List.find?_some h
    refine BitVec.eq_of_toNat_eq ?_
    have hlt := b.isLt
    rw [FrameKind.byte, hcode, toNat_byte_of_lt (by omega)]
    omega
  · cases h

/-- R160, checks 4 and 5 pass for the header and payload of a frame, and check 6 decides. -/
theorem checkFormat_body (hlength : f.payload.length ≤ 240) : checkFormat own f.body = Frame.verdict own f := by
  have hbyte : (byte f.payload.length).toNat = f.payload.length := toNat_byte_of_lt (by omega)
  show (if (byte f.payload.length).toNat = f.payload.length ∧ (byte f.payload.length).toNat ≤ 240 then _ else _) = _
  rw [if_pos ⟨hbyte, by rw [hbyte]; exact hlength⟩, ofByte_byte]
  rfl

/-- R160: only the header and payload of a frame pass checks 4 to 6. -/
theorem checkFormat_good {body : List Byte} (h : checkFormat own body = .good f) :
    body = f.body ∧ f.inRange own = true := by
  unfold checkFormat at h
  split at h
  · next dest src kind dci sci seq len payload =>
    split at h
    · next hlen =>
      split at h
      · next k hk =>
        obtain ⟨rfl, hrange⟩ := verdict_good h
        refine ⟨?_, hrange⟩
        rw [Frame.body, ← byte_of_ofByte hk, ← hlen.1, byte_toNat_self]
        rfl
      · cases h
    · cases h
  · cases h

/-- R162: the payload lengths that the kinds allow. -/
theorem allows_iff (k : FrameKind) (n : Nat) :
    k.allows n = true ↔
      match k with
      | .data => 1 ≤ n ∧ n ≤ 240
      | .opening => n = 2
      | .accept | .refuse | .closed => n = 1
      | .ready | .wait | .rept | .close | .turn => n = 0 := by
  cases k <;> simp [FrameKind.allows]

theorem allows_le {k : FrameKind} {n : Nat} (h : k.allows n = true) : n ≤ 240 := by
  have h' := (allows_iff k n).1 h
  cases k <;> simp only at h' <;> omega

theorem inRange_iff :
    f.inRange own = true ↔
      f.kind.allows f.payload.length = true ∧ (1 ≤ f.dest.toNat ∧ f.dest.toNat ≤ 62) ∧
        (1 ≤ f.src.toNat ∧ f.src.toNat ≤ 62) ∧ f.src ≠ own := by
  simp only [Frame.inRange, isStation, Bool.and_eq_true, decide_eq_true_eq, and_assoc]

theorem checkFormat_iff (body : List Byte) :
    checkFormat own body = .good f ↔ body = f.body ∧ f.inRange own = true := by
  refine ⟨checkFormat_good, fun ⟨hbody, hrange⟩ => ?_⟩
  rw [hbody, checkFormat_body (allows_le (inRange_iff.1 hrange).1)]
  exact if_pos hrange

/-- R160: checks 4 to 6 have no third outcome. -/
theorem checkFormat_cases (own : Byte) (body : List Byte) :
    (∃ f, checkFormat own body = .good f) ∨ checkFormat own body = .formatError := by
  unfold checkFormat
  split
  · split
    · split
      · unfold Frame.verdict
        split
        · exact .inl ⟨_, rfl⟩
        · exact .inr rfl
      · exact .inr rfl
    · exact .inr rfl
  · exact .inr rfl

/-! ### The checks of a frame end -/

/-- R160, checks 1 to 3, and the bound on a frame's bytes (R157). -/
def intactFrame (status : FrameStatus) (bytes : List Byte) : Prop :=
  status = .good ∧ 9 ≤ bytes.length ∧ bytes.length ≤ 256 ∧
    bytes.drop (bytes.length - 2) = halfBytes (checkSequence (bytes.take (bytes.length - 2)))

theorem leavesIgnoring_iff (status : FrameStatus) (bytes : List Byte) :
    leavesIgnoring status bytes = true ↔ status = .cutOff ∨ 256 < bytes.length := by
  rw [leavesIgnoring, Bool.or_eq_true, decide_eq_true_eq, decide_eq_true_eq]
  rfl

/-- R157, R160: what a frame end makes of its bytes. -/
def frameVerdict (own : Byte) (status : FrameStatus) (bytes : List Byte) : Verdict :=
  if leavesIgnoring status bytes then .checkError else checkFrame own status bytes

theorem frameVerdict_intact {status : FrameStatus} {bytes : List Byte} (h : intactFrame status bytes) :
    frameVerdict own status bytes = checkFormat own (bytes.take (bytes.length - 2)) := by
  obtain ⟨rfl, hlow, hhigh, hcheck⟩ := h
  have hlong : ¬ leavesIgnoring .good bytes = true := by
    rw [leavesIgnoring_iff]
    exact fun h => h.elim nofun fun h => absurd h (Nat.not_lt.2 hhigh)
  rw [frameVerdict, if_neg hlong]
  unfold checkFrame
  dsimp only
  rw [if_neg (not_not.2 rfl), if_neg (Nat.not_lt.2 hlow), if_neg (not_not.2 hcheck)]

theorem frameVerdict_damaged {status : FrameStatus} {bytes : List Byte} (h : ¬ intactFrame status bytes) :
    frameVerdict own status bytes = .checkError := by
  unfold frameVerdict
  split
  · rfl
  · next hlong =>
    rw [leavesIgnoring_iff, not_or, Nat.not_lt] at hlong
    unfold checkFrame
    dsimp only
    split
    · rfl
    · next hstatus =>
      split
      · rfl
      · next hlow =>
        split
        · rfl
        · next hcheck =>
          exact absurd ⟨not_not.1 hstatus, Nat.not_lt.1 hlow, hlong.2, not_not.1 hcheck⟩ h

theorem exec_frameEnd (status : FrameStatus) (bytes : List Byte) :
    exec (.frameEnd status bytes) s =
      .next ((s.receiveFrame fun own => frameVerdict own status bytes).ignoreIf
        (leavesIgnoring status bytes && !s.deaf)) := rfl

/-! ### Frames as bytes -/

theorem encode_intact (hlength : f.payload.length ≤ 240) :
    intactFrame .good f.encode ∧ f.encode.take (f.encode.length - 2) = f.body := by
  have htwo : (halfBytes (checkSequence f.body)).length = 2 := rfl
  have hseven : f.body.length = 7 + f.payload.length := by
    rw [Frame.body, List.length_append]
    rfl
  have hlen : f.encode.length - 2 = f.body.length := by
    rw [Frame.encode, List.length_append, htwo, Nat.add_sub_cancel]
  have htake : f.encode.take (f.encode.length - 2) = f.body := by
    rw [hlen, Frame.encode, List.take_left]
  refine ⟨⟨rfl, ?_, ?_, ?_⟩, htake⟩
  · rw [Frame.encode, List.length_append, htwo, hseven]
    omega
  · rw [Frame.encode, List.length_append, htwo, hseven]
    omega
  · rw [htake, hlen, Frame.encode, List.drop_left]

/-- R160: what the checks make of a frame's own bytes. -/
theorem frameVerdict_encode (hlength : f.payload.length ≤ 240) :
    frameVerdict own .good f.encode = Frame.verdict own f := by
  obtain ⟨hintact, htake⟩ := encode_intact hlength
  rw [frameVerdict_intact hintact, htake, checkFormat_body hlength]

/-- R197: a typed reception is the frame end of its frame as bytes. -/
theorem frameEnd_encode {h : RxHead} {k : FrameKind} {payload : List Byte} (hs : s.listening)
    (hlength : payload.length ≤ 240) :
    exec (.frameEnd .good (s.frameFrom h k payload).encode) s = .next (s.receiveFrame (frameFor k h payload)) := by
  have hshort : leavesIgnoring .good (s.frameFrom h k payload).encode = false := by
    rw [← Bool.not_eq_true, leavesIgnoring_iff]
    exact fun hout => hout.elim nofun fun hout => absurd hout (Nat.not_lt.2
      (encode_intact (f := s.frameFrom h k payload) hlength).1.2.2.1)
  rw [exec_frameEnd, hshort, Bool.false_and, receiveFrame_heard hs, receiveFrame_heard hs,
    frameVerdict_encode (f := s.frameFrom h k payload) hlength]
  rfl

theorem checkSequence_append (front : List Byte) (b : Byte) :
    checkSequence (front ++ [b]) = crcByte (checkSequence front) b := List.foldl_append ..

theorem crcBit_eq (reg : Half) (bit : Bool) :
    crcBit reg bit = if bit = reg.getLsbD 15 then reg <<< 1 else (reg <<< 1) ^^^ 0x8005 := by
  unfold crcBit
  by_cases hsame : bit = reg.getLsbD 15
  · rw [if_pos hsame, if_neg (by simp [hsame])]
  · rw [if_neg hsame, if_pos (by simpa using hsame)]

/-- Settles O36. -/
theorem receptionsAreFrameEnds : Obligations.ReceptionsAreFrameEnds := by
  refine ⟨⟨rfl, fun front b => ?_⟩, rfl, fun f => rfl, fun s h hs => ?_⟩
  · rw [checkSequence_append, crcByte]
    refine congrArg (fun g => List.foldl g (checkSequence front) [7, 6, 5, 4, 3, 2, 1, 0]) ?_
    exact funext fun reg => funext fun i => crcBit_eq reg (b.getLsbD i)
  · intro line
    exact ⟨fun payload _ h2 => frameEnd_encode hs.1 h2, frameEnd_encode hs.1 (by simp), frameEnd_encode hs.1 (by simp),
      frameEnd_encode hs.1 (by simp), fun _ _ => frameEnd_encode hs.1 (by simp), fun _ => frameEnd_encode hs.1 (by simp),
      fun _ => frameEnd_encode hs.1 (by simp), frameEnd_encode hs.1 (by simp), fun _ => frameEnd_encode hs.1 (by simp),
      frameEnd_encode hs.1 (by simp)⟩

/-! ### What a frame end counts -/

theorem deaf_of (h : s.resetLow = true ∨ s.sched.tx ≠ none ∨ s.line.ignoring = true) : s.deaf = true := by
  rw [State.deaf, Bool.or_eq_true, Bool.or_eq_true]
  rcases h with h | h | h
  · exact .inl (.inl h)
  · exact .inl (.inr (Option.isSome_iff_ne_none.2 h))
  · exact .inr h

theorem receiveFrame_deaf (h : s.deaf = true) (verdict : Byte → Verdict) : s.receiveFrame verdict = s := by
  rw [State.receiveFrame, if_pos h]

theorem exec_frameEnd_deaf (h : s.deaf = true) (status : FrameStatus) (bytes : List Byte) :
    exec (.frameEnd status bytes) s = .next s := by
  rw [exec_frameEnd, receiveFrame_deaf h, h, Bool.not_true, Bool.and_false]
  rfl

/-- R157: the end of a frame whose start was reported. -/
theorem frameOver_receiving (h : s.line.receiving = true) :
    s.frameOver = { s with line := { s.line with receiving := false } } := by
  unfold State.frameOver
  rw [h]
  rfl

/-- R160: the whole frame end at a part that hears it. -/
theorem exec_frameEnd_heard (hs : s.listening) (status : FrameStatus) (bytes : List Byte) :
    exec (.frameEnd status bytes) s =
      .next ((s.frameOver.takeVerdict (frameVerdict s.config.station status bytes)).ignoreIf
        (leavesIgnoring status bytes)) := by
  rw [exec_frameEnd, receiveFrame_heard hs, not_deaf hs, Bool.not_false, Bool.and_true]

theorem intactFrame_short {status : FrameStatus} {bytes : List Byte} (h : intactFrame status bytes) :
    leavesIgnoring status bytes = false := by
  obtain ⟨rfl, -, hhigh, -⟩ := h
  rw [← Bool.not_eq_true, leavesIgnoring_iff]
  exact fun hout => hout.elim nofun fun hout => absurd hout (Nat.not_lt.2 hhigh)

/-- R163: a good frame for another station reaches the turn controller alone. -/
theorem exec_frameEnd_foreign (hs : s.listening) {status : FrameStatus} {bytes : List Byte}
    (hintact : intactFrame status bytes)
    (hgood : checkFormat s.config.station (bytes.take (bytes.length - 2)) = .good f)
    (hother : f.dest ≠ s.config.station) :
    exec (.frameEnd status bytes) s = .next ((s.frameOver.hearStation f.src).turnFrameEnd f) := by
  have hdest : ¬ f.dest = s.frameOver.config.station := by rwa [(frameOver_beside s).config]
  rw [exec_frameEnd_heard hs, frameVerdict_intact hintact, hgood, intactFrame_short hintact, State.takeVerdict,
    State.dispatch]
  simp only [if_neg hdest]
  rfl

theorem countUp_eq (n : Nat) : countUp n = min 65535 (n + 1) := by
  unfold countUp
  have hmax : Config.counterMax = 65535 := rfl
  rw [hmax]
  split <;> omega

/-- Settles O35. -/
theorem frameEndCountsAndReports : Obligations.FrameEndCountsAndReports := by
  refine ⟨fun s hdeaf => ⟨exec_frameEnd_deaf (deaf_of hdeaf), fun h payload a b i hi => ?_⟩, fun s hno => ?_,
    fun own body => ⟨fun f => ?_, fun hnone => ?_⟩, fun s status bytes hs hreceiving => ?_, fun s => rfl, fun k => ?_⟩
  · have hnothing (k : FrameKind) (payload : List Byte) :
        Host.Outcome.next (s.receiveFrame (frameFor k h payload)) = (.next s : Host.Outcome State Fault Refusal) :=
      congrArg _ (receiveFrame_deaf (deaf_of hdeaf) _)
    simp only [List.mem_cons, List.not_mem_nil, or_false] at hi
    rcases hi with rfl | rfl | rfl | rfl | rfl | rfl | rfl | rfl | rfl | rfl <;> exact hnothing _ _
  · have hif : (s.deaf || s.line.receiving) = true := by
      rw [Bool.or_eq_true]
      rcases hno with h | h | h | h
      · exact .inl (deaf_of (.inl h))
      · exact .inl (deaf_of (.inr (.inl h)))
      · exact .inl (deaf_of (.inr (.inr h)))
      · exact .inr h
    show execFrameStart s = _
    rw [execFrameStart, if_pos hif]
  · intro n
    rw [checkFormat_iff, inRange_iff, allows_iff]
    rfl
  · exact (checkFormat_cases own body).resolve_left fun ⟨f, hf⟩ => hnone f hf
  · intro ended body intact
    have hover : s.frameOver = ended := frameOver_receiving hreceiving
    have hiff : intact ↔ intactFrame status bytes := Iff.rfl
    refine ⟨fun hno => ?_, fun hintact hformat => ?_, fun hintact f hgood hother => ?_⟩
    · rw [exec_frameEnd_heard hs, frameVerdict_damaged fun h => hno (hiff.2 h), hover]
      refine congrArg Host.Outcome.next ?_
      by_cases hlong : leavesIgnoring status bytes = true
      · have hcut : decide (status = .cutOff ∨ 256 < bytes.length) = true :=
          decide_eq_true ((leavesIgnoring_iff status bytes).1 hlong)
        rw [hlong, hcut]
        rfl
      · have hcut : decide (status = .cutOff ∨ 256 < bytes.length) = s.line.ignoring := by
          rw [hs.2.2]
          exact decide_eq_false fun h => hlong ((leavesIgnoring_iff status bytes).2 h)
        rw [Bool.eq_false_iff.2 hlong, hcut]
        rfl
    · rw [exec_frameEnd_heard hs, frameVerdict_intact (hiff.1 hintact), intactFrame_short (hiff.1 hintact), hformat, hover]
      rfl
    · rw [exec_frameEnd_foreign hs (hiff.1 hintact) hgood hother, hover]
  · intro more
    simp only [more, ← countUp_eq]
    exact ⟨rfl, rfl, rfl, rfl, rfl, rfl⟩

/-! ### The turn controller at a good frame -/

theorem hearStation_silent {src : Byte} (hon : s.turn.engine ≠ .offline)
    (hsilent : ∃ x ∈ s.turn.list, x.address = src ∧ x.present = false) :
    s.hearStation src =
      (s.withTurn
        { s.turn with
          list := s.turn.list.map fun x => if x.address = src then { x with present := true } else x }).lineEvent
        (.stationPresent src) := by
  have hif : (decide (s.turn.engine ≠ .offline) && s.turn.isSilent src) = true := by
    rw [isSilent_iff.2 hsilent, decide_eq_true hon]
    rfl
  rw [State.hearStation, if_pos hif]
  rfl

theorem hearStation_known {src : Byte}
    (h : s.turn.engine = .offline ∨ ∀ x ∈ s.turn.list, x.address = src → x.present = true) :
    s.hearStation src = s := by
  refine if_neg fun hif => ?_
  obtain ⟨hon, hsilent⟩ := Bool.and_eq_true_iff.1 hif
  obtain ⟨x, hx, ha, hp⟩ := isSilent_iff.1 hsilent
  rcases h with h | h
  · exact of_decide_eq_true hon h
  · rw [h x hx ha] at hp
    cases hp

/-- A TURN to the part. -/
def Frame.isOurTurn (f : Frame) (own : Byte) : Prop := f.kind = .turn ∧ f.dest = own

theorem ours_iff {f : Frame} {own : Byte} :
    (decide (f.kind = .turn) && decide (f.dest = own)) = true ↔ f.isOurTurn own := by
  rw [Bool.and_eq_true, decide_eq_true_eq, decide_eq_true_eq]
  rfl

theorem turnFrameEnd_yields (h : s.turn.engine = .holding) (hours : ¬ f.isOurTurn s.config.station) :
    s.turnFrameEnd f = s.yieldTurn f.src := by
  unfold State.turnFrameEnd
  simp only [h]
  exact if_neg fun hif => hours (ours_iff.1 hif)

theorem turnFrameEnd_renews (h : s.turn.engine = .holding) (hours : f.isOurTurn s.config.station) :
    s.turnFrameEnd f = (s.renewTurn f.src).schedule := by
  unfold State.turnFrameEnd
  simp only [h]
  exact if_pos (ours_iff.2 hours)

theorem turnFrameEnd_begins (h : s.turn.engine = .waiting) (hours : f.isOurTurn s.config.station) :
    s.turnFrameEnd f = s.beginTurn.schedule := by
  unfold State.turnFrameEnd
  simp only [h]
  exact if_pos (ours_iff.2 hours)

theorem turnFrameEnd_keeps
    (h : s.turn.engine = .offline ∨ s.turn.engine = .handing ∨ s.turn.engine = .stopping ∨
      (s.turn.engine = .waiting ∧ ¬ f.isOurTurn s.config.station)) : s.turnFrameEnd f = s := by
  unfold State.turnFrameEnd
  rcases h with h | h | h | ⟨h, hours⟩
  · simp only [h]
  · simp only [h]
  · simp only [h]
  · simp only [h]
    exact if_neg fun hif => hours (ours_iff.1 hif)

/-- R137: a frame that is no TURN to the part changes no turn that it does not hold. -/
theorem turnFrameEnd_elsewhere (h : s.turn.engine ≠ .holding) (hours : ¬ f.isOurTurn s.config.station) :
    s.turnFrameEnd f = s := by
  refine turnFrameEnd_keeps ?_
  generalize s.turn.engine = engine at h
  cases engine with
  | offline => exact .inl rfl
  | waiting => exact .inr (.inr (.inr ⟨rfl, hours⟩))
  | holding => exact absurd rfl h
  | handing => exact .inr (.inl rfl)
  | stopping => exact .inr (.inr (.inl rfl))

/-- R163: a TURN for the part is not routed. -/
theorem exec_turnReceived {h : RxHead} (hs : s.canHear h) :
    exec (.turnReceived h) s = .next (s.reached (s.frameFrom h .turn [])) :=
  congrArg Host.Outcome.next (received_eq hs (k := .turn) (payload := []) rfl)

/-- R163: a good frame for the part, its start reported before, when the turn controller takes it. -/
theorem reached_receiving (h : s.line.receiving = true) :
    s.reached f =
      (({ s with line := { s.line with receiving := false }, stats := s.stats.frameForUs } : State).hearStation
        f.src).turnFrameEnd f := by
  rw [reached_eq, frameOver_receiving h]
  rfl

/-- R160: bytes with their check sequence behind them. -/
theorem intactFrame_checked {body : List Byte} (hlow : 7 ≤ body.length) (hhigh : body.length ≤ 254) :
    intactFrame .good (body ++ halfBytes (checkSequence body)) ∧
      (body ++ halfBytes (checkSequence body)).take ((body ++ halfBytes (checkSequence body)).length - 2) = body := by
  have htwo : (halfBytes (checkSequence body)).length = 2 := rfl
  have hlength : (body ++ halfBytes (checkSequence body)).length = body.length + 2 := by
    rw [List.length_append, htwo]
  have htake : (body ++ halfBytes (checkSequence body)).take ((body ++ halfBytes (checkSequence body)).length - 2) =
      body := by
    rw [hlength, Nat.add_sub_cancel, List.take_left]
  refine ⟨⟨rfl, by omega, by omega, ?_⟩, htake⟩
  rw [htake, hlength, Nat.add_sub_cancel, List.drop_left]

/-- Settles O37. -/
theorem turnControllerTakesGoodFrames : Obligations.TurnControllerTakesGoodFrames := by
  refine ⟨fun s h hs hreceiving hknown => ?_, fun s h hs hreceiving hon hsilent => ?_,
    fun s src => ⟨hearStation_silent, hearStation_known⟩, fun s f => ?_,
    fun s body f hs hreceiving hlow hhigh hgood hother hknown => ?_⟩
  · intro counted more
    have hreached (f : Frame) (hsrc : f.src = h.src) : s.reached f = (counted s.turn).turnFrameEnd f := by
      rw [reached_receiving hreceiving, hearStation_known (.inr (by rw [hsrc]; exact hknown))]
    have hours : (s.frameFrom h .turn []).isOurTurn (counted s.turn).config.station := ⟨rfl, rfl⟩
    have hturn {t : State} (ht : (counted s.turn).turnFrameEnd (s.frameFrom h .turn []) = t) :
        exec (.turnReceived h) s = .next t := by
      rw [exec_turnReceived hs, hreached _ rfl, ht]
    refine ⟨fun he => hturn (turnFrameEnd_begins (s := counted s.turn) he hours),
      fun he => hturn (turnFrameEnd_renews (s := counted s.turn) he hours),
      fun he => hturn (turnFrameEnd_keeps (s := counted s.turn) (he.imp_right (·.imp_right .inl))), fun k payload hk => ?_⟩
    have hnot : ¬ (s.frameFrom h k payload).isOurTurn (counted s.turn).config.station := fun hours => hk hours.1
    exact ⟨fun he => (hreached _ rfl).trans (turnFrameEnd_yields (s := counted s.turn) he hnot),
      fun he => (hreached _ rfl).trans (turnFrameEnd_elsewhere (s := counted s.turn) he hnot)⟩
  · intro list hold more marked
    have hmarked : ({ s with line := { s.line with receiving := false }, stats := s.stats.frameForUs } : State).hearStation
        h.src = marked := hearStation_silent hon hsilent
    have hours : (s.frameFrom h .turn []).isOurTurn marked.config.station := ⟨rfl, rfl⟩
    have hturn {t : State} (ht : marked.turnFrameEnd (s.frameFrom h .turn []) = t) :
        exec (.turnReceived h) s = .next t := by
      rw [exec_turnReceived hs, reached_receiving hreceiving, ← ht, ← hmarked]
      rfl
    exact ⟨fun he => hturn (turnFrameEnd_begins (s := marked) he hours),
      fun he => hturn (turnFrameEnd_renews (s := marked) he hours),
      fun he => hturn (turnFrameEnd_keeps (s := marked) (he.elim (fun he => .inr (.inl he)) fun he => .inr (.inr (.inl he))))⟩
  · intro ours hold more yields
    exact ⟨turnFrameEnd_yields, turnFrameEnd_renews, turnFrameEnd_begins, turnFrameEnd_keeps⟩
  · intro ended reported
    obtain ⟨hintact, htake⟩ := intactFrame_checked hlow hhigh
    have hnot : ¬ f.isOurTurn ended.config.station := fun hours => hother hours.2
    have hends : reported = .next (ended.turnFrameEnd f) := by
      have hheard := exec_frameEnd_foreign hs hintact (by rw [htake]; exact hgood) hother
      have hquiet : ended.hearStation f.src = ended := hearStation_known (.inr hknown)
      rw [frameOver_receiving hreceiving] at hheard
      exact hquiet ▸ hheard
    exact ⟨fun he => hends.trans (congrArg _ (turnFrameEnd_yields (s := ended) he hnot)),
      fun he => hends.trans (congrArg _ (turnFrameEnd_elsewhere (s := ended) he hnot))⟩

end Sys2Proof.Machine
end

section
/-! What the promises on a connection say of one entry, state by state, and the changes of an entry that keep them. -/

namespace Sys2Proof.Machine

/-! ### The promise on one entry by its state -/

/-- R2, R9 to R12, R24: what is promised of an OPEN or DRAINING entry, but that a DRAINING one holds a message. -/
structure ConnEntry.TransferOk (c : ConnEntry) : Prop where
  params : c.paramsOk
  orphan : c.orphan = false
  peer : c.hasPeer
  window : c.windowOk
  control : c.controlDue = .none ∨ c.controlDue = .sendAccept
  endReason : c.endReason = none
  timedOut : c.closeTimedOut = false
  finished : c.closeFinished = false

/-- R12: a DRAINING entry holds a message. -/
def ConnEntry.drainsOk (c : ConnEntry) : Prop := c.state = .draining → c.sendQueue ≠ [] ∨ c.unacked ≠ []

/-- R8: what is promised of an OPENING entry. -/
structure ConnEntry.OpeningOk (c : ConnEntry) : Prop where
  params : c.paramsOk
  orphan : c.orphan = false
  noPeer : c.remoteIndex = none
  flags : c.flags = {}
  queue : c.sendQueue = []
  unacked : c.unacked = []
  notices : c.notices = []
  vs : c.vs = 0
  va : c.va = 0
  vr : c.vr = 0
  control : c.controlDue = .none ∨ c.controlDue = .sendOpen
  endReason : c.endReason = none
  timedOut : c.closeTimedOut = false
  finished : c.closeFinished = false

/-- R13, R14: what is promised of a CLOSING entry. -/
structure ConnEntry.ClosingOk (c : ConnEntry) (onLine : Option Seq) : Prop where
  params : c.paramsOk
  peer : c.hasPeer
  flags : c.flags = {}
  emptied : c.emptiedBut onLine
  control : c.controlDue = .none ∨ (c.controlDue = .sendClose ∧ c.answerTimer = none)
  endReason : c.endReason = none
  orphan : c.orphan = true → c.notices = []
  timedOut : c.closeTimedOut = true → c.closeFinished = true
  finished : c.closeFinished = true →
    c.notices ≠ [] ∧ c.unacked = [] ∧ c.controlDue = .none ∧ c.answerTimer = none

/-- R15, R18: what is promised of an ENDED entry. -/
structure ConnEntry.EndedOk (c : ConnEntry) (onLine : Option Seq) : Prop where
  params : c.paramsOk
  orphan : c.orphan = false
  peer : c.unacked ≠ [] → c.hasPeer
  flags : c.flags = {}
  emptied : c.emptiedBut onLine
  control : c.controlDue = .none
  timer : c.answerTimer = none
  endReason : c.endReason ≠ none
  timedOut : c.closeTimedOut = false
  finished : c.closeFinished = false

variable {c d : ConnEntry} {o o' : Option Seq}

theorem ok_free (h : c.state = .free) : c.ok o ↔ c = {} := by
  unfold ConnEntry.ok
  rw [h]

theorem ok_live (h : c.live = true) : c.ok o ↔ c.TransferOk ∧ c.drainsOk := by
  have hok : c.ok o ↔ (c.paramsOk ∧ c.orphan = false ∧ c.hasPeer ∧ c.windowOk ∧
      (c.controlDue = .none ∨ c.controlDue = .sendAccept) ∧
      (c.state = .draining → c.sendQueue ≠ [] ∨ c.unacked ≠ []) ∧
      c.endReason = none ∧ c.closeTimedOut = false ∧ c.closeFinished = false) := by
    unfold ConnEntry.ok
    rcases live_iff.1 h with h | h <;> rw [h]
  rw [hok]
  exact ⟨fun ⟨hp, ho, hpeer, hw, hc, hd, he, ht, hf⟩ => ⟨⟨hp, ho, hpeer, hw, hc, he, ht, hf⟩, hd⟩,
    fun ⟨⟨hp, ho, hpeer, hw, hc, he, ht, hf⟩, hd⟩ => ⟨hp, ho, hpeer, hw, hc, hd, he, ht, hf⟩⟩

theorem ok_opening (h : c.state = .opening) : c.ok o ↔ c.OpeningOk := by
  unfold ConnEntry.ok
  rw [h]
  exact ⟨fun ⟨h1, h2, h3, h4, h5, h6, h7, h8, h9, h10, h11, h12, h13, h14⟩ =>
      ⟨h1, h2, h3, h4, h5, h6, h7, h8, h9, h10, h11, h12, h13, h14⟩,
    fun ⟨h1, h2, h3, h4, h5, h6, h7, h8, h9, h10, h11, h12, h13, h14⟩ =>
      ⟨h1, h2, h3, h4, h5, h6, h7, h8, h9, h10, h11, h12, h13, h14⟩⟩

theorem ok_closing (h : c.state = .closing) : c.ok o ↔ c.ClosingOk o := by
  unfold ConnEntry.ok
  rw [h]
  exact ⟨fun ⟨h1, h2, h3, h4, h5, h6, h7, h8, h9⟩ => ⟨h1, h2, h3, h4, h5, h6, h7, h8, h9⟩,
    fun ⟨h1, h2, h3, h4, h5, h6, h7, h8, h9⟩ => ⟨h1, h2, h3, h4, h5, h6, h7, h8, h9⟩⟩

theorem ok_ended (h : c.state = .ended) : c.ok o ↔ c.EndedOk o := by
  unfold ConnEntry.ok
  rw [h]
  exact ⟨fun ⟨h1, h2, h3, h4, h5, h6, h7, h8, h9, h10⟩ => ⟨h1, h2, h3, h4, h5, h6, h7, h8, h9, h10⟩,
    fun ⟨h1, h2, h3, h4, h5, h6, h7, h8, h9, h10⟩ => ⟨h1, h2, h3, h4, h5, h6, h7, h8, h9, h10⟩⟩

/-- The five forms of the promise. -/
theorem ok_forms (h : c.ok o) :
    c = {} ∨ (c.state = .opening ∧ c.OpeningOk) ∨ (c.live = true ∧ c.TransferOk ∧ c.drainsOk) ∨
      (c.state = .closing ∧ c.ClosingOk o) ∨ (c.state = .ended ∧ c.EndedOk o) := by
  cases hs : c.state with
  | free => exact .inl ((ok_free hs).1 h)
  | opening => exact .inr (.inl ⟨rfl, (ok_opening hs).1 h⟩)
  | opened =>
    have hlive := live_iff.2 (.inl hs)
    exact .inr (.inr (.inl ⟨hlive, (ok_live hlive).1 h⟩))
  | draining =>
    have hlive := live_iff.2 (.inr hs)
    exact .inr (.inr (.inl ⟨hlive, (ok_live hlive).1 h⟩))
  | closing => exact .inr (.inr (.inr (.inl ⟨rfl, (ok_closing hs).1 h⟩)))
  | ended => exact .inr (.inr (.inr (.inr ⟨rfl, (ok_ended hs).1 h⟩)))

/-- R13, R15: the flags of an entry that is not OPEN or DRAINING are clear. -/
theorem ok_flags (h : c.ok o) (hdead : c.live = false) : c.flags = {} := by
  rcases ok_forms h with rfl | ⟨-, k⟩ | ⟨hlive, -⟩ | ⟨-, k⟩ | ⟨-, k⟩
  · rfl
  · exact k.flags
  · rw [hdead] at hlive
    cases hlive
  · exact k.flags
  · exact k.flags

/-! ### Parameters -/

/-- The parameters that an entry gets once, in OPENING or at its acceptance. -/
structure ConnEntry.SameLink (c d : ConnEntry) : Prop where
  owner : d.owner = c.owner
  remoteStation : d.remoteStation = c.remoteStation
  service : d.service = c.service
  priority : d.priority = c.priority
  window : d.window = c.window
  retryLimit : d.retryLimit = c.retryLimit
  answerTime : d.answerTime = c.answerTime

/-- The parameters stay in range under a change of the retry count and the answer timer. -/
theorem paramsOk_change (h : c.paramsOk) (hlink : c.SameLink d) (hcount : d.retryCount ≤ c.retryLimit.getD 0)
    (htimer : d.answerTimer = c.answerTimer ∨ d.answerTimer = none ∨ d.answerTimer = c.answerTime) : d.paramsOk := by
  obtain ⟨hpresent, hwindow, hlimit, htime, -, hrange⟩ := h
  obtain ⟨howner, hstation, hservice, hpriority, hw, hr, ht⟩ := hlink
  unfold ConnEntry.paramsOk
  rw [howner, hstation, hservice, hpriority, hw, hr, ht]
  refine ⟨hpresent, hwindow, hlimit, htime, hcount, fun hsome => ?_⟩
  rcases htimer with heq | heq | heq
  · rw [heq] at hsome ⊢
    exact hrange hsome
  · exact absurd heq hsome
  · rw [heq]
    omega

theorem paramsOk_count (h : c.paramsOk) : c.retryCount ≤ c.retryLimit.getD 0 := h.2.2.2.2.1

theorem paramsOk_same (h : c.paramsOk) (hlink : c.SameLink d) (hcount : d.retryCount = c.retryCount)
    (htimer : d.answerTimer = c.answerTimer ∨ d.answerTimer = none ∨ d.answerTimer = c.answerTime) : d.paramsOk :=
  paramsOk_change h hlink (hcount ▸ paramsOk_count h) htimer

theorem paramsOk_stopped (h : c.paramsOk) (hlink : c.SameLink d) (hcount : d.retryCount = c.retryCount ∨ d.retryCount = 0)
    (htimer : d.answerTimer = none) : d.paramsOk := by
  refine paramsOk_change h hlink ?_ (.inr (.inl htimer))
  rcases hcount with hsame | hzero
  · exact hsame ▸ paramsOk_count h
  · rw [hzero]
    exact Nat.zero_le _

/-! ### The window -/

/-- R24: the SNs of the unacknowledged list are different, as the window is below eight. -/
theorem windowOk_nodup (hparams : c.paramsOk) (h : c.windowOk) : (c.unacked.map (·.sn)).Nodup := by
  obtain ⟨hle, -, hsns⟩ := h
  obtain ⟨-, ⟨-, hfour⟩, -⟩ := hparams
  rw [hsns]
  refine List.Nodup.map_on (fun i hi j hj hij => ?_) List.nodup_range
  have hi := List.mem_range.1 hi
  have hj := List.mem_range.1 hj
  have hsame := congrArg BitVec.toNat (add_left_cancel hij)
  simp only [BitVec.toNat_ofNat] at hsame
  omega

/-- R24: the window promise asks for the unacknowledged list's SNs alone. -/
theorem windowOk_sns (h : c.windowOk) (hwindow : d.window = c.window) (hvs : d.vs = c.vs) (hva : d.va = c.va)
    (hsns : d.unacked.map (·.sn) = c.unacked.map (·.sn)) : d.windowOk := by
  have hlength : d.unacked.length = c.unacked.length := by
    simpa using congrArg List.length hsns
  unfold ConnEntry.windowOk
  rw [hwindow, hvs, hva, hsns, hlength]
  exact h

/-- R34: the acknowledged messages leave the head of the window. -/
theorem windowOk_takeAck {en : Seq} (h : c.windowOk) (hn : (en - c.va).toNat ≤ c.unacked.length) :
    (c.takeAck en (en - c.va).toNat).windowOk := by
  obtain ⟨hle, hdist, hsns⟩ := h
  have hva : en = c.va + BitVec.ofNat 3 (en - c.va).toNat := by
    rw [BitVec.ofNat_toNat, BitVec.setWidth_eq, add_sub_cancel]
  generalize (en - c.va).toNat = n at hn hva
  refine ⟨?_, ?_, ?_⟩
  · exact (List.length_drop ▸ Nat.sub_le _ _ : (c.unacked.drop n).length ≤ c.unacked.length).trans hle
  · show c.vs - en = BitVec.ofNat 3 (c.unacked.drop n).length
    have hsplit : BitVec.ofNat 3 c.unacked.length =
        BitVec.ofNat 3 n + BitVec.ofNat 3 (c.unacked.length - n) := by
      rw [← BitVec.ofNat_add, Nat.add_sub_cancel' hn]
    rw [List.length_drop, hva, ← sub_sub, hdist, hsplit, add_sub_cancel_left]
  · show (c.unacked.drop n).map (·.sn) = (List.range (c.unacked.drop n).length).map fun i => en + BitVec.ofNat 3 i
    rw [List.map_drop, hsns]
    refine List.ext_getElem (by simp) fun i _ _ => ?_
    simp [hva, BitVec.ofNat_add, add_assoc]

/-- R28: a new message joins the window with the SN VS. -/
theorem windowOk_append {m : SentMsg} (h : c.windowOk) (hroom : c.unacked.length < c.window.getD 0) (hsn : m.sn = c.vs)
    (hwindow : d.window = c.window) (hvs : d.vs = c.vs + 1) (hva : d.va = c.va)
    (hunacked : d.unacked = c.unacked ++ [m]) : d.windowOk := by
  obtain ⟨-, hdist, hsns⟩ := h
  have hlast : c.vs = c.va + BitVec.ofNat 3 c.unacked.length := by rw [← hdist, add_sub_cancel]
  unfold ConnEntry.windowOk
  rw [hwindow, hvs, hva, hunacked, List.length_append, List.length_singleton]
  refine ⟨hroom, ?_, ?_⟩
  · rw [BitVec.ofNat_add, ← hdist]
    exact add_sub_right_comm ..
  · rw [List.map_append, hsns, List.range_succ, List.map_append, List.map_singleton, List.map_singleton, hsn, ← hlast]

theorem windowOk_empty (hwindow : d.unacked = []) (hvs : d.vs = d.va) : d.windowOk := by
  unfold ConnEntry.windowOk
  rw [hwindow, hvs, sub_self]
  exact ⟨Nat.zero_le _, rfl, rfl⟩

/-! ### Changes while the transfer runs -/

/-- What a change of an OPEN or DRAINING entry keeps, while it is OPEN or DRAINING. -/
structure ConnEntry.Carries (c d : ConnEntry) : Prop where
  fields : d =
    { c with
      vs := d.vs, va := d.va, vr := d.vr, sendQueue := d.sendQueue, unacked := d.unacked, notices := d.notices
      flags := d.flags, controlDue := d.controlDue, retryCount := d.retryCount, answerTimer := d.answerTimer
      answerPhase := d.answerPhase }
  control : d.controlDue = c.controlDue ∨ d.controlDue = .none ∨ d.controlDue = .sendAccept
  retryCount : c.paramsOk → d.retryCount ≤ c.retryLimit.getD 0
  answerTimer : d.answerTimer = c.answerTimer ∨ d.answerTimer = none ∨ d.answerTimer = c.answerTime
  window : c.windowOk → d.windowOk

section
variable (h : c.Carries d)
include h

theorem ConnEntry.Carries.state : d.state = c.state := (congrArg ConnEntry.state h.fields :)

theorem ConnEntry.Carries.live : d.live = c.live := by
  unfold ConnEntry.live
  rw [h.state]

theorem ConnEntry.Carries.link : c.SameLink d :=
  ⟨(congrArg ConnEntry.owner h.fields :), (congrArg ConnEntry.remoteStation h.fields :),
    (congrArg ConnEntry.service h.fields :), (congrArg ConnEntry.priority h.fields :),
    (congrArg ConnEntry.window h.fields :), (congrArg ConnEntry.retryLimit h.fields :),
    (congrArg ConnEntry.answerTime h.fields :)⟩

theorem ConnEntry.Carries.remoteIndex : d.remoteIndex = c.remoteIndex := (congrArg ConnEntry.remoteIndex h.fields :)

theorem ConnEntry.Carries.orphan : d.orphan = c.orphan := (congrArg ConnEntry.orphan h.fields :)

theorem ConnEntry.Carries.params (k : c.paramsOk) : d.paramsOk :=
  paramsOk_change k h.link (h.retryCount k) h.answerTimer

theorem ConnEntry.Carries.transfer (k : c.TransferOk) : d.TransferOk where
  params := h.params k.params
  orphan := h.orphan.trans k.orphan
  peer := by
    unfold ConnEntry.hasPeer
    rw [h.remoteIndex]
    exact k.peer
  window := h.window k.window
  control := by
    rcases h.control with heq | heq | heq
    · rw [heq]
      exact k.control
    · exact .inl heq
    · exact .inr heq
  endReason := (congrArg ConnEntry.endReason h.fields :).trans k.endReason
  timedOut := (congrArg ConnEntry.closeTimedOut h.fields :).trans k.timedOut
  finished := (congrArg ConnEntry.closeFinished h.fields :).trans k.finished

end

theorem ConnEntry.Carries.rfl : c.Carries c := ⟨Eq.refl _, .inl (Eq.refl _), paramsOk_count, .inl (Eq.refl _), id⟩

theorem ConnEntry.Carries.trans {b : ConnEntry} (h : b.Carries c) (k : c.Carries d) : b.Carries d where
  fields := by
    rw [k.fields, h.fields]
  control := by
    rcases k.control with heq | heq
    · rw [heq]
      exact h.control
    · exact .inr heq
  retryCount hb := h.link.retryLimit ▸ k.retryCount (h.params hb)
  answerTimer := by
    rcases k.answerTimer with heq | heq | heq
    · rw [heq]
      exact h.answerTimer
    · exact .inr (.inl heq)
    · exact .inr (.inr (heq.trans h.link.answerTime))
  window := k.window ∘ h.window

/-! ### The changes of a running transfer -/

/-- Flags, VR, notices, the send queue and the answer timer are free. -/
theorem carries_asides (c : ConnEntry) (f : Flags) (v : Seq) (q : List Msg) (ns : List Notice) {x : Option Nat} (y : Nat)
    (hx : x = c.answerTimer ∨ x = none ∨ x = c.answerTime) :
    c.Carries
      { c with flags := f, vr := v, sendQueue := q, notices := ns, answerTimer := x, answerPhase := y } :=
  ⟨Eq.refl _, .inl (Eq.refl _), paramsOk_count, hx, id⟩

theorem carries_flags (c : ConnEntry) (f : Flags) : c.Carries { c with flags := f } :=
  carries_asides c f c.vr c.sendQueue c.notices c.answerPhase (.inl (Eq.refl _))

theorem carries_notices (c : ConnEntry) (ns : List Notice) : c.Carries { c with notices := ns } :=
  carries_asides c c.flags c.vr c.sendQueue ns c.answerPhase (.inl (Eq.refl _))

theorem carries_control {x : ControlDue} (hx : x = .none ∨ x = .sendAccept) : c.Carries { c with controlDue := x } :=
  ⟨Eq.refl _, .inr hx, paramsOk_count, .inl (Eq.refl _), id⟩

theorem carries_settleTimer (c : ConnEntry) : c.Carries c.settleTimer := by
  unfold ConnEntry.settleTimer
  split
  · exact carries_asides c c.flags c.vr c.sendQueue c.notices 0 (.inr (.inl (Eq.refl _)))
  · exact .rfl

theorem carries_startTimer (c : ConnEntry) : c.Carries c.startTimer :=
  carries_asides c c.flags c.vr c.sendQueue c.notices 0 (.inr (.inr (Eq.refl _)))

theorem carries_endOfBusy (c : ConnEntry) : c.Carries c.endOfBusy := by
  rw [endOfBusy_eq]
  exact carries_flags c _

theorem carries_reconsider (pool : Pool) (c : ConnEntry) : c.Carries (c.reconsider pool) := by
  unfold ConnEntry.reconsider
  split
  · split
    · exact ((carries_flags c _).trans (carries_endOfBusy _)).trans (carries_settleTimer _)
    · exact .rfl
  · exact .rfl

theorem carries_nudged (c : ConnEntry) (hs : List Handle) (b : Pool) : c.Carries (c.nudged hs b) := by
  unfold ConnEntry.nudged
  split
  · exact .rfl
  · exact carries_reconsider b c

theorem carries_tunes (h : c.Tunes d) : c.Carries d where
  fields := by
    rw [h.fields]
  control := h.controlDue.imp_right .inr
  retryCount hc := by
    obtain ⟨-, -, hrange, -⟩ := id hc
    have hle := paramsOk_count hc
    rcases h.retryCount with hsame | ⟨hnext, hlimit⟩
    · exact hsame ▸ hle
    · rw [hnext]
      cases hl : c.retryLimit with
      | none =>
        rw [hl] at hrange
        exact absurd hrange.1 (by decide)
      | some n =>
        rw [hl] at hle hlimit
        have hne : n ≠ c.retryCount := fun h => hlimit (congrArg some h)
        exact Nat.lt_of_le_of_ne hle hne.symm
  answerTimer := h.answerTimer.imp_right .inl
  window k := by
    rw [h.fields]
    exact k

theorem carries_enqueue (c : ConnEntry) (m : Msg) : c.Carries (c.enqueue m) :=
  carries_asides c c.flags c.vr _ c.notices c.answerPhase (.inl (Eq.refl _))

theorem carries_takeAck {en : Seq} (hn : (en - c.va).toNat ≤ c.unacked.length) :
    c.Carries (c.takeAck en (en - c.va).toNat) where
  fields := Eq.refl _
  control := .inl (Eq.refl _)
  retryCount hc := by
    show (if (en - c.va).toNat = 0 then c.retryCount else 0) ≤ _
    split
    · exact paramsOk_count hc
    · exact Nat.zero_le _
  answerTimer := .inl (Eq.refl _)
  window h := windowOk_takeAck h hn

/-- R36, R37: marks for retransmission, and a retry count that starts again. -/
theorem carries_marks {ms : List SentMsg} (hms : ms.map (·.sn) = c.unacked.map (·.sn)) :
    c.Carries { c with unacked := ms } :=
  ⟨Eq.refl _, .inl (Eq.refl _), paramsOk_count, .inl (Eq.refl _), fun h => windowOk_sns h (Eq.refl _) (Eq.refl _) (Eq.refl _) hms⟩

theorem carries_markAll (c : ConnEntry) : c.Carries c.markAll := carries_marks (by simp [Function.comp_def])

theorem carries_answeredBy (c : ConnEntry) (a : Bool) : c.Carries (c.answeredBy a) := by
  unfold ConnEntry.answeredBy
  split
  · exact (carries_markAll c).trans ⟨Eq.refl _, .inl (Eq.refl _), fun _ => Nat.zero_le _, .inl (Eq.refl _), id⟩
  · exact .rfl

theorem carries_takeQuery (c : ConnEntry) (q : Bool) : c.Carries (c.takeQuery q) := by
  rw [takeQuery_eq]
  exact carries_flags c _

theorem carries_frameTimer (c : ConnEntry) (isWait progress : Bool) : c.Carries (c.frameTimer isWait progress) := by
  unfold ConnEntry.frameTimer
  split
  · exact .rfl
  · split
    · exact carries_startTimer c
    · exact .rfl

theorem carries_announceBusy (c : ConnEntry) : c.Carries c.announceBusy := by
  unfold ConnEntry.announceBusy
  split
  · exact carries_flags c _
  · exact .rfl

theorem carries_acceptData (c : ConnEntry) : c.Carries c.acceptData :=
  carries_asides c _ _ c.sendQueue c.notices c.answerPhase (.inl (Eq.refl _))

theorem carries_remark (c : ConnEntry) (sn : Option Seq) : c.Carries (c.remark sn) :=
  carries_marks (by
    rw [List.map_map]
    refine List.map_congr_left fun m _ => ?_
    dsimp only [Function.comp_apply]
    split <;> rfl)

theorem carries_startAfterSend (c : ConnEntry) : c.Carries c.startAfterSend := by
  unfold ConnEntry.startAfterSend
  split
  · exact .rfl
  · exact carries_startTimer c

theorem carries_sentLive (c : ConnEntry) (x : TxRecord) : c.Carries (c.sentLive x) := by
  unfold ConnEntry.sentLive
  split
  · exact carries_startAfterSend c
  · split
    · exact (carries_flags c _).trans (carries_startAfterSend _)
    · split
      · exact carries_control (.inl (Eq.refl _))
      · exact .rfl

/-- What does not ask for the mark is nothing to its clearing. -/
theorem takeMarked_map {α : Type} (g : SentMsg → α) (hg : ∀ m : SentMsg, g { m with needsTx := false } = g m)
    {ms : List SentMsg} {r : SentMsg × List SentMsg} (h : takeMarked ms = some r) : r.2.map g = ms.map g := by
  induction ms generalizing r with
  | nil => cases h
  | cons m rest ih =>
    unfold takeMarked at h
    split at h
    · cases h
      exact congrArg (· :: rest.map g) (hg m)
    · obtain ⟨x, hx, rfl⟩ := Option.map_eq_some_iff.1 h
      exact congrArg (g m :: ·) (ih hx)

theorem unmarked_of_takeMarked {ms : List SentMsg} (h : takeMarked ms = none) : ∀ m ∈ ms, m.needsTx = false := by
  induction ms with
  | nil => exact nofun
  | cons m rest ih =>
    unfold takeMarked at h
    split at h
    · cases h
    · next hm => exact List.forall_mem_cons.2 ⟨Bool.eq_false_iff.2 hm, ih (Option.map_eq_none_iff.1 h)⟩

/-- R28, R30: a DATA frame of an entry with eligible DATA takes a message that the window has room for. -/
theorem carries_takeMessage {m : Msg} {sn : Seq} (heligible : c.eligible = true) (h : c.takeMessage = some (m, sn, d)) :
    c.Carries d := by
  unfold ConnEntry.takeMessage at h
  split at h
  · next m' list hlist =>
    cases h
    exact carries_marks (takeMarked_map (·.sn) (fun _ => rfl) hlist)
  · next hnone =>
    split at h
    · cases h
    · next m' rest hqueue =>
      cases h
      refine ⟨Eq.refl _, .inl (Eq.refl _), paramsOk_count, .inl (Eq.refl _), fun k => ?_⟩
      refine windowOk_append k ?_ (m := { msg := _, sn := c.vs, needsTx := false }) (Eq.refl _) (Eq.refl _) (Eq.refl _)
        (Eq.refl _) (Eq.refl _)
      obtain ⟨-, -, -, ⟨m, hm, hmarked⟩ | ⟨-, hroom⟩⟩ := (eligible_iff c).1 heligible
      · rw [unmarked_of_takeMarked hnone m hm] at hmarked
        cases hmarked
      · exact hroom

/-! ### Passages -/

/-- A running transfer that keeps its promises and holds a message, if it drains, has its promise. -/
theorem transfer_ok (hlive : c.live = true) (h : c.TransferOk) (hdrains : c.drainsOk) : c.ok o :=
  (ok_live hlive).2 ⟨h, hdrains⟩

/-- A change of a running transfer that takes no message away. -/
theorem carries_ok (h : c.Carries d) (hlive : c.live = true) (hfull : c.drainsOk → d.drainsOk) (hc : c.ok o) :
    d.ok o' := by
  obtain ⟨htransfer, hdrains⟩ := (ok_live hlive).1 hc
  exact transfer_ok (h.live.trans hlive) (h.transfer htransfer) (hfull hdrains)

/-- R50: the re-evaluation after a release. -/
theorem reconsider_ok (pool : Pool) (h : c.ok o) : (c.reconsider pool).ok o := by
  cases hlive : c.live with
  | true =>
    refine carries_ok (carries_reconsider pool c) hlive (fun hdrains => ?_) h
    rw [reconsider_eq]
    exact hdrains
  | false =>
    rw [reconsider_fed pool (by rw [ok_flags h hlive])]
    exact h

theorem nudged_ok (hs : List Handle) (b : Pool) (h : c.ok o) : (c.nudged hs b).ok o := by
  unfold ConnEntry.nudged
  split
  · exact h
  · exact reconsider_ok b h

/-- R13, R15: of the unacknowledged list only the message on the line stays. -/
theorem keepOnly_unacked (hnodup : (c.unacked.map (·.sn)).Nodup) (o : Option Seq) :
    (c.keepOnly o).unacked = [] ∨ (c.keepOnly o).unacked.map (fun m => some m.sn) = [o] := by
  have hsns : (c.keepOnly o).unacked.map (fun m => some m.sn) =
      List.replicate ((c.unacked.map (fun m => some m.sn)).count o) o := by
    show (c.unacked.filter fun m => decide (some m.sn = o)).map (fun m => some m.sn) = _
    rw [← List.filter_eq, List.filter_map]
    rfl
  have hone : (c.unacked.map (fun m => some m.sn)).count o ≤ 1 :=
    List.nodup_iff_count_le_one.1 (by
      have := hnodup.map (Option.some_injective Seq)
      rwa [List.map_map] at this) o
  rcases Nat.le_one_iff_eq_zero_or_eq_one.1 hone with h | h
  · rw [h] at hsns
    exact .inl (List.map_eq_nil_iff.1 hsns)
  · rw [h] at hsns
    exact .inr hsns

theorem emptiedBut_of_keepOnly (hnodup : (c.unacked.map (·.sn)).Nodup) (hqueue : d.sendQueue = [])
    (hunacked : d.unacked = (c.keepOnly o).unacked) (htimer : d.answerTimer = none) : d.emptiedBut o := by
  refine ⟨hqueue, fun hne => ⟨?_, htimer⟩⟩
  rw [hunacked] at hne ⊢
  exact (keepOnly_unacked hnodup o).resolve_left hne

/-- R13, R22: a running transfer is aborted, or ended by a port reset. -/
theorem toClosing_ok (h : c.TransferOk) (orphan : Bool) {ns : List Notice} (hns : orphan = true → ns = []) :
    ({ (c.keepOnly o).toClosing with orphan := orphan, notices := ns } : ConnEntry).ok o := by
  refine (ok_closing rfl).2 ?_
  exact {
    params := paramsOk_stopped h.params ⟨rfl, rfl, rfl, rfl, rfl, rfl, rfl⟩ (.inr rfl) rfl
    peer := h.peer
    flags := rfl
    emptied := emptiedBut_of_keepOnly (windowOk_nodup h.params h.window) rfl rfl rfl
    control := .inr ⟨rfl, rfl⟩
    endReason := rfl
    orphan := hns
    timedOut := nofun
    finished := nofun }

/-- R15: a running transfer ends. -/
theorem toEnded_ok (h : c.TransferOk) (r : EndReason) (ns : List Notice) :
    ({ (c.keepOnly o).toEnded r with notices := ns } : ConnEntry).ok o := by
  refine (ok_ended rfl).2 ?_
  exact {
    params := paramsOk_stopped h.params ⟨rfl, rfl, rfl, rfl, rfl, rfl, rfl⟩ (.inl rfl) rfl
    orphan := h.orphan
    peer := fun _ => h.peer
    flags := rfl
    emptied := emptiedBut_of_keepOnly (windowOk_nodup h.params h.window) rfl rfl rfl
    control := rfl
    timer := rfl
    endReason := nofun
    timedOut := h.timedOut
    finished := h.finished }

/-- R15, R69: an OPENING entry ends, with whatever index of its peer it has heard. -/
theorem opening_toEnded_ok (h : c.OpeningOk) (index : Option Byte) (r : EndReason) (ns : List Notice) :
    ({ (({ c with remoteIndex := index } : ConnEntry).keepOnly o).toEnded r with notices := ns } : ConnEntry).ok o := by
  have hnone : (({ c with remoteIndex := index } : ConnEntry).keepOnly o).unacked = [] := by
    show c.unacked.filter _ = []
    rw [h.unacked, List.filter_nil]
  refine (ok_ended rfl).2 ?_
  exact {
    params := paramsOk_stopped h.params ⟨rfl, rfl, rfl, rfl, rfl, rfl, rfl⟩ (.inl rfl) rfl
    orphan := h.orphan
    peer := fun hne => absurd hnone hne
    flags := rfl
    emptied := ⟨rfl, fun hne => absurd hnone hne⟩
    control := rfl
    timer := rfl
    endReason := nofun
    timedOut := h.timedOut
    finished := h.finished }

theorem drained_cases (c : ConnEntry) :
    (c.state = .draining ∧ c.sendQueue = [] ∧ c.unacked = [] ∧ c.drained = c.toClosing) ∨ (c.drainsOk ∧ c.drained = c) := by
  unfold ConnEntry.drained
  split
  · next h =>
    simp only [Bool.and_eq_true, decide_eq_true_eq, List.isEmpty_iff] at h
    exact .inl ⟨h.1.1, h.1.2, h.2, rfl⟩
  · next h =>
    simp only [Bool.and_eq_true, decide_eq_true_eq, List.isEmpty_iff, not_and, and_imp] at h
    refine .inr ⟨fun hs => ?_, rfl⟩
    by_cases hqueue : c.sendQueue = []
    · exact .inr (h hs hqueue)
    · exact .inl hqueue

/-- R12: a DRAINING entry without a message enters CLOSING. -/
theorem drained_ok (hlive : c.live = true) (h : c.TransferOk) : c.drained.ok o := by
  rcases drained_cases c with ⟨-, hqueue, hunacked, heq⟩ | ⟨hdrains, heq⟩ <;> rw [heq]
  · have hkept : (c.keepOnly o).toClosing = c.toClosing := by
      unfold ConnEntry.keepOnly
      rw [hunacked, List.filter_nil, ← hunacked, ← hqueue]
    have hsame : ({ (c.keepOnly o).toClosing with orphan := false, notices := c.notices } : ConnEntry) = c.toClosing := by
      rw [hkept, ← h.orphan]
      rfl
    rw [← hsame]
    exact toClosing_ok h false nofun
  · exact transfer_ok hlive h hdrains

/-- Notices are free at an entry that is past OPENING, is no orphan and has no close finished. -/
theorem notices_ok (h : c.ok o) (horphan : c.orphan = false) (hfinished : c.closeFinished = false)
    (hstate : c.state ≠ .free ∧ c.state ≠ .opening) (ns : List Notice) :
    ({ c with notices := ns } : ConnEntry).ok o := by
  rcases ok_forms h with rfl | ⟨hs, -⟩ | ⟨hlive, -⟩ | ⟨hs, k⟩ | ⟨hs, k⟩
  · exact absurd rfl hstate.1
  · exact absurd hs hstate.2
  · exact carries_ok (carries_notices c ns) hlive id h
  · refine (ok_closing (c := { c with notices := ns }) hs).2 { k with
      orphan := fun ho => ?_
      finished := fun hf => ?_ }
    · rw [horphan] at ho
      cases ho
    · rw [hfinished] at hf
      cases hf
  · exact (ok_ended (c := { c with notices := ns }) hs).2 { k with }

/-- R18: without a message on the line an entry that has left OPEN and DRAINING is empty. -/
theorem emptied_unacked (h : c.emptiedBut none) : c.unacked = [] := by
  by_contra hne
  obtain ⟨hmap, -⟩ := h.2 hne
  obtain ⟨m, -, hm⟩ := List.mem_map.1 (hmap ▸ List.mem_singleton_self none)
  cases hm

/-- An entry without a message does not ask what is on the line, and neither does one whose transfer runs. -/
theorem ok_emptied (h : c.ok o) (hempty : c.live = false → c.unacked = []) : c.ok o' := by
  rcases ok_forms h with rfl | ⟨hs, k⟩ | ⟨hlive, k⟩ | ⟨hs, k⟩ | ⟨hs, k⟩
  · exact ok_empty _
  · exact (ok_opening hs).2 k
  · exact (ok_live hlive).2 k
  · have hnone := hempty (by simp [ConnEntry.live, hs])
    exact (ok_closing hs).2 { k with emptied := ⟨k.emptied.1, fun hne => absurd hnone hne⟩ }
  · have hnone := hempty (by simp [ConnEntry.live, hs])
    exact (ok_ended hs).2 { k with emptied := ⟨k.emptied.1, fun hne => absurd hnone hne⟩ }

/-- R18: an entry that is not OPEN or DRAINING holds no message when none of it is on the line. -/
theorem ok_unacked (h : c.ok none) (hdead : c.live = false) : c.unacked = [] := by
  rcases ok_forms h with rfl | ⟨-, k⟩ | ⟨hlive, -⟩ | ⟨-, k⟩ | ⟨-, k⟩
  · rfl
  · exact k.unacked
  · rw [hdead] at hlive
    cases hlive
  · exact emptied_unacked k.emptied
  · exact emptied_unacked k.emptied

theorem ok_anyLine (h : c.ok none) : c.ok o := ok_emptied h (ok_unacked h)

/-- The model's mark of an abort is nothing to the promise. -/
theorem aborted_ok (h : c.ok o) (hstate : c.state ≠ .free) (b : Bool) : ({ c with aborted := b } : ConnEntry).ok o := by
  rcases ok_forms h with rfl | ⟨hs, k⟩ | ⟨hlive, k, hdrains⟩ | ⟨hs, k⟩ | ⟨hs, k⟩
  · exact absurd rfl hstate
  · exact (ok_opening (c := { c with aborted := b }) hs).2 { k with }
  · exact transfer_ok (c := { c with aborted := b }) hlive { k with } hdrains
  · exact (ok_closing (c := { c with aborted := b }) hs).2 { k with }
  · exact (ok_ended (c := { c with aborted := b }) hs).2 { k with }

/-- R18: the deferred message leaves, and its notice is told unless the entry is an orphan. -/
theorem deferred_ok (h : c.ok o) (hs : c.state = .closing ∨ c.state = .ended) (hne : c.unacked ≠ []) {ns : List Notice}
    (hns : c.orphan = true → ns = c.notices) : ({ c with unacked := [], notices := ns } : ConnEntry).ok o' := by
  rcases hs with hs | hs
  · have k := (ok_closing hs).1 h
    exact (ok_closing (c := { c with unacked := [], notices := ns }) hs).2
      { k with
        emptied := ⟨k.emptied.1, fun hne => absurd rfl hne⟩
        orphan := fun ho => (hns ho).trans (k.orphan ho)
        finished := fun hf => absurd (k.finished hf).2.1 hne }
  · have k := (ok_ended hs).1 h
    exact (ok_ended (c := { c with unacked := [], notices := ns }) hs).2
      { k with peer := fun hne => absurd rfl hne, emptied := ⟨k.emptied.1, fun hne => absurd rfl hne⟩ }

/-- R107: an admission takes a notice, unless it is the last of an entry that has finished its close. -/
theorem admitted_ok {n : Notice} {rest : List Notice} (h : c.ok o) (hnotices : c.notices = n :: rest)
    (hlast : c.state = .closing → c.closeFinished = true → rest ≠ []) : ({ c with notices := rest } : ConnEntry).ok o := by
  rcases ok_forms h with rfl | ⟨hs, k⟩ | ⟨hlive, k, hdrains⟩ | ⟨hs, k⟩ | ⟨hs, k⟩
  · cases hnotices
  · rw [k.notices] at hnotices
    cases hnotices
  · exact carries_ok (carries_notices c rest) hlive id h
  · refine (ok_closing (c := { c with notices := rest }) hs).2
      { k with
        orphan := fun ho => ?_
        finished := fun hf => ⟨hlast hs hf, (k.finished hf).2⟩ }
    rw [k.orphan ho] at hnotices
    cases hnotices
  · exact (ok_ended (c := { c with notices := rest }) hs).2 { k with }

/-- R71: the end of the OPEN of an OPENING entry. -/
theorem sentControl_opening_ok (hs : c.state = .opening) (h : c.ok o) : c.sentControl.ok o' := by
  have k := (ok_opening hs).1 h
  exact (ok_opening (c := c.sentControl) hs).2
    { k with
      params := paramsOk_same k.params ⟨rfl, rfl, rfl, rfl, rfl, rfl, rfl⟩ rfl (.inr (.inr rfl))
      control := .inl rfl }

/-- R71: the end of the CLOSE of a CLOSING entry, which has no message on the line then. -/
theorem sentControl_closing_ok (hs : c.state = .closing) (hdue : c.controlDue = .sendClose) (h : c.ok none) :
    c.sentControl.ok o' := by
  have k := (ok_closing hs).1 h
  have hempty := emptied_unacked k.emptied
  refine (ok_closing (c := c.sentControl) hs).2
    { k with
      params := paramsOk_same k.params ⟨rfl, rfl, rfl, rfl, rfl, rfl, rfl⟩ rfl (.inr (.inr rfl))
      emptied := ⟨k.emptied.1, fun hne => absurd hempty hne⟩
      control := .inl rfl
      finished := fun hf => ?_ }
  obtain ⟨-, -, hcontrol, -⟩ := k.finished hf
  rw [hdue] at hcontrol
  cases hcontrol

theorem resetForm_live (hlive : c.live = true) (o : Option Seq) :
    c.resetForm o = { (c.keepOnly o).toClosing with orphan := true, notices := [] } := by
  unfold ConnEntry.resetForm
  rcases live_iff.1 hlive with hs | hs <;> rw [hs] <;> rfl

theorem resetForm_closing (hs : c.state = .closing) (hopen : ¬ c.closeFinished = true) (o : Option Seq) :
    c.resetForm o = { c with orphan := true, notices := [] } := by
  simp [ConnEntry.resetForm, hs, hopen]

theorem resetForm_ended (hs : c.state = .ended) (hne : c.unacked ≠ []) (o : Option Seq) :
    c.resetForm o = { c.toClosing with orphan := true, notices := [] } := by
  simp [ConnEntry.resetForm, hs, hne]

/-- R22: what a port reset makes of an entry that it does not free. -/
theorem resetForm_ok (h : c.ok o) (hfrees : ¬ c.resetFrees) : (c.resetForm o).ok o := by
  unfold ConnEntry.resetFrees at hfrees
  rcases ok_forms h with rfl | ⟨hs, k⟩ | ⟨hlive, k, hdrains⟩ | ⟨hs, k⟩ | ⟨hs, k⟩
  · exact ok_empty o
  · exact absurd (.inl hs) hfrees
  · rw [resetForm_live hlive]
    exact toClosing_ok k true fun _ => rfl
  · have hopen : ¬ c.closeFinished = true := fun hf => hfrees (.inr (.inl ⟨hs, hf⟩))
    rw [resetForm_closing hs hopen]
    exact (ok_closing (c := { c with orphan := true, notices := [] }) hs).2
      { k with orphan := fun _ => rfl, finished := fun hf => absurd hf hopen }
  · have hne : c.unacked ≠ [] := fun hnil => hfrees (.inr (.inr ⟨hs, hnil⟩))
    rw [resetForm_ended hs hne]
    exact (ok_closing rfl).2 {
      params := paramsOk_stopped k.params ⟨rfl, rfl, rfl, rfl, rfl, rfl, rfl⟩ (.inr rfl) rfl
      peer := k.peer hne
      flags := rfl
      emptied := ⟨k.emptied.1, fun hne => ⟨(k.emptied.2 hne).1, rfl⟩⟩
      control := .inr ⟨rfl, rfl⟩
      endReason := rfl
      orphan := fun _ => rfl
      timedOut := nofun
      finished := nofun }

theorem paramsOk_retry {x : ControlDue} (h : c.paramsOk) (hcount : c.retryLimit ≠ some c.retryCount) :
    ({ c.retry with controlDue := x } : ConnEntry).paramsOk := by
  have hretry : c.Tunes c.retry := ⟨rfl, .inl rfl, .inr ⟨rfl, hcount⟩, .inr rfl⟩
  exact (carries_tunes hretry).params h

/-- R45: an OPENING entry sends its OPEN again. -/
theorem retry_opening_ok (hs : c.state = .opening) (hcount : c.retryLimit ≠ some c.retryCount) (h : c.ok o) :
    ({ c.retry with controlDue := .sendOpen } : ConnEntry).ok o := by
  have k := (ok_opening hs).1 h
  exact (ok_opening (c := { c.retry with controlDue := .sendOpen }) hs).2
    { k with params := paramsOk_retry k.params hcount, control := .inr rfl }

/-- R45: a CLOSING entry whose timer runs sends its CLOSE again. -/
theorem retry_closing_ok (hs : c.state = .closing) (htimer : c.answerTimer ≠ none)
    (hcount : c.retryLimit ≠ some c.retryCount) (h : c.ok o) :
    ({ c.retry with controlDue := .sendClose } : ConnEntry).ok o := by
  have k := (ok_closing hs).1 h
  have hempty : c.unacked = [] := by
    by_contra hne
    exact htimer (k.emptied.2 hne).2
  have hopen : ¬ c.closeFinished = true := fun hf => htimer (k.finished hf).2.2.2
  exact (ok_closing (c := { c.retry with controlDue := .sendClose }) hs).2
    { k with
      params := paramsOk_retry k.params hcount
      emptied := ⟨k.emptied.1, fun hne => absurd hempty hne⟩
      control := .inr ⟨rfl, rfl⟩
      finished := fun hf => absurd hf hopen }

/-! ### What the other promises on the table ask of a change -/

/-- The entry keeps or drops its remote, and comes into no use. -/
structure ConnEntry.KeepsPlace (c d : ConnEntry) : Prop where
  remote : d.keepsRemote → c.keepsRemote ∧ d.remoteStation = c.remoteStation ∧ d.remoteIndex = c.remoteIndex
  used : d.inUse = true →
    c.inUse = true ∧ (c.state = .closing → c.orphan = true → d.state = .closing ∧ d.orphan = true)

/-- The entry keeps its place, and owes its CLOSE still or newly. -/
structure ConnEntry.Follows (c d : ConnEntry) : Prop extends c.KeepsPlace d where
  closeDue : d.state = .closing → d.controlDue = .sendClose ∨ (c.state = .closing ∧ d.controlDue = c.controlDue)

theorem ConnEntry.Follows.of_same (hstate : d.state = c.state) (horphan : d.orphan = c.orphan)
    (hunacked : d.unacked ≠ [] → c.unacked ≠ []) (hstation : d.remoteStation = c.remoteStation)
    (hindex : d.remoteIndex = c.remoteIndex) (hcontrol : c.state = .closing → d.controlDue = c.controlDue) :
    c.Follows d where
  remote h := by
    refine ⟨?_, hstation, hindex⟩
    unfold ConnEntry.keepsRemote at h ⊢
    rw [hstate] at h
    exact h.imp_right (Or.imp_right (Or.imp_right (And.imp_right hunacked)))
  closeDue h := by
    rw [hstate] at h
    exact .inr ⟨h, hcontrol h⟩
  used h := by
    unfold ConnEntry.inUse at h ⊢
    rw [hstate] at h ⊢
    exact ⟨h, fun hs ho => ⟨hs, horphan.trans ho⟩⟩

theorem ConnEntry.Follows.rfl : c.Follows c := .of_same (Eq.refl _) (Eq.refl _) id (Eq.refl _) (Eq.refl _) fun _ => Eq.refl _

theorem ConnEntry.Follows.empty : c.Follows {} := ⟨⟨by simp [ConnEntry.keepsRemote], nofun⟩, nofun⟩

theorem live_keepsRemote (h : c.live = true) : c.keepsRemote := (live_iff.1 h).imp_right .inl

theorem live_inUse (h : c.live = true) : c.inUse = true := by
  rcases live_iff.1 h with h | h <;> simp [ConnEntry.inUse, h]

/-- An OPEN or DRAINING entry may become anything with its remote, if a CLOSING one owes its CLOSE. -/
theorem ConnEntry.Follows.of_live (hlive : c.live = true) (hstation : d.remoteStation = c.remoteStation)
    (hindex : d.remoteIndex = c.remoteIndex) (hclosing : d.state = .closing → d.controlDue = .sendClose) : c.Follows d where
  remote _ := ⟨live_keepsRemote hlive, hstation, hindex⟩
  closeDue h := .inl (hclosing h)
  used _ := ⟨live_inUse hlive, fun hs => by rcases live_iff.1 hlive with h | h <;> rw [hs] at h <;> cases h⟩

theorem ConnEntry.Carries.follows (h : c.Carries d) (hlive : c.live = true) : c.Follows d := by
  refine .of_live hlive h.link.remoteStation h.remoteIndex fun hs => ?_
  rw [h.state] at hs
  rcases live_iff.1 hlive with h | h <;> rw [hs] at h <;> cases h

theorem follows_reconsider (pool : Pool) (c : ConnEntry) : c.Follows (c.reconsider pool) := by
  rw [reconsider_eq]
  exact .of_same (Eq.refl _) (Eq.refl _) id (Eq.refl _) (Eq.refl _) fun _ => Eq.refl _

theorem follows_nudged (c : ConnEntry) (hs : List Handle) (b : Pool) : c.Follows (c.nudged hs b) := by
  unfold ConnEntry.nudged
  split
  · exact .rfl
  · exact follows_reconsider b c

end Sys2Proof.Machine
end

section
/-! Every effect keeps the promises of the connection table: the effects that change one entry, and those that leave or
free entries. -/

namespace Sys2Proof.Machine

variable {s t : State} {e : EntryIdx} {p : Port}

/-! ### From one entry to the table -/

/-- The frame on the line stays, is detached, or has left the line. -/
def State.KeepsFrame (s t : State) : Prop :=
  ∀ x, t.sched.tx = some x → s.sched.tx = some x ∨ ∃ y, s.sched.tx = some y ∧ x = { y with detached := true }

theorem keepsFrame_same (h : t.sched.tx = s.sched.tx) : s.KeepsFrame t := fun _ hx => .inl (h ▸ hx)

theorem keepsFrame_none (h : t.sched.tx = none) : s.KeepsFrame t := fun x hx => by
  rw [h] at hx
  cases hx

theorem keepsFrame_detached (h : t.sched.tx = s.sched.tx.map (TxRecord.detachFrom e)) : s.KeepsFrame t := fun x hx => by
  rw [h] at hx
  obtain ⟨y, hy, rfl⟩ := Option.map_eq_some_iff.1 hx
  unfold TxRecord.detachFrom
  split
  · exact .inr ⟨y, hy, rfl⟩
  · exact .inl hy

theorem messageOnLine_congr (h : t.sched.tx = s.sched.tx) (e : EntryIdx) : t.messageOnLine e = s.messageOnLine e := by
  rw [messageOnLine_eq, messageOnLine_eq, h]

theorem messageOnLine_none (h : s.sched.tx = none) (e : EntryIdx) : s.messageOnLine e = none := by
  rw [messageOnLine_eq, h]
  rfl

theorem messageOnLine_detached {k : EntryIdx} (h : t.sched.tx = s.sched.tx.map (TxRecord.detachFrom e)) (hk : e ≠ k) :
    t.messageOnLine k = s.messageOnLine k := by
  rw [messageOnLine_eq, messageOnLine_eq, h, Option.bind_map]
  refine Option.bind_congr fun x _ => ?_
  unfold TxRecord.detachFrom
  by_cases ho : x.origin = .entry e
  · simp [ho, hk]
  · simp [ho]

/-- The promises of the table are kept when each entry keeps its own promise and its place, and a CLOSE on the line stays
due. -/
theorem connectionsOk_of_keeps (h : ConnectionsOk s) (htx : s.KeepsFrame t) (hengine : t.turn.engine = s.turn.engine)
    (hok : ∀ e, (t.entry e).ok (t.messageOnLine e)) (hkeeps : ∀ e, (s.entry e).KeepsPlace (t.entry e))
    (hclose : t.sched.tx ≠ none → ∀ e, (s.entry e).Follows (t.entry e)) : ConnectionsOk t where
  entries := hok
  remotes e k hek he hk hsame := by
    obtain ⟨he', hestation, heindex⟩ := (hkeeps e).remote he
    obtain ⟨hk', hkstation, hkindex⟩ := (hkeeps k).remote hk
    rw [hestation, heindex, hkstation, hkindex] at hsame
    exact h.remotes e k hek he' hk' hsame
  closeDue x e hx ho hd hkind hclosing := by
    rcases (hclose (by rw [hx]; nofun) e).closeDue hclosing with hdue | ⟨hwas, hsame⟩
    · exact hdue
    · rw [hsame]
      rcases htx x hx with hy | ⟨y, -, rfl⟩
      · exact h.closeDue x e hy ho hd hkind hwas
      · cases hd
  dataAlone x hx hsn := by
    rcases htx x hx with hy | ⟨y, hy, rfl⟩
    · exact h.dataAlone x hy hsn
    · exact h.dataAlone y hy hsn
  away haway e := by
    rw [hengine] at haway ⊢
    by_cases hused : (t.entry e).inUse = true
    · obtain ⟨hwas, hstays⟩ := (hkeeps e).used hused
      rcases h.away haway e with hf | hf | ⟨hstopping, hclosing, horphan⟩
      · simp [ConnEntry.inUse, hf] at hwas
      · simp [ConnEntry.inUse, hf] at hwas
      · obtain ⟨hclosing', horphan'⟩ := hstays hclosing horphan
        exact .inr (.inr ⟨hstopping, hclosing', horphan'⟩)
    · simp only [ConnEntry.inUse, Bool.and_eq_true, decide_eq_true_eq, not_and, not_not] at hused
      by_cases hfree : (t.entry e).state = .free
      · exact .inl hfree
      · exact .inr (.inl (hused hfree))

theorem connectionsOk_of_follows (h : ConnectionsOk s) (htx : s.KeepsFrame t)
    (hengine : t.turn.engine = s.turn.engine) (hok : ∀ e, (t.entry e).ok (t.messageOnLine e))
    (hfollows : ∀ e, (s.entry e).Follows (t.entry e)) : ConnectionsOk t :=
  connectionsOk_of_keeps h htx hengine hok (fun e => (hfollows e).toKeepsPlace) fun _ => hfollows

/-- Entries, the frame on the line and the state of the line engine are all that the promises of the table ask for. -/
theorem connectionsOk_same (h : ConnectionsOk s) (hentries : t.entries = s.entries) (htx : t.sched.tx = s.sched.tx)
    (hengine : t.turn.engine = s.turn.engine) : ConnectionsOk t := by
  have hentry : ∀ e, t.entry e = s.entry e := fun e => by rw [State.entry, hentries]; rfl
  refine connectionsOk_of_follows h (keepsFrame_same htx) hengine (fun e => ?_) fun e => ?_
  · rw [hentry, messageOnLine_congr htx]
    exact h.entries e
  · rw [hentry]
    exact .rfl

/-- One entry changes. -/
theorem connectionsOk_setEntry {c : ConnEntry} (h : ConnectionsOk s) (hok : c.ok (s.messageOnLine e))
    (hfollows : (s.entry e).Follows c) : ConnectionsOk (s.setEntry e c) := by
  refine connectionsOk_of_follows h (keepsFrame_same rfl) rfl (fun k => ?_) fun k => ?_
  all_goals by_cases hk : e = k
  · subst hk
    rw [entry_setEntry_same]
    exact hok
  · rw [entry_setEntry_other _ _ hk]
    exact h.entries k
  · subst hk
    rw [entry_setEntry_same]
    exact hfollows
  · rw [entry_setEntry_other _ _ hk]
    exact .rfl

/-- An OPEN or DRAINING entry changes and stays OPEN or DRAINING. -/
theorem connectionsOk_carries {c : ConnEntry} (h : ConnectionsOk s) (hlive : (s.entry e).live = true)
    (hc : (s.entry e).Carries c) (hfull : (s.entry e).drainsOk → c.drainsOk) : ConnectionsOk (s.setEntry e c) :=
  connectionsOk_setEntry h (carries_ok hc hlive hfull (h.entries e)) (hc.follows hlive)

/-- An entry is given a remote of its own. -/
theorem connectionsOk_takes {c : ConnEntry} (h : ConnectionsOk s) (hok : c.ok (s.messageOnLine e))
    (hremote : ∀ k, k ≠ e → c.keepsRemote → (s.entry k).keepsRemote →
      ¬ (c.remoteStation = (s.entry k).remoteStation ∧ c.remoteIndex = (s.entry k).remoteIndex))
    (hclosing : c.state = .closing → c.controlDue = .sendClose)
    (haway : s.turn.engine = .offline ∨ s.turn.engine = .stopping →
      s.turn.engine = .stopping ∧ c.state = .closing ∧ c.orphan = true) : ConnectionsOk (s.setEntry e c) where
  entries k := by
    by_cases hk : e = k
    · subst hk
      rw [entry_setEntry_same]
      exact hok
    · rw [entry_setEntry_other _ _ hk]
      exact h.entries k
  remotes a b hab := by
    by_cases ha : e = a
    · subst ha
      rw [entry_setEntry_same, entry_setEntry_other _ _ hab]
      exact hremote b hab.symm
    · rw [entry_setEntry_other _ _ ha]
      by_cases hb : e = b
      · subst hb
        rw [entry_setEntry_same]
        exact fun hra hrb hsame => hremote a hab hrb hra ⟨hsame.1.symm, hsame.2.symm⟩
      · rw [entry_setEntry_other _ _ hb]
        exact h.remotes a b hab
  closeDue x k hx ho hd hkind := by
    by_cases hk : e = k
    · subst hk
      rw [entry_setEntry_same]
      exact hclosing
    · rw [entry_setEntry_other _ _ hk]
      exact h.closeDue x k hx ho hd hkind
  dataAlone := h.dataAlone
  away ha k := by
    by_cases hk : e = k
    · subst hk
      rw [entry_setEntry_same]
      exact .inr (.inr (haway ha))
    · rw [entry_setEntry_other _ _ hk]
      exact h.away ha k

/-- R17: one entry returns to FREE, and the others are at most examined after a release. -/
theorem connectionsOk_frees {hs : List Handle} {b : Pool} (h : ConnectionsOk s)
    (htx : t.sched.tx = s.sched.tx.map (TxRecord.detachFrom e)) (hengine : t.turn.engine = s.turn.engine)
    (hfreed : t.entry e = {}) (hothers : ∀ k, e ≠ k → t.entry k = (s.entry k).nudged hs b) : ConnectionsOk t := by
  refine connectionsOk_of_follows h (keepsFrame_detached htx) hengine (fun k => ?_) fun k => ?_
  all_goals by_cases hk : e = k
  · subst hk
    rw [hfreed]
    exact ok_empty _
  · rw [hothers k hk, messageOnLine_detached htx hk]
    exact nudged_ok hs b (h.entries k)
  · subst hk
    rw [hfreed]
    exact .empty
  · rw [hothers k hk]
    exact follows_nudged ..

theorem connectionsOk_freeEntry (h : ConnectionsOk s) (e : EntryIdx) : ConnectionsOk (s.freeEntry e) :=
  connectionsOk_frees (hs := []) (b := s.pool) h (by rw [freeEntry_eq]) (by rw [freeEntry_eq]) (freeEntry_entry s e)
    fun _ hk => freeEntry_entry_other s hk

theorem connectionsOk_release (h : ConnectionsOk s) (p : Port) (b : Handle) : ConnectionsOk (s.release p b) := by
  refine connectionsOk_of_follows h (keepsFrame_same rfl) rfl (fun k => ?_) fun k => ?_
  · rw [release_entry]
    exact reconsider_ok _ (h.entries k)
  · rw [release_entry]
    exact follows_reconsider ..

theorem connectionsOk_releaseAll (h : ConnectionsOk s) (p : Port) (hs : List Handle) :
    ConnectionsOk (s.releaseAll p hs) := by
  induction hs generalizing s with
  | nil => exact h
  | cons b rest ih => exact ih (connectionsOk_release h p b)

/-- Notices to the owner of an entry that is past OPENING and has no close finished. -/
theorem connectionsOk_makeNotices (h : ConnectionsOk s) (hfinished : (s.entry e).closeFinished = false)
    (hstate : (s.entry e).state ≠ .free ∧ (s.entry e).state ≠ .opening) (ns : List Notice) :
    ConnectionsOk (s.makeNotices e ns) := by
  rcases makeNotices_cases s e ns with heq | ⟨p, told, kept, -, horphan, -, -, heq⟩
  · rw [heq]
    exact h
  · have hset : ConnectionsOk (s.setEntry e { s.entry e with notices := (s.entry e).notices ++ kept }) :=
      connectionsOk_setEntry h (notices_ok (h.entries e) horphan hfinished hstate _)
        (.of_same rfl rfl id rfl rfl fun _ => rfl)
    rw [heq]
    exact connectionsOk_same hset rfl rfl rfl

/-! ### Passages of an entry -/

/-- R13: an abort. -/
theorem connectionsOk_abort (h : ConnectionsOk s) (hlive : (s.entry e).live = true) : ConnectionsOk (s.abortEntry e) := by
  obtain ⟨htransfer, -⟩ := (ok_live hlive).1 (h.entries e)
  have hok : ((s.entry e).keepOnly (s.messageOnLine e)).toClosing.ok (s.messageOnLine e) :=
    toClosing_ok htransfer (s.entry e).orphan (ns := (s.entry e).notices) fun ho => by
      rw [htransfer.orphan] at ho
      cases ho
  rw [abortEntry_eq]
  refine connectionsOk_makeNotices (connectionsOk_setEntry h hok (.of_live hlive rfl rfl fun _ => rfl)) ?_ ?_ _
  · rw [entry_setEntry_same]
    rfl
  · rw [entry_setEntry_same]
    exact ⟨nofun, nofun⟩

/-- An OPENING entry has no remote of its own yet, and may end. -/
theorem follows_ended {c d : ConnEntry} (hempty : d.unacked = []) (hstate : d.state = .ended) : c.Follows d where
  remote hd := by simp [ConnEntry.keepsRemote, hempty, hstate] at hd
  closeDue hd := by rw [hstate] at hd; cases hd
  used hd := by simp [ConnEntry.inUse, hstate] at hd

theorem connectionsOk_ends {c : ConnEntry} {r : EndReason} (h : ConnectionsOk s)
    (hok : ((c.keepOnly (s.messageOnLine e)).toEnded r).ok (s.messageOnLine e))
    (hfollows : (s.entry e).Follows ((c.keepOnly (s.messageOnLine e)).toEnded r)) :
    ConnectionsOk ((s.setEntry e c).endEntry e r) := by
  rw [endEntry_eq, entry_setEntry_same, setEntry_messageOnLine, setEntry_setEntry]
  refine connectionsOk_makeNotices (connectionsOk_setEntry h hok hfollows) ?_ ?_ _
  · rw [entry_setEntry_same]
    exact ((ok_ended rfl).1 hok).finished
  · rw [entry_setEntry_same]
    exact ⟨nofun, nofun⟩

/-- R15: an OPEN or DRAINING entry ends. -/
theorem connectionsOk_end_live (h : ConnectionsOk s) (hlive : (s.entry e).live = true) (r : EndReason) :
    ConnectionsOk (s.endEntry e r) := by
  have hset : ConnectionsOk ((s.setEntry e (s.entry e)).endEntry e r) :=
    connectionsOk_ends h (toEnded_ok ((ok_live hlive).1 (h.entries e)).1 r (s.entry e).notices)
      (.of_live hlive rfl rfl nofun)
  rwa [setEntry_entry] at hset

/-- R15, R69: an OPENING entry ends, with whatever index of its peer it has heard. -/
theorem connectionsOk_end_opening (h : ConnectionsOk s) (hopening : (s.entry e).state = .opening)
    (index : Option Byte) (r : EndReason) :
    ConnectionsOk ((s.setEntry e { s.entry e with remoteIndex := index }).endEntry e r) := by
  have hc := (ok_opening hopening).1 (h.entries e)
  refine connectionsOk_ends h (opening_toEnded_ok hc index r (s.entry e).notices) (follows_ended ?_ rfl)
  show (s.entry e).unacked.filter _ = []
  rw [hc.unacked, List.filter_nil]

/-- R15. -/
theorem connectionsOk_finish (h : ConnectionsOk s) (hs : (s.entry e).state = .opening ∨ (s.entry e).live = true)
    (r : EndReason) : ConnectionsOk (s.endEntry e r) := by
  rcases hs with hopening | hlive
  · have hset := connectionsOk_end_opening h hopening (s.entry e).remoteIndex r
    rwa [show ({ s.entry e with remoteIndex := (s.entry e).remoteIndex } : ConnEntry) = s.entry e from rfl,
      setEntry_entry] at hset
  · exact connectionsOk_end_live h hlive r

theorem follows_drained {c : ConnEntry} (hlive : c.live = true) : c.Follows c.drained := by
  rcases drained_cases c with ⟨-, -, -, heq⟩ | ⟨-, heq⟩ <;> rw [heq]
  · exact .of_live hlive rfl rfl fun _ => rfl
  · exact .rfl

theorem ConnEntry.Follows.trans {b c d : ConnEntry} (h : b.Follows c) (k : c.Follows d) : b.Follows d where
  remote hd := by
    obtain ⟨hc, hstation, hindex⟩ := k.remote hd
    obtain ⟨hb, hstation', hindex'⟩ := h.remote hc
    exact ⟨hb, hstation.trans hstation', hindex.trans hindex'⟩
  closeDue hd := by
    rcases k.closeDue hd with hdue | ⟨hc, hsame⟩
    · exact .inl hdue
    · rw [hsame]
      exact h.closeDue hc
  used hd := by
    obtain ⟨hc, hstays⟩ := k.used hd
    obtain ⟨hb, hstays'⟩ := h.used hc
    exact ⟨hb, fun hs ho => (hstays' hs ho).elim hstays⟩

/-- R11, R12: the DRAIN form of a close. -/
theorem connectionsOk_drain (h : ConnectionsOk s) (hopened : (s.entry e).state = .opened) :
    ConnectionsOk (s.setEntry e (s.entry e).toDraining.settleTimer.drained) := by
  have hlive : (s.entry e).live = true := live_iff.2 (.inl hopened)
  obtain ⟨k, -⟩ := (ok_live hlive).1 (h.entries e)
  have hdraining : (s.entry e).toDraining.TransferOk := { k with }
  have hcarries := carries_settleTimer (s.entry e).toDraining
  have hsettled : (s.entry e).toDraining.settleTimer.live = true := hcarries.live.trans rfl
  have hfollows : (s.entry e).Follows (s.entry e).toDraining := .of_live hlive rfl rfl nofun
  exact connectionsOk_setEntry h (drained_ok hsettled (hcarries.transfer hdraining))
    ((hfollows.trans (hcarries.follows rfl)).trans (follows_drained hsettled))

/-- R17: an entry of OPENING or of ENDED is given a remote that no other entry has. -/
theorem State.RemoteFree.apart {station index : Byte} (h : s.RemoteFree e station index) {k : EntryIdx} (hk : k ≠ e)
    (hkeeps : (s.entry k).keepsRemote) :
    ¬ (some station = (s.entry k).remoteStation ∧ some index = (s.entry k).remoteIndex) := by
  rintro ⟨hstation, hindex⟩
  have hstate : (s.entry k).state ≠ .free ∧ (s.entry k).state ≠ .opening := by
    rcases hkeeps with hs | hs | hs | ⟨hs, -⟩ <;> rw [hs] <;> exact ⟨nofun, nofun⟩
  have hno := h.free k hk hstate.1 hstate.2
  simp [ConnEntry.hasRemote, ← hstation, ← hindex] at hno

theorem not_away_of_used (h : ConnectionsOk s) (hused : (s.entry e).state = .opening ∨ (s.entry e).live = true) :
    ¬ (s.turn.engine = .offline ∨ s.turn.engine = .stopping) := by
  intro haway
  rw [live_iff] at hused
  rcases h.away haway e with hs | hs | ⟨-, hs, -⟩ <;> simp [hs] at hused

/-- R10, R69: an OPENING entry becomes OPEN. -/
theorem connectionsOk_toOpen {station index : Byte} {window : Nat} (h : ConnectionsOk s)
    (hopening : (s.entry e).state = .opening) (hstation : (s.entry e).remoteStation = some station)
    (hremote : s.RemoteFree e station index) (hwindow : 1 ≤ window ∧ window ≤ (s.entry e).windowSize) :
    ConnectionsOk (s.setEntry e ((s.entry e).toOpen index window)) := by
  have k := (ok_opening hopening).1 (h.entries e)
  obtain ⟨hpresent, ⟨-, hfour⟩, hlimit, htime, -, -⟩ := k.params
  have htransfer : ((s.entry e).toOpen index window).TransferOk := {
    params := ⟨hpresent, ⟨hwindow.1, hwindow.2.trans hfour⟩, hlimit, htime, Nat.zero_le _, nofun⟩
    orphan := k.orphan
    peer := ⟨nofun, hremote.index_le⟩
    window := windowOk_empty k.unacked (k.vs.trans k.va.symm)
    control := .inl rfl
    endReason := k.endReason
    timedOut := k.timedOut
    finished := k.finished }
  refine connectionsOk_takes h (transfer_ok rfl htransfer nofun) (fun j hj _ hkeeps => ?_) nofun
    fun haway => absurd haway (not_away_of_used h (.inl hopening))
  show ¬ ((s.entry e).remoteStation = _ ∧ some index = _)
  rw [hstation]
  exact hremote.apart hj hkeeps

/-- R9, R64: a FREE entry accepts an OPEN. -/
theorem connectionsOk_accept {l : ListenEntry} {station index service : Byte} {window : Nat} (h : ConnectionsOk s)
    (hl : l.rangesOk) (hengine : s.turn.engine ≠ .offline ∧ s.turn.engine ≠ .stopping)
    (hremote : s.RemoteFree e station index) (hwindow : 1 ≤ window ∧ window ≤ 4) :
    ConnectionsOk
      ((s.setEntry e (ConnEntry.accepted l station index service window)).makeNotice e (.arrived station service)) := by
  obtain ⟨-, -, hmax, hlimit, htime, -⟩ := hl
  have htransfer : (ConnEntry.accepted l station index service window).TransferOk := {
    params := ⟨⟨rfl, rfl, rfl, rfl⟩, ⟨le_min hwindow.1 hmax.1, (min_le_left ..).trans hwindow.2⟩, hlimit, htime,
      Nat.zero_le _, nofun⟩
    orphan := rfl
    peer := ⟨nofun, hremote.index_le⟩
    window := windowOk_empty rfl rfl
    control := .inr rfl
    endReason := rfl
    timedOut := rfl
    finished := rfl }
  have hset : ConnectionsOk (s.setEntry e (ConnEntry.accepted l station index service window)) :=
    connectionsOk_takes h (transfer_ok rfl htransfer nofun) (fun k hk _ hkeeps => hremote.apart hk hkeeps) nofun
      fun haway => haway.elim (absurd · hengine.1) (absurd · hengine.2)
  refine connectionsOk_makeNotices (ns := [.arrived station service]) hset ?_ ?_
  · rw [entry_setEntry_same]
    rfl
  · rw [entry_setEntry_same]
    exact ⟨nofun, nofun⟩

/-- R8: a FREE entry is OPENING. -/
theorem connectionsOk_open {service station : Byte} {window : Nat} {pr : Fin 4} {limit time : Nat} (h : ConnectionsOk s)
    (hopen : s.turn.engine.takesOpen = true) (hwindow : 1 ≤ window ∧ window ≤ 4) (hlimit : 1 ≤ limit ∧ limit ≤ 15)
    (htime : 5 ≤ time ∧ time ≤ 4095) :
    ConnectionsOk (s.setEntry e (ConnEntry.opening p service station window pr limit time)) := by
  have hopening : (ConnEntry.opening p service station window pr limit time).OpeningOk := {
    params := ⟨⟨rfl, rfl, rfl, rfl⟩, hwindow, hlimit, htime, Nat.zero_le _, nofun⟩
    orphan := rfl, noPeer := rfl, flags := rfl, queue := rfl, unacked := rfl, notices := rfl, vs := rfl, va := rfl
    vr := rfl, control := .inr rfl, endReason := rfl, timedOut := rfl, finished := rfl }
  refine connectionsOk_takes h ((ok_opening rfl).2 hopening) (fun k _ hkeeps => ?_) nofun fun haway => ?_
  · rcases hkeeps with hs | hs | hs | ⟨hs, -⟩ <;> cases hs
  · rcases haway with hs | hs <;> rw [hs] at hopen <;> cases hopen

/-- R45 at an OPENING or CLOSING entry. -/
theorem connectionsOk_retry {d : ControlDue} (h : ConnectionsOk s)
    (hstate : ((s.entry e).state = .opening ∧ d = .sendOpen) ∨ ((s.entry e).state = .closing ∧ d = .sendClose))
    (htimer : (s.entry e).answerTimer ≠ none) (hcount : (s.entry e).retryLimit ≠ some (s.entry e).retryCount) :
    ConnectionsOk (s.setEntry e { (s.entry e).retry with controlDue := d }) := by
  rcases hstate with ⟨hs, rfl⟩ | ⟨hs, rfl⟩
  · exact connectionsOk_setEntry h (retry_opening_ok hs hcount (h.entries e))
      (.of_same rfl rfl id rfl rfl fun hc => by rw [hs] at hc; cases hc)
  · exact connectionsOk_setEntry h (retry_closing_ok hs htimer hcount (h.entries e))
      ⟨⟨fun hd => ⟨hd, rfl, rfl⟩, fun hd => ⟨hd, fun hs ho => ⟨hs, ho⟩⟩⟩, fun _ => .inl rfl⟩

end Sys2Proof.Machine
end

section
/-! Every effect keeps the promises of the connection table: transfer frames, the end of a close exchange, the frame on
the line, port resets and the line engine. -/

namespace Sys2Proof.Machine

variable {s t : State} {e : EntryIdx} {p : Port}

/-! ### Transfer frames -/

/-- What a step at one OPEN or DRAINING entry is to the table: a change that the transfer carries. -/
def State.CarriesAt (s t : State) (e : EntryIdx) : Prop :=
  (s.entry e).Carries (t.entry e) ∧ ∀ k, e ≠ k → t.entry k = s.entry k

theorem carriesAt_same (h : t.entries = s.entries) : s.CarriesAt t e := by
  have hentry : ∀ k, t.entry k = s.entry k := fun k => by rw [State.entry, h]; rfl
  exact ⟨by rw [hentry]; exact .rfl, fun k _ => hentry k⟩

theorem carriesAt_setEntry {c : ConnEntry} (h : (s.entry e).Carries c) : s.CarriesAt (s.setEntry e c) e :=
  ⟨by rw [entry_setEntry_same]; exact h, fun _ hk => entry_setEntry_other _ _ hk⟩

theorem State.CarriesAt.trans {u : State} (h : s.CarriesAt t e) (k : t.CarriesAt u e) : s.CarriesAt u e :=
  ⟨h.1.trans k.1, fun j hj => (k.2 j hj).trans (h.2 j hj)⟩

theorem carriesAt_makeNotice (n : Notice) : s.CarriesAt (s.makeNotice e n) e := by
  refine ⟨?_, fun k hk => makeNotice_entry_other s n hk⟩
  rw [makeNotice_entry]
  exact carries_notices _ _

theorem carriesAt_entryEvent (b : EventBody) : s.CarriesAt (s.entryEvent e b) e := by
  rcases entryEvent_cases s e b with h | ⟨p, -, -, h⟩ <;> rw [h]
  · exact carriesAt_same rfl
  · exact carriesAt_same rfl

theorem carriesAt_storeData (payload : List Byte) (b : Handle) (pool : Pool) :
    s.CarriesAt (s.storeData e payload b pool) e := by
  have hpool : s.CarriesAt (s.withPool (pool.store b 0 payload)) e := carriesAt_same rfl
  have haccept := hpool.trans (carriesAt_setEntry (carries_acceptData _))
  exact (haccept.trans (carriesAt_makeNotice _)).trans (carriesAt_setEntry (carries_announceBusy _))

/-- R40 to R42. -/
theorem carriesAt_takeData (sn : Seq) (payload : List Byte) : s.CarriesAt (s.takeData e sn payload) e := by
  unfold State.takeData
  dsimp only
  split
  · rw [modEntry_eq, outOfOrder_eq]
    exact carriesAt_setEntry (carries_flags _ _)
  · split
    · exact carriesAt_setEntry (carries_flags _ _)
    · split
      · exact carriesAt_storeData payload _ _
      · exact (carriesAt_setEntry (carries_flags _ _)).trans (carriesAt_entryEvent _)

/-- R33, step 3. -/
theorem carriesAt_takeKind (f : Frame) : s.CarriesAt (s.takeKind e f) e := by
  have hstatus : ∀ waiting, s.CarriesAt (s.takeStatus e waiting) e := fun waiting => by
    have hset : s.CarriesAt
        (s.setEntry e { s.entry e with flags := { (s.entry e).flags with peerWaiting := waiting } }) e :=
      carriesAt_setEntry (carries_flags _ _)
    unfold State.takeStatus
    dsimp only
    split
    · exact hset
    · exact hset.trans (carriesAt_entryEvent _)
  unfold State.takeKind
  split
  · exact carriesAt_takeData _ _
  · exact hstatus false
  · exact hstatus true
  · exact carriesAt_setEntry (carries_markAll _)
  · exact carriesAt_same rfl

/-- R33: a transfer frame leaves the entry a running transfer, or in CLOSING when it drained, and examines the others. -/
theorem takeTransfer_entries {f : Frame} (hlive : (s.entry e).live = true) (howner : (s.entry e).owner = some p)
    (horphan : (s.entry e).orphan = false)
    (hn : (seqEN f.seq - (s.entry e).va).toNat ≤ (s.entry e).unacked.length) :
    (∃ c, (s.entry e).Carries c ∧ (s.takeTransfer e f).entry e = c.drained) ∧
      ∃ hs b, ∀ k, e ≠ k → (s.takeTransfer e f).entry k = (s.entry k).nudged hs b := by
  have hstate := live_iff.1 hlive
  obtain ⟨hkind, hothers⟩ := carriesAt_takeKind (s := s.acked e f) (e := e) f
  have hack : (s.entry e).Carries ((s.acked e f).entry e) := by
    rw [State.acked, entry_setEntry_same, acknowledge_entry_eq howner horphan, entry_setEntry_same]
    exact ((carries_takeAck hn).trans (carries_nudged _ _ _)).trans (carries_answeredBy _ _)
  have hcarries := hack.trans hkind
  have hopen := live_iff.1 (hcarries.live.trans hlive)
  refine ⟨⟨(((((s.acked e f).takeKind e f).entry e).takeQuery (seqQ f.seq)).frameTimer (f.kind = .wait)
      (decide (0 < (seqEN f.seq - (s.entry e).va).toNat) || seqA f.seq)).settleTimer, ?_, ?_⟩,
    ((s.entry e).unacked.take (seqEN f.seq - (s.entry e).va).toNat).map (·.msg.handle),
    (s.acknowledge e (seqEN f.seq) (seqEN f.seq - (s.entry e).va).toNat).pool, fun k hk => ?_⟩
  · exact ((hcarries.trans (carries_takeQuery _ _)).trans (carries_frameTimer _ _ _)).trans (carries_settleTimer _)
  · rw [takeTransfer_acked hstate hn, entry_setEntry_same, frameDone_eq hopen]
  · rw [takeTransfer_acked hstate hn, entry_setEntry_other _ _ hk, hothers k hk, State.acked,
      entry_setEntry_other _ _ hk, acknowledge_entry_eq howner horphan, entry_setEntry_other _ _ hk]

theorem ok_owner {c : ConnEntry} (h : c.paramsOk) : ∃ p, c.owner = some p := Option.isSome_iff_exists.1 h.1.1

/-- R33. -/
theorem connectionsOk_transfer {f : Frame} (h : ConnectionsOk s) (hlive : (s.entry e).live = true) :
    ConnectionsOk (s.takeTransfer e f) := by
  obtain ⟨k, -⟩ := (ok_live hlive).1 (h.entries e)
  obtain ⟨p, howner⟩ := ok_owner k.params
  by_cases hn : (seqEN f.seq - (s.entry e).va).toNat ≤ (s.entry e).unacked.length
  · obtain ⟨⟨c, hcarries, hentry⟩, hs, b, hothers⟩ := takeTransfer_entries hlive howner k.orphan hn
    have haside := takeTransfer_aside (s := s) e f
    have htx : (s.takeTransfer e f).sched.tx = s.sched.tx := congrArg Scheduler.tx haside.sched
    refine connectionsOk_of_follows h (keepsFrame_same htx) (congrArg TurnController.engine haside.turn)
      (fun j => ?_) fun j => ?_
    all_goals by_cases hj : e = j
    · subst hj
      rw [hentry]
      exact drained_ok (hcarries.live.trans hlive) (hcarries.transfer k)
    · rw [hothers j hj, messageOnLine_congr htx]
      exact nudged_ok hs b (h.entries j)
    · subst hj
      rw [hentry]
      exact (hcarries.follows hlive).trans (follows_drained (hcarries.live.trans hlive))
    · rw [hothers j hj]
      exact follows_nudged ..
  · rw [takeTransfer_badAck (Nat.lt_of_not_le hn)]
    exact connectionsOk_end_live h hlive .badAck

/-! ### The end of a close exchange -/

theorem connectionsOk_closedEvent (h : ConnectionsOk s) (owner : Option Port) (e : EntryIdx) (timedOut : Bool) :
    ConnectionsOk (s.closedEvent owner e timedOut) := by
  unfold State.closedEvent
  split
  · exact connectionsOk_same h rfl rfl rfl
  · exact h

/-- R14: an exchange that has not ended, at a CLOSING entry without a message. -/
theorem finished_ok {c : ConnEntry} {o : Option Seq} (hs : c.state = .closing) (h : c.ok o) (hnotices : c.notices ≠ [])
    (horphan : c.orphan = false) (hempty : c.unacked = []) (timedOut : Bool) :
    ({ c.stopTimer with controlDue := .none, closeTimedOut := timedOut, closeFinished := true } : ConnEntry).ok o := by
  have k := (ok_closing hs).1 h
  refine (ok_closing
    (c := { c.stopTimer with controlDue := .none, closeTimedOut := timedOut, closeFinished := true }) hs).2 {
    k with
    params := paramsOk_stopped k.params ⟨rfl, rfl, rfl, rfl, rfl, rfl, rfl⟩ (.inl rfl) rfl
    emptied := ⟨k.emptied.1, fun hne => absurd hempty hne⟩
    control := .inl rfl
    orphan := fun ho => ?_
    timedOut := fun _ => rfl
    finished := fun _ => ⟨hnotices, hempty, rfl, rfl⟩ }
  rw [show c.orphan = true from ho] at horphan
  cases horphan

/-- R14: an exchange that has not ended, at a CLOSING entry without a message. -/
theorem closing_unacked (h : ConnectionsOk s) (hs : (s.entry e).state = .closing)
    (hopen : s.sched.tx = none ∨ (s.entry e).answerTimer ≠ none) : (s.entry e).unacked = [] := by
  have k := (ok_closing hs).1 (h.entries e)
  rcases hopen with hnone | htimer
  · have hemptied := k.emptied
    rw [messageOnLine_none hnone] at hemptied
    exact emptied_unacked hemptied
  · by_contra hne
    exact htimer (k.emptied.2 hne).2

/-- R14. -/
theorem connectionsOk_endExchange (h : ConnectionsOk s) (timedOut : Bool) (hs : (s.entry e).state = .closing)
    (hopen : s.sched.tx = none ∨ (s.entry e).answerTimer ≠ none) : ConnectionsOk (s.endCloseExchange e timedOut) := by
  cases horphan : (s.entry e).orphan with
  | true =>
    rw [endCloseExchange_orphan horphan]
    exact connectionsOk_freeEntry h e
  | false =>
    by_cases hnotices : (s.entry e).notices = []
    · have hif : (s.entry e).notices.isEmpty = true := List.isEmpty_iff.2 hnotices
      unfold State.endCloseExchange
      simp only [horphan, hif, Bool.false_eq_true, if_false, if_true]
      exact connectionsOk_closedEvent (connectionsOk_freeEntry h e) _ _ _
    · have k := (ok_closing hs).1 (h.entries e)
      rw [endCloseExchange_waits horphan hnotices]
      refine connectionsOk_of_keeps h (keepsFrame_same rfl) rfl (fun j => ?_) (fun j => ?_) fun hsome j => ?_
      all_goals by_cases hj : e = j
      · subst hj
        rw [entry_setEntry_same]
        exact finished_ok hs (h.entries e) hnotices horphan (closing_unacked h hs hopen) _
      · rw [entry_setEntry_other _ _ hj]
        exact h.entries j
      · subst hj
        rw [entry_setEntry_same]
        exact ⟨fun hd => ⟨hd, rfl, rfl⟩, fun hd => ⟨hd, fun hs ho => ⟨hs, ho⟩⟩⟩
      · rw [entry_setEntry_other _ _ hj]
        exact ConnEntry.Follows.rfl.toKeepsPlace
      · subst hj
        have hdue : (s.entry e).controlDue = .none :=
          k.control.resolve_right fun hc => hopen.elim hsome (fun htimer => htimer hc.2)
        rw [entry_setEntry_same]
        exact .of_same rfl rfl id rfl rfl fun _ => hdue.symm
      · rw [entry_setEntry_other _ _ hj]
        exact .rfl

/-! ### Admission -/

/-- R107, R108. -/
theorem connectionsOk_admission {n : Notice} {rest : List Notice} (h : ConnectionsOk s)
    (howner : (s.entry e).owner = some p) (hnotices : (s.entry e).notices = n :: rest) (f : PortState → PortState) :
    ConnectionsOk (((s.setEntry e { s.entry e with notices := rest }).modPort p f).afterAdmission e (s.entry e) n) := by
  by_cases hlast : (s.entry e).state = .closing ∧ (s.entry e).closeFinished = true ∧ rest = []
  · obtain ⟨hs, hfinished, rfl⟩ := hlast
    have hfreed : ConnectionsOk (((s.setEntry e { s.entry e with notices := [] }).modPort p f).freeEntry e) :=
      connectionsOk_frees (hs := []) (b := s.pool) h (by rw [freeEntry_eq]; rfl) (by rw [freeEntry_eq]; rfl)
        (freeEntry_entry _ e) fun k hk => (freeEntry_entry_other _ hk).trans (entry_setEntry_other _ _ hk)
    have hentry : ((s.setEntry e { s.entry e with notices := [] }).modPort p f).entry e =
        { s.entry e with notices := [] } := entry_setEntry_same ..
    rw [afterAdmission_closing hs hfinished (by rw [hentry]) howner]
    exact connectionsOk_same hfreed rfl rfl rfl
  · have hkept : ConnectionsOk ((s.setEntry e { s.entry e with notices := rest }).modPort p f) :=
      connectionsOk_same (connectionsOk_setEntry h
        (admitted_ok (h.entries e) hnotices fun hs hf hr => hlast ⟨hs, hf, hr⟩)
        (.of_same rfl rfl id rfl rfl fun _ => rfl)) rfl rfl rfl
    have hentry : ((s.setEntry e { s.entry e with notices := rest }).modPort p f).entry e =
        { s.entry e with notices := rest } := entry_setEntry_same ..
    by_cases hbusy : (n.isReceived && (s.entry e).live && (s.entry e).noticeFull) = true
    · simp only [Bool.and_eq_true] at hbusy
      obtain ⟨⟨hn, hlive⟩, hfull⟩ := hbusy
      rw [afterAdmission_busy (live_iff.1 hlive) hn hfull]
      refine connectionsOk_carries hkept (by rw [hentry]; exact hlive) (carries_endOfBusy _) fun hdrains => ?_
      rw [endOfBusy_eq]
      exact hdrains
    · rw [afterAdmission_quiet (Bool.eq_false_iff.2 hbusy)]
      · exact hkept
      · rw [hentry]
        simpa [List.isEmpty_iff, and_assoc] using hlast

/-! ### Port resets -/

/-- R22: a port reset leaves an entry alone, takes it out of use with its buffers given back, or returns it to FREE. -/
theorem resetEntry_cases (s : State) (p : Port) (e : EntryIdx) :
    s.resetEntry p e = s ∨
      s.owned p e ∧
        (((s.entry e).resetFrees ∧ ∃ d, s.resetEntry p e =
            ((s.setEntry e d).releaseAll p ((s.entry e).resetBuffers (s.messageOnLine e))).freeEntry e) ∨
          (¬ (s.entry e).resetFrees ∧ s.resetEntry p e =
            (s.setEntry e ((s.entry e).resetForm (s.messageOnLine e))).releaseAll p
              ((s.entry e).resetBuffers (s.messageOnLine e)))) := by
  by_cases howned : s.owned p e
  · have hif : (decide ((s.entry e).owner = some p) && !(s.entry e).orphan) = true := by
      simp [howned.1, howned.2]
    unfold State.resetEntry
    rw [if_pos hif]
    have hmap : ∀ o, ((s.entry e).messagesBut o).map (·.handle) ++ noticeBuffers (s.entry e).notices =
        ((s.entry e).unacked.filter fun m => some m.sn ≠ o).map (·.msg.handle) ++
          (s.entry e).sendQueue.map (·.handle) ++ (s.entry e).notices.filterMap Notice.buffer := fun o => by
      simp [ConnEntry.messagesBut, noticeBuffers]
    cases hstate : (s.entry e).state with
    | free => exact .inl rfl
    | opening =>
      refine .inr ⟨howned, .inl ⟨.inl hstate, s.entry e, ?_⟩⟩
      simp only [ConnEntry.resetBuffers, hstate, setEntry_entry]
      rfl
    | opened =>
      refine .inr ⟨howned, .inr ⟨by simp [ConnEntry.resetFrees, hstate], ?_⟩⟩
      simp only [ConnEntry.resetBuffers, ConnEntry.resetForm, hstate, hmap]
    | draining =>
      refine .inr ⟨howned, .inr ⟨by simp [ConnEntry.resetFrees, hstate], ?_⟩⟩
      simp only [ConnEntry.resetBuffers, ConnEntry.resetForm, hstate, hmap]
    | closing =>
      by_cases hfinished : (s.entry e).closeFinished = true
      · refine .inr ⟨howned, .inl ⟨.inr (.inl ⟨hstate, hfinished⟩), { s.entry e with orphan := true, notices := [] }, ?_⟩⟩
        simp only [ConnEntry.resetBuffers, hstate, hfinished, if_true]
        rfl
      · refine .inr ⟨howned, .inr ⟨by simp [ConnEntry.resetFrees, hstate, hfinished], ?_⟩⟩
        simp only [ConnEntry.resetBuffers, ConnEntry.resetForm, hstate, hfinished]
        rfl
    | ended =>
      by_cases hempty : (s.entry e).unacked = []
      · refine .inr ⟨howned, .inl ⟨.inr (.inr ⟨hstate, hempty⟩), { s.entry e with notices := [] }, ?_⟩⟩
        simp only [ConnEntry.resetBuffers, hstate, hempty, List.isEmpty_nil, if_true]
        rfl
      · refine .inr ⟨howned, .inr ⟨by simp [ConnEntry.resetFrees, hstate, hempty], ?_⟩⟩
        simp only [ConnEntry.resetBuffers, ConnEntry.resetForm, hstate, List.isEmpty_iff, hempty, if_false]
        rfl
  · have hif : ¬ (decide ((s.entry e).owner = some p) && !(s.entry e).orphan) = true := by
      simpa [State.owned] using howned
    unfold State.resetEntry
    rw [if_neg hif]
    exact .inl rfl

/-- R22: an entry that a port reset does not free ends in CLOSING, as an orphan that owes or has sent its CLOSE, unless it
is FREE. -/
theorem resetForm_state {c : ConnEntry} {o : Option Seq} (hfrees : ¬ c.resetFrees) (hused : c.state ≠ .free) :
    (c.resetForm o).state = .closing ∧ (c.resetForm o).orphan = true ∧
      (c.resetForm o).remoteStation = c.remoteStation ∧ (c.resetForm o).remoteIndex = c.remoteIndex ∧
      c.keepsRemote ∧
      ((c.resetForm o).controlDue = .sendClose ∨ (c.state = .closing ∧ (c.resetForm o).controlDue = c.controlDue)) := by
  unfold ConnEntry.resetFrees at hfrees
  by_cases hlive : c.live = true
  · rw [resetForm_live hlive]
    exact ⟨rfl, rfl, rfl, rfl, live_keepsRemote hlive, .inl rfl⟩
  rw [live_iff, not_or] at hlive
  cases hs : c.state with
  | free => exact absurd hs hused
  | opening => exact absurd (.inl hs) hfrees
  | opened => exact absurd hs hlive.1
  | draining => exact absurd hs hlive.2
  | closing =>
    rw [resetForm_closing hs fun hf => hfrees (.inr (.inl ⟨hs, hf⟩))]
    exact ⟨hs, rfl, rfl, rfl, .inr (.inr (.inl hs)), .inr ⟨rfl, rfl⟩⟩
  | ended =>
    have hne : c.unacked ≠ [] := fun hnil => hfrees (.inr (.inr ⟨hs, hnil⟩))
    rw [resetForm_ended hs hne]
    exact ⟨rfl, rfl, rfl, rfl, .inr (.inr (.inr ⟨hs, hne⟩)), .inl rfl⟩

/-- R22, R182: a port reset's effect on one entry. -/
theorem connectionsOk_resetEntry (h : ConnectionsOk s) (htransmits : transmitsOk s) (p : Port) (e : EntryIdx) :
    ConnectionsOk (s.resetEntry p e) := by
  rcases resetEntry_cases s p e with heq | ⟨-, ⟨-, d, heq⟩ | ⟨hfrees, heq⟩⟩ <;> rw [heq]
  · exact h
  · have haside := releaseAll_aside (s.setEntry e d) p ((s.entry e).resetBuffers (s.messageOnLine e))
    have hothers := fun k hk => (freeEntry_entry_other _ hk).trans
      ((releaseAll_nudged (s.setEntry e d) p ((s.entry e).resetBuffers (s.messageOnLine e)) k).trans
        (by rw [entry_setEntry_other _ _ hk]))
    refine connectionsOk_frees h ?_ ?_ (freeEntry_entry _ e) hothers
    · rw [freeEntry_eq]
      exact congrArg (Option.map (TxRecord.detachFrom e)) (congrArg Scheduler.tx haside.sched :)
    · rw [freeEntry_eq]
      exact (congrArg TurnController.engine haside.turn :)
  · refine connectionsOk_releaseAll ?_ p _
    have hok := resetForm_ok (h.entries e) hfrees
    by_cases hused : (s.entry e).state = .free
    · have hform : (s.entry e).resetForm (s.messageOnLine e) = s.entry e := by
        simp [ConnEntry.resetForm, hused]
      rw [hform, setEntry_entry]
      exact h
    · obtain ⟨hclosing, horphan, hstation, hindex, hkeeps, hdue⟩ :=
        resetForm_state (o := s.messageOnLine e) hfrees hused
      rcases hdue with hdue | ⟨hwas, hsame⟩
      · refine connectionsOk_takes h hok (fun k hk _ hkeeps' => ?_) (fun _ => hdue) fun haway => ?_
        · rw [hstation, hindex]
          exact h.remotes e k hk.symm hkeeps hkeeps'
        · refine ⟨haway.resolve_left fun hoff => ?_, hclosing, horphan⟩
          have hquiet : s.sched.tx = none := by
            by_contra hsome
            have := htransmits (Option.isSome_iff_ne_none.2 hsome)
            rw [hoff] at this
            simp at this
          have hentry := h.entries e
          rw [messageOnLine_none hquiet] at hentry
          rcases h.away (.inl hoff) e with hs | hs | ⟨hs, -⟩
          · exact hused hs
          · refine hfrees (.inr (.inr ⟨hs, ok_unacked hentry ?_⟩))
            simp [ConnEntry.live, hs]
          · rw [hoff] at hs
            cases hs
      · refine connectionsOk_setEntry h hok ⟨⟨fun _ => ⟨hkeeps, hstation, hindex⟩, fun _ => ⟨?_, fun _ _ =>
          ⟨hclosing, horphan⟩⟩⟩, fun _ => .inr ⟨hwas, hsame⟩⟩
        simp [ConnEntry.inUse, hwas]

end Sys2Proof.Machine
end

section
/-! Every effect keeps the promises of the connection table: the frame on the line, the line engine and the ticks; and
the whole of the statement. -/

namespace Sys2Proof.Machine

variable {s t : State} {e : EntryIdx} {p : Port} {x : TxRecord}

/-! ### The end of a transmission -/

theorem messageOnLine_elsewhere (hx : s.sched.tx = some x) (h : x.origin = .entry e → x.detached = true) :
    s.messageOnLine e = none := by
  rw [messageOnLine_eq, hx]
  exact if_neg fun ⟨ho, hd⟩ => by rw [h ho] at hd; cases hd

theorem messageOnLine_here (hx : s.sched.tx = some x) (ho : x.origin = .entry e) (hd : x.detached = false) :
    s.messageOnLine e = x.sn := by
  rw [messageOnLine_eq, hx]
  exact if_pos ⟨ho, hd⟩

/-- The record has become absent: the entry whose frame it was holds no deferred message, and the others are at most
examined after a release. -/
theorem connectionsOk_cleared {hs : List Handle} {b : Pool} (h : ConnectionsOk s) (hx : s.sched.tx = some x)
    (hengine : t.turn.engine = s.turn.engine)
    (hothers : ∀ k, (x.origin = .entry k → x.detached = true) → t.entry k = (s.entry k).nudged hs b)
    (hhere : ∀ e, x.origin = .entry e → x.detached = false →
      (t.entry e).ok none ∧ (s.entry e).KeepsPlace (t.entry e)) : ConnectionsOk t.clearTx := by
  have hnone : ∀ k, t.clearTx.messageOnLine k = none := messageOnLine_none (s := t.clearTx) rfl
  refine connectionsOk_of_keeps h (keepsFrame_none rfl) hengine (fun k => ?_) (fun k => ?_) fun hsome => absurd rfl hsome
  all_goals by_cases hk : x.origin = .entry k → x.detached = true
  · show (t.entry k).ok _
    rw [hothers k hk, hnone]
    refine nudged_ok hs b ?_
    rw [← messageOnLine_elsewhere hx hk]
    exact h.entries k
  · obtain ⟨ho, hd⟩ := Classical.not_imp.1 hk
    rw [hnone]
    exact (hhere k ho (Bool.eq_false_iff.2 hd)).1
  · show (s.entry k).KeepsPlace (t.entry k)
    rw [hothers k hk]
    exact (follows_nudged ..).toKeepsPlace
  · obtain ⟨ho, hd⟩ := Classical.not_imp.1 hk
    exact (hhere k ho (Bool.eq_false_iff.2 hd)).2

/-- What the end of a transmission makes of the entries, where the frame was of the entry `e`. -/
structure State.EndsAt (s t : State) (e : EntryIdx) : Prop where
  others : ∃ hs b, ∀ k, e ≠ k → t.entry k = (s.entry k).nudged hs b
  here : (t.entry e).ok none
  place : (s.entry e).KeepsPlace (t.entry e)

theorem endsAt_same (h : (s.entry e).ok none) : s.EndsAt s e :=
  ⟨⟨[], s.pool, fun _ _ => rfl⟩, h, ConnEntry.Follows.rfl.toKeepsPlace⟩

theorem endsAt_setEntry {c : ConnEntry} (hc : c.ok none) (hplace : (s.entry e).KeepsPlace c) :
    s.EndsAt (s.setEntry e c) e :=
  ⟨⟨[], s.pool, fun _ hk => entry_setEntry_other _ _ hk⟩, by rwa [entry_setEntry_same], by rwa [entry_setEntry_same]⟩

/-- R18, R52: an entry that has left OPEN and DRAINING has no message, or the one whose frame ends. -/
theorem finishDeferred_cases {sn : Seq} (hok : (s.entry e).ok (some sn))
    (hs : (s.entry e).state = .closing ∨ (s.entry e).state = .ended) :
    ((s.entry e).unacked = [] ∧ s.finishDeferred e sn = s) ∨
      ∃ m p, (s.entry e).unacked = [m] ∧ (s.entry e).owner = some p ∧
        (((s.entry e).orphan = true ∧
            s.finishDeferred e sn = (s.setEntry e { s.entry e with unacked := [] }).release p m.msg.handle) ∨
          ((s.entry e).orphan = false ∧
            s.finishDeferred e sn =
              (s.setEntry e { s.entry e with unacked := [] }).makeNotices e ((s.entry e).deferredNotices sn m))) := by
  by_cases hempty : (s.entry e).unacked = []
  · exact .inl ⟨hempty, finishDeferred_absent (by rw [hempty]; rfl)⟩
  · obtain ⟨hemptied, hparams⟩ : (s.entry e).emptiedBut (some sn) ∧ (s.entry e).paramsOk := by
      rcases hs with hs | hs
      · have k := (ok_closing hs).1 hok
        exact ⟨k.emptied, k.params⟩
      · have k := (ok_ended hs).1 hok
        exact ⟨k.emptied, k.params⟩
    obtain ⟨p, howner⟩ := ok_owner hparams
    obtain ⟨m, hm, hsn⟩ := List.map_eq_singleton_iff.1 (hemptied.2 hempty).1
    have hsn := Option.some.inj hsn
    refine .inr ⟨m, p, hm, howner, ?_⟩
    cases horphan : (s.entry e).orphan with
    | true => exact .inl ⟨rfl, finishDeferred_orphan howner hm hsn horphan⟩
    | false =>
      refine .inr ⟨rfl, ?_⟩
      rw [finishDeferred_found (find_only hm hsn), if_neg (by rw [horphan]; nofun), without_only hm hsn]

theorem place_emptied (ns : List Notice) {c : ConnEntry} : c.KeepsPlace { c with unacked := [], notices := ns } :=
  (ConnEntry.Follows.of_same (c := c) (d := { c with unacked := [], notices := ns }) rfl rfl (fun hne => absurd rfl hne) rfl rfl
    fun _ => rfl).toKeepsPlace

/-- R18, R52: what becomes of the deferred message. -/
theorem endsAt_deferred {sn : Seq} (hok : (s.entry e).ok (some sn))
    (hs : (s.entry e).state = .closing ∨ (s.entry e).state = .ended) : s.EndsAt (s.finishDeferred e sn) e := by
  have hdead : (s.entry e).live = false := by rcases hs with hs | hs <;> simp [ConnEntry.live, hs]
  rcases finishDeferred_cases hok hs with ⟨hempty, heq⟩ | ⟨m, p, hm, -, ⟨-, heq⟩ | ⟨horphan, heq⟩⟩ <;> rw [heq]
  · exact endsAt_same (ok_emptied hok fun _ => hempty)
  · have hentry : ((s.setEntry e { s.entry e with unacked := [] }).release p m.msg.handle).entry e =
        { s.entry e with unacked := [] } := by
      rw [release_entry, entry_setEntry_same, reconsider_fed]
      show (s.entry e).flags.starved = false
      rw [ok_flags hok hdead]
    refine ⟨⟨[m.msg.handle], s.pool.release p m.msg.handle, fun k hk => ?_⟩, ?_, ?_⟩
    · rw [release_entry, entry_setEntry_other _ _ hk]
      rfl
    · rw [hentry]
      exact deferred_ok (ns := (s.entry e).notices) hok hs (by rw [hm]; nofun) fun _ => rfl
    · rw [hentry]
      exact place_emptied _
  · have hentry := makeNotices_entry (s.setEntry e { s.entry e with unacked := [] }) e ((s.entry e).deferredNotices sn m)
    rw [entry_setEntry_same] at hentry
    refine ⟨⟨[], s.pool, fun k hk => ?_⟩, ?_, ?_⟩
    · rw [makeNotices_entry_other _ _ hk]
      exact entry_setEntry_other _ _ hk
    · rw [hentry]
      refine deferred_ok hok hs (by rw [hm]; nofun) fun ho => ?_
      rw [horphan] at ho
      cases ho
    · rw [hentry]
      exact place_emptied _

theorem endsAt_frame {sn : Option Seq} (hok : (s.entry e).ok sn)
    (hs : (s.entry e).state = .closing ∨ (s.entry e).state = .ended) :
    s.EndsAt (sn.elim s (s.finishDeferred e)) e := by
  cases sn with
  | none => exact endsAt_same hok
  | some sn => exact endsAt_deferred hok hs

theorem endsAt_carries {c : ConnEntry} {o : Option Seq} (hlive : (s.entry e).live = true) (hok : (s.entry e).ok o)
    (hc : (s.entry e).Carries c) (hfull : (s.entry e).drainsOk → c.drainsOk) : s.EndsAt (s.setEntry e c) e :=
  endsAt_setEntry (carries_ok hc hlive hfull hok) (hc.follows hlive).toKeepsPlace

theorem sentControl_place {c : ConnEntry} : c.KeepsPlace c.sentControl :=
  ⟨fun hd => ⟨hd, rfl, rfl⟩, fun hd => ⟨hd, fun hs ho => ⟨hs, ho⟩⟩⟩

theorem drainsOk_alike {c d : ConnEntry} (h : c.Alike d) (hc : c.drainsOk) : d.drainsOk := by
  unfold ConnEntry.drainsOk at hc ⊢
  rwa [h.state, h.queue, ← List.length_pos_iff (l := d.unacked), h.unacked, List.length_pos_iff]

/-- R31, R71: the end of a frame of an entry. -/
theorem endsAt_frameSent (h : ConnectionsOk s) (hx : s.sched.tx = some x) (ho : x.origin = .entry e)
    (hd : x.detached = false) : s.EndsAt (s.frameSent e x) e := by
  have hok := h.entries e
  rw [messageOnLine_here hx ho hd] at hok
  rcases ok_forms hok with hfree | ⟨hs, k⟩ | ⟨hlive, -⟩ | ⟨hs, -⟩ | ⟨hs, -⟩
  · rw [frameSent_left (.inl (by rw [hfree]))]
    exact endsAt_same (ok_emptied hok fun _ => by rw [hfree])
  · by_cases hkind : x.frame.kind = .opening
    · rw [frameSent_opening hs hkind]
      exact endsAt_setEntry (sentControl_opening_ok hs hok) sentControl_place
    · rw [frameSent_left (.inr ⟨hs, hkind⟩)]
      exact endsAt_same (ok_emptied hok fun _ => k.unacked)
  · rw [frameSent_live (live_iff.1 hlive)]
    exact endsAt_carries hlive hok ((carries_sentLive _ x).trans (carries_settleTimer _))
      (drainsOk_alike (sentLive_alike _ x).settleTimer)
  · by_cases hkind : x.frame.kind = .close
    · have hdue := h.closeDue x e hx ho hd hkind hs
      have hnone : x.sn = none := by
        by_contra hsn
        rw [h.dataAlone x hx hsn] at hkind
        cases hkind
      rw [hnone] at hok
      rw [frameSent_closing hs hkind]
      exact endsAt_setEntry (sentControl_closing_ok hs hdue hok) sentControl_place
    · rw [frameSent_deferred (.inr ⟨hs, hkind⟩)]
      exact endsAt_frame hok (.inl hs)
  · rw [frameSent_deferred (.inl hs)]
    exact endsAt_frame hok (.inr hs)

/-- R32, R71: a transmit fault during a frame of an entry. -/
theorem endsAt_frameFailed (h : ConnectionsOk s) (hx : s.sched.tx = some x) (ho : x.origin = .entry e)
    (hd : x.detached = false) : s.EndsAt (s.frameFailed e x) e := by
  have hok := h.entries e
  rw [messageOnLine_here hx ho hd] at hok
  rcases ok_forms hok with hfree | ⟨hs, k⟩ | ⟨hlive, -⟩ | ⟨hs, -⟩ | ⟨hs, -⟩
  · rw [frameFailed_before (.inl (by rw [hfree]))]
    exact endsAt_same (ok_emptied hok fun _ => by rw [hfree])
  · rw [frameFailed_before (.inr hs)]
    exact endsAt_same (ok_emptied hok fun _ => k.unacked)
  · rw [frameFailed_live (live_iff.1 hlive)]
    exact endsAt_carries hlive hok ((carries_flags _ _).trans (carries_remark _ _))
      (drainsOk_alike ⟨rfl, rfl, List.length_map .., rfl⟩)
  · rw [frameFailed_deferred (.inl hs)]
    exact endsAt_frame hok (.inl hs)
  · rw [frameFailed_deferred (.inr hs)]
    exact endsAt_frame hok (.inr hs)

/-- A transmission ends, with an effect at its origin if that is an entry to which the frame is still attached. -/
theorem connectionsOk_ended (h : ConnectionsOk s) (hx : s.sched.tx = some x) (hengine : t.turn.engine = s.turn.engine)
    (hquiet : (∀ e, x.origin = .entry e → x.detached = true) → t.entries = s.entries)
    (hends : ∀ e, x.origin = .entry e → x.detached = false → s.EndsAt t e) : ConnectionsOk t.clearTx := by
  by_cases hhere : ∃ e, x.origin = .entry e ∧ x.detached = false
  · obtain ⟨e, ho, hd⟩ := hhere
    obtain ⟨⟨hs, b, hothers⟩, hok, hplace⟩ := hends e ho hd
    refine connectionsOk_cleared h hx hengine (fun k hk => hothers k fun hek => ?_) fun k hk _ => ?_
    · rw [hk (hek ▸ ho)] at hd
      cases hd
    · cases ho.symm.trans hk
      exact ⟨hok, hplace⟩
  · have haway : ∀ e, x.origin = .entry e → x.detached = true := fun e ho =>
      Bool.not_eq_false _ ▸ fun hd => hhere ⟨e, ho, hd⟩
    refine connectionsOk_cleared (hs := []) (b := s.pool) h hx hengine (fun k _ => ?_) fun k ho hd => ?_
    · rw [State.entry, hquiet haway]
      rfl
    · rw [haway k ho] at hd
      cases hd

/-- R153, step 1. -/
theorem connectionsOk_sent (h : ConnectionsOk s) (hx : s.sched.tx = some x) : ConnectionsOk (s.originSent x).clearTx := by
  obtain ⟨hturn, -⟩ := originSent_line (s := s) x
  refine connectionsOk_ended h hx (congrArg TurnController.engine hturn) (fun haway => ?_) fun e ho hd => ?_
  · unfold State.originSent
    split
    · next e ho => rw [if_pos (haway e ho)]
    · rfl
    · rfl
  · rw [originSent_entry ho hd]
    exact endsAt_frameSent h hx ho hd

/-- R154, step 1. -/
theorem connectionsOk_failed (h : ConnectionsOk s) (hx : s.sched.tx = some x) :
    ConnectionsOk (s.originFailed x).clearTx := by
  refine connectionsOk_ended h hx (congrArg TurnController.engine (originFailed_aside x).turn) (fun haway => ?_)
    fun e ho hd => ?_
  · unfold State.originFailed
    split
    · next e ho => rw [if_pos (haway e ho)]
    · rfl
    · rfl
  · rw [originFailed_entry ho hd]
    exact endsAt_frameFailed h hx ho hd

/-! ### The start of a transmission -/

/-- R152: a frame starts on a line that is free. Only DATA has an SN, and the CLOSE of a CLOSING entry is due. -/
theorem connectionsOk_startFrame {o : Origin} {f : Frame} {sn : Option Seq} {d : Discharged} (h : ConnectionsOk s)
    (hquiet : s.sched.tx = none) (hdata : sn ≠ none → f.kind = .data)
    (hclose : ∀ e, o = .entry e → f.kind = .close → (s.entry e).state = .closing → (s.entry e).controlDue = .sendClose) :
    ConnectionsOk (s.startFrame o f sn d) := by
  rw [startFrame_eq]
  refine ⟨fun e => ?_, h.remotes, fun x e hx ho _ hkind => ?_, fun x hx hsn => ?_, h.away⟩
  · have hok := h.entries e
    rw [messageOnLine_none hquiet] at hok
    exact ok_anyLine hok
  · obtain rfl := Option.some.inj hx
    exact hclose e ho hkind
  · obtain rfl := Option.some.inj hx
    exact hdata hsn

/-- R30: an OPEN or DRAINING entry gives a frame. -/
theorem connectionsOk_gives {c : ConnEntry} {f : Frame} {sn : Option Seq} {d : Discharged} (h : ConnectionsOk s)
    (hquiet : s.sched.tx = none) (hlive : (s.entry e).live = true) (hc : (s.entry e).Carries c)
    (hfull : (s.entry e).drainsOk → c.drainsOk) (hdata : sn ≠ none → f.kind = .data) :
    ConnectionsOk (s.giveFrame e c f sn d) := by
  refine connectionsOk_startFrame (connectionsOk_carries h hlive hc hfull) hquiet hdata fun k ho _ hs => ?_
  cases ho
  rw [entry_setEntry_same] at hs
  rcases live_iff.1 (hc.live.trans hlive) with h | h <;> rw [hs] at h <;> cases h

theorem connectionsOk_giveStatus (h : ConnectionsOk s) (hquiet : s.sched.tx = none) (hlive : (s.entry e).live = true) :
    ConnectionsOk (s.giveStatus e) :=
  connectionsOk_gives h hquiet hlive (carries_flags _ _) id nofun

/-- R30: the message that a DATA frame carries stays unacknowledged. -/
theorem takeMessage_unacked {c d : ConnEntry} {m : Msg} {sn : Seq} (h : c.takeMessage = some (m, sn, d)) :
    d.unacked ≠ [] := by
  unfold ConnEntry.takeMessage at h
  split at h
  · next m' list hlist =>
    cases h
    rintro rfl
    have hnil : c.unacked = [] := List.eq_nil_of_length_eq_zero (takeMarked_length hlist).symm
    rw [hnil] at hlist
    cases hlist
  · split at h
    · cases h
    · cases h
      exact List.append_ne_nil_of_right_ne_nil _ (List.cons_ne_nil _ _)

/-- R28 to R30: an entry with eligible DATA gives it. -/
theorem connectionsOk_giveData (h : ConnectionsOk s) (hquiet : s.sched.tx = none)
    (heligible : (s.entry e).eligible = true) : ConnectionsOk (s.giveData e) := by
  unfold State.giveData
  split
  · exact h
  · next m sn c htake =>
    have hunacked := takeMessage_unacked htake
    exact connectionsOk_gives h hquiet (eligible_live heligible)
      ((carries_takeMessage heligible htake).trans (carries_flags _ _)) (fun _ _ => .inr hunacked) fun _ => rfl

/-- R27. -/
theorem connectionsOk_giveResponse (h : ConnectionsOk s) (hquiet : s.sched.tx = none)
    (hlive : (s.entry e).live = true) : ConnectionsOk (s.giveResponse e) := by
  unfold State.giveResponse
  dsimp only
  split
  · exact connectionsOk_gives h hquiet hlive .rfl id nofun
  · split
    · exact connectionsOk_gives h hquiet hlive (carries_flags _ _) id nofun
    · split
      · exact connectionsOk_giveStatus h hquiet hlive
      · split
        · next hdata =>
          simp only [Bool.and_eq_true] at hdata
          exact connectionsOk_giveData h hquiet hdata.1
        · exact connectionsOk_giveStatus h hquiet hlive

theorem connectionsOk_settleAbort (h : ConnectionsOk s) (hused : (s.entry e).state ≠ .free) :
    ConnectionsOk (s.setEntry e (s.entry e).settleAbort) :=
  connectionsOk_setEntry h (aborted_ok (h.entries e) hused false) (.of_same rfl rfl id rfl rfl fun _ => rfl)

/-- R150: an entry of the initiative class gives its frame. -/
theorem connectionsOk_giveInitiative (h : ConnectionsOk s) (hquiet : s.sched.tx = none)
    (hmember : (s.entry e).inInitiative = true) : ConnectionsOk (s.giveInitiative e) := by
  unfold State.giveInitiative
  split
  · next hs =>
    refine connectionsOk_startFrame (by rw [setEntry_entry]; exact h) hquiet nofun fun k ho hkind => ?_
    cases hkind
  · next hs =>
    refine connectionsOk_startFrame (connectionsOk_settleAbort h (by rw [hs]; nofun)) hquiet nofun fun k ho _ _ => ?_
    cases ho
    rw [entry_setEntry_same]
    rcases (inInitiative_iff _).1 hmember with ⟨hs', -⟩ | ⟨-, hdue⟩ | ⟨hs', -⟩
    · rw [hs] at hs'
      cases hs'
    · exact hdue
    · simp [hs] at hs'
  · next hs => exact connectionsOk_giveStatus h hquiet (live_iff.2 (.inl hs))
  · next hs => exact connectionsOk_giveStatus h hquiet (live_iff.2 (.inr hs))
  all_goals exact h

/-- R148 to R151: the frame of a choice starts. -/
theorem connectionsOk_start {c : Choice} (h : ConnectionsOk s) (hquiet : s.sched.tx = none) (hc : s.choose = some c) :
    ConnectionsOk (s.startChoice c) := by
  have hfor := choose_for hc
  have hkept : (s.withSched (s.sched.moveTo c)).sched.tx = s.sched.tx := by cases c <;> rfl
  have hmove : ConnectionsOk (s.withSched (s.sched.moveTo c)) := connectionsOk_same h rfl hkept rfl
  rw [hquiet] at hkept
  rcases choose_cases hc with ⟨r, -, rfl⟩ | ⟨e, he, rfl⟩ | hc
  · exact connectionsOk_startFrame hmove hkept nofun nofun
  · exact connectionsOk_giveResponse hmove hkept (chooseResponse_live (s := s) he)
  · rcases chooseUnprompted_some hc with ⟨e, he, rfl⟩ | ⟨p, e, -, -, rfl⟩ | ⟨e, p, k, -, -, habort, -, rfl⟩
    · exact connectionsOk_giveInitiative hmove hkept (roundRobin_some.1 he).1
    · exact connectionsOk_giveData hmove hkept hfor
    · have hclosing := abortedInPlace_closing habort
      have hsettled : ConnectionsOk ((s.withSched (s.sched.moveTo (.passing e p k))).setEntry e
          (s.entry e).settleAbort) := connectionsOk_settleAbort hmove (by rw [withSched_entry, hclosing]; nofun)
      exact connectionsOk_giveData hsettled hkept hfor

/-! ### The line engine and the ticks -/

/-- The turn controller changes, with nothing asked of the entries when it comes OFFLINE or to STOPPING. -/
theorem connectionsOk_withTurn {tc : TurnController} (h : ConnectionsOk s)
    (haway : tc.engine = .offline ∨ tc.engine = .stopping →
      tc.engine = s.turn.engine ∨ (tc.engine = .stopping ∧ ∀ e, (s.entry e).inUse = false)) :
    ConnectionsOk (s.withTurn tc) where
  entries := h.entries
  remotes := h.remotes
  closeDue := h.closeDue
  dataAlone := h.dataAlone
  away ha e := by
    rcases haway ha with hsame | ⟨-, hunused⟩
    · rw [withTurn_turn, hsame] at ha ⊢
      exact h.away ha e
    · have hno := hunused e
      simp only [ConnEntry.inUse, Bool.and_eq_false_imp, decide_eq_true_eq, decide_eq_false_iff_not, not_not] at hno
      by_cases hfree : (s.entry e).state = .free
      · exact .inl hfree
      · exact .inr (.inl (hno hfree))

/-- R129: a TURN starts. -/
theorem connectionsOk_sendTurn (h : ConnectionsOk s) (hquiet : s.sched.tx = none) (a : Byte) :
    ConnectionsOk (s.sendTurn a) :=
  connectionsOk_startFrame h hquiet nofun nofun

/-- R140: the entries that go OFFLINE return to FREE if they are CLOSING. -/
theorem goOffline_entry (s : State) (e : EntryIdx) :
    s.goOffline.entry e = if (s.entry e).state = .closing then {} else s.entry e := by
  rw [goOffline_eq]
  exact look_map ..

/-- R17, R140: a frame of a CLOSING entry on the line is detached. -/
theorem goOffline_keepsFrame (s : State) : s.KeepsFrame s.goOffline := fun x hx => by
  rw [goOffline_eq] at hx
  obtain ⟨y, hy, rfl⟩ := Option.map_eq_some_iff.1 hx
  split
  · split
    · exact .inr ⟨y, hy, rfl⟩
    · exact .inl hy
  · exact .inl hy
  · exact .inl hy

theorem goOffline_messageOnLine {k : EntryIdx} (hk : (s.entry k).state ≠ .closing) :
    s.goOffline.messageOnLine k = s.messageOnLine k := by
  rw [messageOnLine_eq, messageOnLine_eq, goOffline_eq]
  show ((s.sched.tx.map _).bind _) = _
  rw [Option.bind_map]
  refine Option.bind_congr fun x _ => ?_
  dsimp only [Function.comp_apply]
  split
  · next e ho =>
    by_cases hek : e = k
    · subst hek
      rw [if_neg hk]
    · split
      · simp [ho, hek]
      · rfl
  · rfl
  · rfl

/-- R140. -/
theorem connectionsOk_goOffline (h : ConnectionsOk s)
    (hunused : s.turn.engine = .stopping ∨ ∀ e, (s.entry e).inUse = false) : ConnectionsOk s.goOffline where
  entries e := by
    rw [goOffline_entry]
    split
    · exact ok_empty _
    · next hs =>
      rw [goOffline_messageOnLine hs]
      exact h.entries e
  remotes e k hek := by
    rw [goOffline_entry, goOffline_entry]
    split
    · exact fun he => absurd he (by simp [ConnEntry.keepsRemote])
    · split
      · exact fun _ hk => absurd hk (by simp [ConnEntry.keepsRemote])
      · exact h.remotes e k hek
  closeDue x e _ _ _ _ hclosing := by
    rw [goOffline_entry] at hclosing
    split at hclosing
    · cases hclosing
    · next hs => exact absurd hclosing hs
  dataAlone x hx hsn := by
    rcases goOffline_keepsFrame s x hx with hy | ⟨y, hy, rfl⟩
    · exact h.dataAlone x hy hsn
    · exact h.dataAlone y hy hsn
  away _ e := by
    rw [goOffline_entry]
    split
    · exact .inl rfl
    · next hs =>
      rcases hunused with hstopping | hunused
      · rcases h.away (.inr hstopping) e with hf | hf | ⟨-, hf, -⟩
        · exact .inl hf
        · exact .inr (.inl hf)
        · exact absurd hf hs
      · have hno := hunused e
        simp only [ConnEntry.inUse, Bool.and_eq_false_imp, decide_eq_true_eq, decide_eq_false_iff_not, not_not] at hno
        by_cases hfree : (s.entry e).state = .free
        · exact .inl hfree
        · exact .inr (.inl (hno hfree))

/-- A change of the answer timer alone, which stays stopped if it is. -/
theorem timed_ok {c : ConnEntry} {o : Option Seq} {x : Option Nat} {y : Nat} (h : c.ok o)
    (hstopped : c.answerTimer = none → x = none ∧ y = c.answerPhase)
    (hrange : c.paramsOk → x ≠ none → 1 ≤ x.getD 0 ∧ x.getD 0 ≤ 4095) :
    ({ c with answerTimer := x, answerPhase := y } : ConnEntry).ok o := by
  have hparams : c.paramsOk → ({ c with answerTimer := x, answerPhase := y } : ConnEntry).paramsOk :=
    fun ⟨hpresent, hwindow, hlimit, htime, hcount, htimer⟩ =>
      ⟨hpresent, hwindow, hlimit, htime, hcount, hrange ⟨hpresent, hwindow, hlimit, htime, hcount, htimer⟩⟩
  have hstop : c.answerTimer = none → x = none := fun h => (hstopped h).1
  rcases ok_forms h with rfl | ⟨hs, k⟩ | ⟨hlive, k, hdrains⟩ | ⟨hs, k⟩ | ⟨hs, k⟩
  · obtain ⟨rfl, rfl⟩ := hstopped rfl
    exact ok_empty o
  · exact (ok_opening (c := { c with answerTimer := x, answerPhase := y }) hs).2 { k with params := hparams k.params }
  · exact transfer_ok (c := { c with answerTimer := x, answerPhase := y }) hlive { k with params := hparams k.params }
      hdrains
  · exact (ok_closing (c := { c with answerTimer := x, answerPhase := y }) hs).2
      { k with
        params := hparams k.params
        emptied := k.emptied.imp_right fun hc hne => (hc hne).imp_right hstop
        control := k.control.imp_right fun hc => hc.imp_right hstop
        finished := fun hf => (k.finished hf).imp_right fun hc => hc.imp_right fun hd => hd.imp_right hstop }
  · exact (ok_ended (c := { c with answerTimer := x, answerPhase := y }) hs).2
      { k with
        params := hparams k.params
        emptied := k.emptied.imp_right fun hc hne => (hc hne).imp_right hstop
        timer := hstop k.timer }

/-- R44: a tick leaves a running answer timer in its range. -/
theorem tick_ok {c : ConnEntry} {o : Option Seq} (h : c.ok o) : c.tick.ok o := by
  unfold ConnEntry.tick
  split
  · next n hn =>
    split
    · exact h
    · next hruns =>
      split
      · exact timed_ok (x := c.answerTimer) h (fun hnone => by rw [hn] at hnone; cases hnone) fun hp => hp.2.2.2.2.2
      · next hphase =>
        refine timed_ok h (fun hnone => by rw [hn] at hnone; cases hnone) fun hp _ => ?_
        have hle : 1 ≤ n ∧ n ≤ 4095 := by
          have := hp.2.2.2.2.2
          rw [hn] at this
          exact this nofun
        simp only [ConnEntry.runsOut, hn, Bool.and_eq_true, decide_eq_true_eq, not_and] at hruns
        show 1 ≤ n - 1 ∧ n - 1 ≤ 4095
        omega
  · exact h

theorem connectionsOk_countDown (h : ConnectionsOk s) : ConnectionsOk s.countDown := by
  refine connectionsOk_of_follows h (keepsFrame_same rfl) rfl (fun e => ?_) fun e => ?_
  · rw [countDown_entry]
    exact tick_ok (h.entries e)
  · rw [countDown_entry, tick_fields]
    exact .of_same rfl rfl id rfl rfl fun _ => rfl

/-! ### Every effect -/

/-- The promises that the connections' promises rest on. -/
structure State.LineOk (s : State) : Prop where
  listen : listenOk s.listen
  transmits : transmitsOk s
  waits : handingWaits s
  connections : ConnectionsOk s

/-- R129: a TURN starts on a line that is free. -/
theorem State.LineOk.quiet (h : s.LineOk) (hquiet : s.sched.tx = none ∨ s.turn.responseTimer ≠ none) :
    s.sched.tx = none :=
  hquiet.elim id fun hr => (h.waits hr).2

/-- Every effect keeps the promises of the connection table. -/
theorem Effect.connectionsOk (h : Effect s t) (hs : s.LineOk) : ConnectionsOk t := by
  have hc := hs.connections
  cases h with
  | transaction p ps _ _ _ => exact connectionsOk_same hc rfl rfl rfl
  | offer p b _ => exact connectionsOk_same hc rfl rfl rfl
  | lineEvent c => exact connectionsOk_same hc rfl rfl rfl
  | filter p k f _ => exact connectionsOk_same hc rfl rfl rfl
  | fetch p n => exact connectionsOk_same hc rfl rfl rfl
  | admission p e n rest _ howner hnotices => exact connectionsOk_admission hc howner hnotices _
  | resetEntry p e => exact connectionsOk_resetEntry hc hs.transmits p e
  | resetQueue p =>
    exact connectionsOk_releaseAll (s := s.modPort p PortState.resetEvents) (connectionsOk_same hc rfl rfl rfl) p _
  | resetHeld p =>
    exact connectionsOk_releaseAll
      (s := s.withPool (s.pool.modAccount p fun a => { a with held := [] })) (connectionsOk_same hc rfl rfl rfl) p _
  | getBuffer p h pool _ => exact connectionsOk_same hc rfl rfl rfl
  | putBuffer p h _ =>
    exact connectionsOk_release (s := s.withPool (s.pool.unhold p h)) (connectionsOk_same hc rfl rfl rfl) p h
  | store h offset bytes _ => exact connectionsOk_same hc rfl rfl rfl
  | quota q reserve limit _ _ _ => exact connectionsOk_same hc rfl rfl rfl
  | station a _ => exact connectionsOk_same hc rfl rfl rfl
  | aside t hentries _ _ _ hturn hsched _ => exact connectionsOk_same hc hentries (by rw [hsched]) (by rw [hturn])
  | listen l _ => exact connectionsOk_same hc rfl rfl rfl
  | reset => exact connectionsOk_of_empty (deviceReset_entry (s := s)) rfl
  | openEntry p e service station window pr limit time _ hopen hwindow hlimit htime =>
    exact connectionsOk_open hc hopen hwindow hlimit htime
  | send p e m _ hopened _ _ =>
    have hlive : (s.entry e).live = true := live_iff.2 (.inl hopened)
    have hcarries := (carries_enqueue (s.entry e) m).trans (carries_settleTimer _)
    refine connectionsOk_carries (s := s.withPool (s.pool.unhold p m.handle)) (connectionsOk_same hc rfl rfl rfl) hlive
      hcarries fun _ hdraining => ?_
    rw [hcarries.state, hopened] at hdraining
    cases hdraining
  | tune e d hlive hd =>
    refine connectionsOk_carries hc hlive (carries_tunes hd) fun hdrains => ?_
    rw [hd.fields]
    exact hdrains
  | retry e d hstate htimer hcount => exact connectionsOk_retry hc hstate htimer hcount
  | abort e b hlive =>
    have hmark : ConnectionsOk (s.setEntry e { s.entry e with aborted := b }) :=
      connectionsOk_setEntry hc (aborted_ok (hc.entries e) (state_ne_free hlive) b)
        (.of_same rfl rfl id rfl rfl fun _ => rfl)
    exact connectionsOk_abort hmark (by rw [entry_setEntry_same]; exact hlive)
  | drain e hopened => exact connectionsOk_drain hc hopened
  | free e _ => exact connectionsOk_freeEntry hc e
  | finish e r hstate => exact connectionsOk_finish hc hstate r
  | badAccept e index hopening => exact connectionsOk_end_opening hc hopening (some index) .protocol
  | toOpen e station index window hopening hstation hremote hwindow =>
    exact connectionsOk_toOpen hc hopening hstation hremote hwindow
  | accept l e station index service window hl _ hengine hremote hwindow =>
    exact connectionsOk_accept hc (hs.listen.2.1 l hl) hengine hremote hwindow
  | transfer e f hlive _ _ => exact connectionsOk_transfer hc hlive
  | endExchange e timedOut hstate hopen =>
    exact connectionsOk_endExchange hc timedOut hstate (hopen.imp_left And.left)
  | sent x hx => exact connectionsOk_sent hc hx
  | failed x hx => exact connectionsOk_failed hc hx
  | start c _ hquiet hchoose => exact connectionsOk_start hc hquiet hchoose
  | offerStray r =>
    rcases offerStray_cases s r with h | ⟨-, -, h⟩ | h <;> rw [h]
    · exact hc
    · exact connectionsOk_same hc rfl rfl rfl
    · exact connectionsOk_same hc rfl rfl rfl
  | retime tc hengine _ _ => exact connectionsOk_withTurn hc fun _ => .inl hengine
  | toWaiting tc hengine _ _ _ =>
    exact connectionsOk_withTurn hc fun ha => by rcases ha with h | h <;> rw [hengine] at h <;> cases h
  | toHolding tc hengine _ _ =>
    exact connectionsOk_withTurn hc fun ha => by rcases ha with h | h <;> rw [hengine] at h <;> cases h
  | toStopping tc hengine _ _ _ hunused => exact connectionsOk_withTurn hc fun _ => .inr ⟨hengine, hunused⟩
  | sendTurn tc a _ hengine hquiet =>
    refine connectionsOk_sendTurn (s := s.withTurn tc) (connectionsOk_withTurn hc fun ha => ?_) (hs.quiet hquiet) a
    rcases hengine with ⟨hhanding, -⟩ | ⟨hstopping, -, hwas⟩
    · rcases ha with h | h <;> rw [hhanding] at h <;> cases h
    · exact .inl (hstopping.trans hwas.symm)
  | offline _ hunused => exact connectionsOk_goOffline hc hunused
  | countDown => exact connectionsOk_countDown hc

theorem Effect.lineOk (h : Effect s t) (hs : s.LineOk) : t.LineOk :=
  ⟨h.kept.listen hs.listen, h.lineKept.transmits hs.transmits, h.lineKept.waits hs.waits, h.connectionsOk hs⟩

/-- Settles O58: each effect of a step keeps the promises of the connection table, given those on the listen table and the
line, which the effects keep too. -/
theorem everyStepKeepsTheConnections : Obligations.EveryStepKeepsTheConnections := by
  intro s t h hlisten htransmits hwaits hconnections
  have hline : t.LineOk := (step_becomes h).keeps (fun _ _ k => k.lineOk) ⟨hlisten, htransmits, hwaits, hconnections⟩
  exact hline.connections

end Sys2Proof.Machine
end

section
/-! Where the buffers are: the buffers of a port as a multiset, summed over its held set, its queue and its entries, and
the three ways in which an effect keeps each buffer in one place. -/

namespace Sys2Proof.Machine

variable {s t u : State} {p q : Port} {e : EntryIdx}

/-! ### Sums -/

/-- A sum over a table changes by what one place changes. -/
theorem sum_change {n : Nat} {f g : Fin n → Multiset Handle} {i : Fin n} (h : ∀ k, i ≠ k → g k = f k) :
    ∑ k, g k + f i = ∑ k, f k + g i := by
  have hrest : ∑ k ∈ Finset.univ.erase i, g k = ∑ k ∈ Finset.univ.erase i, f k :=
    Finset.sum_congr rfl fun k hk => h k (Finset.ne_of_mem_erase hk).symm
  rw [← Finset.add_sum_erase _ g (Finset.mem_univ i), ← Finset.add_sum_erase _ f (Finset.mem_univ i), hrest]
  abel

theorem sum_flatMap {n : Nat} (f : Fin n → List Handle) :
    (((List.finRange n).flatMap f : List Handle) : Multiset Handle) = ∑ k, (f k : Multiset Handle) := by
  rw [Fin.sum_univ_def]
  induction List.finRange n with
  | nil => rfl
  | cons k ks ih => rw [List.flatMap_cons, ← Multiset.coe_add, ih, List.map_cons, List.sum_cons]

/-! ### The buffers of a port -/

/-- R82: the buffers that an entry holds for the port. -/
def ConnEntry.inPort (p : Port) (c : ConnEntry) : Multiset Handle := if c.owner = some p then c.buffers else 0

/-- R82: the buffers of the records of a queue. -/
def PortState.queued (ps : PortState) : Multiset Handle := (ps.queue.filterMap EventRecord.buffer : List Handle)

/-- R83: the buffers of the port, in no order. -/
def State.hands (s : State) (p : Port) : Multiset Handle := (s.buffersOf p : List Handle)

theorem hands_eq (s : State) (p : Port) :
    s.hands p = ((s.account p).held : Multiset Handle) + (s.port p).queued + ∑ e, (s.entry e).inPort p := by
  have hentries : ∀ e, (s.entry e).inPort p =
      ((if (s.entry e).owner = some p then (s.entry e).buffers else [] : List Handle) : Multiset Handle) := fun e => by
    unfold ConnEntry.inPort
    split <;> rfl
  simp only [hentries]
  rw [← sum_flatMap]
  rfl

theorem inPort_buffers (c : ConnEntry) :
    (c.buffers : Multiset Handle) =
      (c.sendQueue.map (·.handle) : List Handle) + (c.unacked.map (·.msg.handle) : List Handle) +
        (noticeBuffers c.notices : List Handle) := rfl

/-- What a port has, when one entry changes. -/
theorem hands_change (hheld : (t.account p).held = (s.account p).held) (hqueue : (t.port p).queued = (s.port p).queued)
    (hentries : ∀ k, e ≠ k → (t.entry k).inPort p = (s.entry k).inPort p) :
    t.hands p + (s.entry e).inPort p = s.hands p + (t.entry e).inPort p := by
  rw [hands_eq, hands_eq, hheld, hqueue, add_assoc, sum_change hentries, ← add_assoc]

theorem hands_same (hheld : (t.account p).held = (s.account p).held) (hqueue : (t.port p).queued = (s.port p).queued)
    (hentries : ∀ k, (t.entry k).inPort p = (s.entry k).inPort p) : t.hands p = s.hands p := by
  rw [hands_eq, hands_eq, hheld, hqueue, Finset.sum_congr rfl fun k _ => hentries k]

/-! ### The books -/

/-- Each buffer is in one place, and each charge is the port's count. -/
structure State.Books (s : State) : Prop where
  place : onePlace s
  charges : chargesOk s

theorem onePlace_iff :
    onePlace s ↔ ∀ h : Handle, ((s.pool.freeList : Multiset Handle) + ∑ p, s.hands p).count h = 1 := by
  unfold onePlace State.hands
  simp only [← sum_flatMap, Multiset.coe_add, Multiset.coe_count]

theorem chargesOk_iff : chargesOk s ↔ ∀ p, (s.account p).charge = (s.hands p).card := Iff.rfl

theorem books_of_total (hs : s.Books)
    (htotal : (t.pool.freeList : Multiset Handle) + ∑ p, t.hands p = (s.pool.freeList : Multiset Handle) + ∑ p, s.hands p)
    (hcharges : chargesOk t) : t.Books :=
  ⟨onePlace_iff.2 fun h => by rw [htotal]; exact onePlace_iff.1 hs.place h, hcharges⟩

/-- Nothing moves between a port and the free list. -/
theorem books_same (hs : s.Books) (hfree : t.pool.freeList = s.pool.freeList)
    (hcharge : ∀ q, (t.account q).charge = (s.account q).charge) (hhands : ∀ q, t.hands q = s.hands q) : t.Books := by
  refine books_of_total hs ?_ (chargesOk_iff.2 fun q => ?_)
  · rw [hfree, Finset.sum_congr rfl fun q _ => hhands q]
  · rw [hcharge, hhands]
    exact hs.charges q

/-- Buffers of one port go back to the free list. -/
theorem books_returned {hs : List Handle} (h : s.Books) (hfree : t.pool.freeList = s.pool.freeList ++ hs)
    (hcharge : ∀ q, (t.account q).charge = if p = q then (s.account q).charge - hs.length else (s.account q).charge)
    (hown : t.hands p + (hs : Multiset Handle) = s.hands p) (hothers : ∀ q, p ≠ q → t.hands q = s.hands q) :
    t.Books := by
  refine books_of_total h ?_ (chargesOk_iff.2 fun q => ?_)
  · have hsum := sum_change (f := s.hands) (g := t.hands) hothers
    rw [hfree, ← Multiset.coe_add]
    refine add_right_cancel (b := s.hands p) ?_
    rw [add_assoc, hsum, ← hown]
    abel
  · rw [hcharge]
    by_cases hq : p = q
    · subst hq
      have hcount := chargesOk_iff.1 h.charges p
      rw [← hown, Multiset.card_add, Multiset.coe_card] at hcount
      rw [if_pos rfl]
      omega
    · rw [if_neg hq, hothers q hq]
      exact h.charges q

/-- One buffer of the free list goes to a port. -/
theorem books_granted {b : Handle} (h : s.Books) (hfree : s.pool.freeList = b :: t.pool.freeList)
    (hcharge : ∀ q, (t.account q).charge = if p = q then (s.account q).charge + 1 else (s.account q).charge)
    (hown : t.hands p = s.hands p + {b}) (hothers : ∀ q, p ≠ q → t.hands q = s.hands q) : t.Books := by
  refine books_of_total h ?_ (chargesOk_iff.2 fun q => ?_)
  · have hsum := sum_change (f := s.hands) (g := t.hands) hothers
    rw [hfree, ← Multiset.cons_coe, ← Multiset.singleton_add]
    refine add_right_cancel (b := s.hands p) ?_
    rw [add_assoc, hsum, hown]
    abel
  · rw [hcharge]
    by_cases hq : p = q
    · subst hq
      rw [if_pos rfl, hown, Multiset.card_add, Multiset.card_singleton]
      exact congrArg (· + 1) (h.charges p)
    · rw [if_neg hq, hothers q hq]
      exact h.charges q

theorem count_hands_le (s : State) (p : Port) (b : Handle) : (s.hands p).count b ≤ (∑ q, s.hands q).count b := by
  rw [← Finset.add_sum_erase _ s.hands (Finset.mem_univ p), Multiset.count_add]
  exact Nat.le_add_right _ _

theorem State.Books.nodup (h : s.Books) (p : Port) : (s.hands p).Nodup := by
  refine Multiset.nodup_iff_count_le_one.2 fun b => (count_hands_le s p b).trans ?_
  rw [← onePlace_iff.1 h.place b, Multiset.count_add]
  exact Nat.le_add_left _ _

/-- A buffer of the free list is in no port's hands. -/
theorem State.Books.notFree (h : s.Books) {b : Handle} (hb : b ∈ s.pool.freeList) (p : Port) : b ∉ s.hands p := by
  have hone := onePlace_iff.1 h.place b
  have hpos : 0 < (s.pool.freeList : Multiset Handle).count b := Multiset.count_pos.2 hb
  have hle := count_hands_le s p b
  rw [Multiset.count_add] at hone
  exact Multiset.count_eq_zero.1 (by omega)

/-! ### What moves no buffer -/

theorem inPort_same {c d : ConnEntry} (howner : d.owner = c.owner)
    (hbuffers : (d.buffers : Multiset Handle) = c.buffers) (p : Port) : d.inPort p = c.inPort p := by
  unfold ConnEntry.inPort
  rw [howner, hbuffers]

theorem inPort_own {c : ConnEntry} (h : c.owner = some p) : c.inPort p = c.buffers := if_pos h

theorem inPort_other {c : ConnEntry} (h : c.owner = some p) (hq : p ≠ q) : c.inPort q = 0 :=
  if_neg fun hc => hq (Option.some.inj (h.symm.trans hc))

theorem inPort_empty {c : ConnEntry} (h : c.buffers = []) (p : Port) : c.inPort p = 0 := by
  unfold ConnEntry.inPort
  rw [h]
  exact ite_self _

theorem nudged_inPort (c : ConnEntry) (hs : List Handle) (b : Pool) (p : Port) : (c.nudged hs b).inPort p = c.inPort p := by
  obtain ⟨f, x, y, h⟩ := nudged_fields c hs b
  rw [h]
  rfl

theorem setEntry_hands (c : ConnEntry) (q : Port) :
    (s.setEntry e c).hands q + (s.entry e).inPort q = s.hands q + c.inPort q := by
  have h := hands_change (s := s) (t := s.setEntry e c) (p := q) (e := e) rfl rfl fun k hk => by
    rw [entry_setEntry_other _ _ hk]
  rwa [entry_setEntry_same] at h

theorem setEntry_hands_same {c : ConnEntry} (h : ∀ q, c.inPort q = (s.entry e).inPort q) (q : Port) :
    (s.setEntry e c).hands q = s.hands q := by
  have hset := setEntry_hands (s := s) (e := e) c q
  rw [h q] at hset
  exact add_right_cancel hset

/-- An entry changes with the same buffers. -/
theorem books_setEntry {c : ConnEntry} (hs : s.Books) (h : ∀ q, c.inPort q = (s.entry e).inPort q) :
    (s.setEntry e c).Books :=
  books_same hs rfl (fun _ => rfl) (setEntry_hands_same h)

theorem releaseAll_hands (s : State) (p : Port) (hs : List Handle) (q : Port) :
    (s.releaseAll p hs).hands q = s.hands q := by
  have hpool := releaseAll_returned s p hs
  refine hands_same ?_ ?_ fun k => ?_
  · show ((s.releaseAll p hs).pool.account q).held = _
    by_cases hq : q = p
    · subst hq
      rw [hpool.own]
    · rw [hpool.other q hq]
      rfl
  · rw [State.port, releaseAll_ports]
    rfl
  · rw [releaseAll_nudged, nudged_inPort]

/-- The pool is that after the release of buffers that the port has lost. -/
theorem books_released {hs : List Handle} (h : s.Books) (hpool : u.pool = (t.releaseAll p hs).pool)
    (hfree : t.pool.freeList = s.pool.freeList) (hcharge : ∀ q, (t.account q).charge = (s.account q).charge)
    (hown : u.hands p + (hs : Multiset Handle) = s.hands p) (hothers : ∀ q, p ≠ q → u.hands q = s.hands q) : u.Books := by
  have hback := releaseAll_returned t p hs
  rw [← hpool] at hback
  refine books_returned (p := p) h (hback.freeList.trans (by rw [hfree])) (fun q => ?_) hown hothers
  show (u.pool.account q).charge = _
  split
  · next hq =>
    subst hq
    rw [hback.own, ← hcharge]
    rfl
  · next hq =>
    rw [hback.other q (Ne.symm hq), ← hcharge]
    rfl

theorem books_releaseAll {hs : List Handle} (h : s.Books) (hfree : t.pool.freeList = s.pool.freeList)
    (hcharge : ∀ q, (t.account q).charge = (s.account q).charge)
    (hown : t.hands p + (hs : Multiset Handle) = s.hands p) (hothers : ∀ q, p ≠ q → t.hands q = s.hands q) :
    (t.releaseAll p hs).Books := by
  refine books_released h rfl hfree hcharge ?_ fun q hq => ?_
  · rw [releaseAll_hands]
    exact hown
  · rw [releaseAll_hands]
    exact hothers q hq

theorem freeEntry_hands (s : State) (e : EntryIdx) (q : Port) :
    (s.freeEntry e).hands q + (s.entry e).inPort q = s.hands q := by
  have hchange := hands_change (s := s) (t := s.freeEntry e) (p := q) (e := e) (by rw [freeEntry_eq]; rfl)
    (by rw [freeEntry_eq]; rfl) fun k hk => by rw [freeEntry_entry_other _ hk]
  rwa [freeEntry_entry, inPort_empty (c := {}) rfl, add_zero] at hchange

/-- An entry that holds no buffer returns to FREE. -/
theorem books_freeEntry (hs : s.Books) (h : (s.entry e).buffers = []) : (s.freeEntry e).Books := by
  refine books_same hs (by rw [freeEntry_eq]) (fun q => by rw [freeEntry_eq]; rfl) fun q => ?_
  have hfreed := freeEntry_hands s e q
  rwa [inPort_empty h, add_zero] at hfreed

/-! ### Events and notices -/

theorem queued_append (ps : PortState) (rs : List EventRecord) :
    ({ ps with queue := ps.queue ++ rs } : PortState).queued =
      ps.queued + (rs.filterMap EventRecord.buffer : List Handle) := by
  unfold PortState.queued
  rw [List.filterMap_append, ← Multiset.coe_add]

theorem buffer_of_droppable {b : EventBody} (h : b.isDroppable = true) (mark : Bool) :
    ({ body := b, alerts := mark } : EventRecord).buffer = none := by
  cases b with
  | held e n => cases h
  | _ => rfl

/-- R104: a count of dropped events holds no buffer. -/
theorem countDrop_queued (ps : PortState) : ps.countDrop.queued = ps.queued := by
  by_cases hlast : ∃ front n mark, ps.queue = front ++ [{ body := .overflow n, alerts := mark }]
  · obtain ⟨front, n, mark, hqueue⟩ := hlast
    rw [countDrop_again hqueue]
    unfold PortState.queued
    rw [hqueue, List.filterMap_append, List.filterMap_append]
    rfl
  · rw [countDrop_first fun rec hrec n hbody => hlast ?_, queued_append]
    · exact add_zero _
    · obtain ⟨front, hfront⟩ := List.getLast?_eq_some_iff.1 hrec
      exact ⟨front, n, rec.alerts, by rw [hfront, ← hbody]⟩

/-- R103: a droppable event holds no buffer. -/
theorem offer_queued (ps : PortState) {b : EventBody} (hb : b.isDroppable = true) : (ps.offer b).queued = ps.queued := by
  unfold PortState.offer
  split
  · rfl
  · split
    · refine (queued_append ps [_]).trans ?_
      rw [List.filterMap_cons_none (buffer_of_droppable hb _)]
      exact add_zero _
    · exact countDrop_queued ps

theorem books_setPort {ps : PortState} (hs : s.Books) (h : ps.queued = (s.port p).queued) : (s.setPort p ps).Books := by
  refine books_same hs rfl (fun _ => rfl) fun q => hands_same rfl ?_ fun _ => rfl
  by_cases hq : p = q
  · subst hq
    rw [port_setPort_same, h]
  · rw [port_setPort_other _ _ hq]

theorem noticeBuffers_append (ns ms : List Notice) :
    (noticeBuffers (ns ++ ms) : Multiset Handle) = (noticeBuffers ns : List Handle) + (noticeBuffers ms : List Handle) := by
  unfold noticeBuffers
  rw [List.filterMap_append, ← Multiset.coe_add]

theorem heldRecord_buffers (ps : PortState) (e : EntryIdx) (ns : List Notice) :
    (ns.map (ps.heldRecord e)).filterMap EventRecord.buffer = noticeBuffers ns := by
  rw [List.filterMap_map]
  rfl

/-- A queue gains buffers. -/
theorem setPort_gains {ps : PortState} {x : Multiset Handle} (h : ps.queued = (s.port p).queued + x) (q : Port) :
    (s.setPort p ps).hands q = s.hands q + if p = q then x else 0 := by
  split
  · next hq =>
    subst hq
    rw [hands_eq, hands_eq, port_setPort_same, h]
    simp only [setPort_account, setPort_entry]
    abel
  · next hq =>
    rw [add_zero]
    exact hands_same rfl (by rw [port_setPort_other _ _ hq]) fun _ => rfl

/-- A queue loses buffers. -/
theorem setPort_loses {ps : PortState} {x : Multiset Handle} (h : ps.queued + x = (s.port p).queued) (q : Port) :
    (s.setPort p ps).hands q + (if p = q then x else 0) = s.hands q := by
  have hback := setPort_gains (s := s.setPort p ps) (p := p) (ps := s.port p) (x := x) (by rw [port_setPort_same, h]) q
  rw [setPort_setPort, setPort_port] at hback
  exact hback.symm

/-- An entry of a port gains buffers. -/
theorem setEntry_gains {c : ConnEntry} {x : Multiset Handle} (howner : (s.entry e).owner = some p)
    (hsame : c.owner = (s.entry e).owner) (h : (c.buffers : Multiset Handle) = (s.entry e).buffers + x) (q : Port) :
    (s.setEntry e c).hands q = s.hands q + if p = q then x else 0 := by
  have hset := setEntry_hands (s := s) (e := e) c q
  rw [howner] at hsame
  split
  · next hq =>
    subst hq
    rw [inPort_own howner, inPort_own hsame, h] at hset
    refine add_right_cancel (b := ((s.entry e).buffers : Multiset Handle)) (hset.trans ?_)
    abel
  · next hq =>
    rw [inPort_other howner hq, inPort_other hsame hq, add_zero] at hset
    exact hset

/-- An entry of a port loses buffers. -/
theorem setEntry_loses {c : ConnEntry} {x : Multiset Handle} (howner : (s.entry e).owner = some p)
    (hsame : c.owner = (s.entry e).owner) (h : (c.buffers : Multiset Handle) + x = (s.entry e).buffers) (q : Port) :
    (s.setEntry e c).hands q + (if p = q then x else 0) = s.hands q := by
  have hback := setEntry_gains (s := s.setEntry e c) (p := p) (e := e) (c := s.entry e) (x := x)
    (by rw [entry_setEntry_same, hsame, howner]) (by rw [entry_setEntry_same, hsame]) (by rw [entry_setEntry_same, h]) q
  rw [setEntry_setEntry, setEntry_entry] at hback
  exact hback.symm

/-- Notices bring their buffers to the owner. -/
theorem makeNotices_hands (ns : List Notice) (howner : (s.entry e).owner = some p) (horphan : (s.entry e).orphan = false)
    (q : Port) :
    (s.makeNotices e ns).hands q = s.hands q + if p = q then (noticeBuffers ns : Multiset Handle) else 0 := by
  obtain ⟨told, kept, rfl, -, heq⟩ := makeNotices_owned ns howner horphan
  have hport := setPort_gains (s := s) (p := p) (queued_append (s.port p) (told.map ((s.port p).heldRecord e))) q
  have hkept : ((({ s.entry e with notices := (s.entry e).notices ++ kept } : ConnEntry).buffers : List Handle) :
      Multiset Handle) = (s.entry e).buffers + (noticeBuffers kept : List Handle) := by
    rw [inPort_buffers, inPort_buffers]
    rw [noticeBuffers_append]
    abel
  have hentry := setEntry_gains
    (s := s.setPort p { s.port p with queue := (s.port p).queue ++ told.map ((s.port p).heldRecord e) }) (e := e)
    (c := { s.entry e with notices := (s.entry e).notices ++ kept }) howner rfl hkept q
  rw [heq, State.afterNotices, hentry, hport, heldRecord_buffers, add_assoc]
  split
  · rw [noticeBuffers_append]
  · rfl

end Sys2Proof.Machine
end

section
/-! Every effect keeps each buffer in one place and each charge equal to its count. -/

namespace Sys2Proof.Machine

variable {s t : State} {p q : Port} {e : EntryIdx}

/-! ### Held sets -/

theorem insertHandle_perm {b : Handle} {l : List Handle} (h : b ∉ l) : (insertHandle b l).Perm (b :: l) := by
  induction l with
  | nil => exact .refl _
  | cons k rest ih =>
    rw [List.mem_cons, not_or] at h
    unfold insertHandle
    split
    · exact .refl _
    · rw [if_neg h.1]
      exact ((ih h.2).cons k).trans (.swap b k rest)

theorem withPool_hands (pool : Pool) (q : Port) :
    (s.withPool pool).hands q + ((s.account q).held : Multiset Handle) = s.hands q + ((pool.account q).held : List Handle) := by
  rw [hands_eq, hands_eq]
  show ((pool.account q).held : Multiset Handle) + (s.port q).queued + ∑ e, (s.entry e).inPort q + _ = _
  abel

/-- What the pool gains or loses in held sets alone. -/
structure Pool.SameBut (a b : Pool) (p : Port) : Prop where
  freeList : b.freeList = a.freeList
  charge : ∀ q, (b.account q).charge = (a.account q).charge
  held : ∀ q, p ≠ q → (b.account q).held = (a.account q).held

theorem modHeld_sameBut (pool : Pool) (p : Port) (f : List Handle → List Handle) :
    pool.SameBut (pool.modAccount p fun a => { a with held := f a.held }) p := by
  refine ⟨rfl, fun q => ?_, fun q hq => ?_⟩
  · rw [modAccount_account]
    split
    · next hq => rw [hq]
    · rfl
  · rw [modAccount_account, if_neg hq]

theorem Pool.SameBut.trans {a b c : Pool} (h : a.SameBut b p) (k : b.SameBut c p) : a.SameBut c p :=
  ⟨k.freeList.trans h.freeList, fun q => (k.charge q).trans (h.charge q),
    fun q hq => (k.held q hq).trans (h.held q hq)⟩

/-- A held set gains or loses buffers. -/
theorem Pool.SameBut.hands {pool : Pool} {x y : Multiset Handle} (h : s.pool.SameBut pool p)
    (hown : ((pool.account p).held : Multiset Handle) + x = ((s.account p).held : List Handle) + y) (q : Port) :
    (s.withPool pool).hands q + (if p = q then x else 0) = s.hands q + if p = q then y else 0 := by
  have hset := withPool_hands (s := s) pool q
  split
  · next hq =>
    subst hq
    refine add_right_cancel (b := ((s.account p).held : Multiset Handle)) ?_
    calc (s.withPool pool).hands p + x + (s.account p).held
        = (s.withPool pool).hands p + (s.account p).held + x := add_right_comm ..
      _ = s.hands p + ((pool.account p).held + x) := by rw [hset, add_assoc]
      _ = s.hands p + y + (s.account p).held := by
        rw [hown]
        abel
  · next hq =>
    rw [h.held q hq] at hset
    exact congrArg (· + 0) (add_right_cancel hset)

theorem held_le_hands (s : State) (p : Port) : ((s.account p).held : Multiset Handle) ≤ s.hands p := by
  rw [hands_eq, add_assoc]
  exact Multiset.le_add_right _ _

/-- A held buffer leaves its held set. -/
theorem unhold_hands {b : Handle} (hs : s.Books) (hb : s.pool.holds p b = true) (q : Port) :
    (s.withPool (s.pool.unhold p b)).hands q + (if p = q then {b} else 0) = s.hands q := by
  have hnodup : (s.account p).held.Nodup := Multiset.coe_nodup.1 (Multiset.nodup_of_le (held_le_hands s p) (hs.nodup p))
  have hmem : b ∈ (s.account p).held := List.contains_iff_mem.1 hb
  have hheld : (((s.pool.unhold p b).account p).held : Multiset Handle) + {b} = ((s.account p).held : List Handle) + 0 := by
    have herase : ((s.pool.unhold p b).account p).held = (s.account p).held.erase b := by
      rw [Pool.unhold, modAccount_account, if_pos rfl, hnodup.erase_eq_filter]
      exact List.filter_congr fun k _ => decide_not
    rw [herase, add_zero, add_comm, Multiset.singleton_add, Multiset.cons_coe]
    exact Multiset.coe_eq_coe.2 (List.perm_cons_erase hmem).symm
  have hset := (modHeld_sameBut s.pool p fun l => l.filter (· ≠ b)).hands hheld q
  rwa [ite_self, add_zero] at hset

/-- R110: buffers that are in no held set join one. -/
theorem holdAll (bs : List Handle) (pool : Pool) (p : Port) (hnodup : bs.Nodup)
    (hnew : ∀ b ∈ bs, b ∉ (pool.account p).held) :
    pool.SameBut (bs.foldl (fun pool b => pool.hold p b) pool) p ∧
      (((bs.foldl (fun pool b => pool.hold p b) pool).account p).held).Perm (bs ++ (pool.account p).held) := by
  induction bs generalizing pool with
  | nil => exact ⟨⟨rfl, fun _ => rfl, fun _ _ => rfl⟩, .refl _⟩
  | cons b rest ih =>
    obtain ⟨hb, hrest⟩ := List.nodup_cons.1 hnodup
    have hheld : ((pool.hold p b).account p).held = insertHandle b (pool.account p).held := by
      rw [Pool.hold, modAccount_account, if_pos rfl]
    have hperm := insertHandle_perm (hnew b (List.mem_cons_self ..))
    obtain ⟨hsame, hall⟩ := ih (pool.hold p b) hrest fun k hk => by
      rw [hheld, hperm.mem_iff, List.mem_cons, not_or]
      exact ⟨fun hkb => hb (hkb ▸ hk), hnew k (List.mem_cons_of_mem _ hk)⟩
    refine ⟨(modHeld_sameBut pool p (insertHandle b)).trans hsame, hall.trans ?_⟩
    rw [hheld]
    exact (hperm.append_left rest).trans (List.perm_middle)

/-! ### The effects at the host's side -/

theorem State.Books.apart (hs : s.Books) (p : Port) :
    ((s.port p).queue.filterMap EventRecord.buffer).Nodup ∧
      ∀ b ∈ (s.port p).queue.filterMap EventRecord.buffer, b ∉ (s.account p).held := by
  have hnodup := hs.nodup p
  rw [hands_eq, Multiset.nodup_add, Multiset.nodup_add] at hnodup
  obtain ⟨⟨-, hqueue, happart⟩, -⟩ := hnodup
  exact ⟨hqueue, fun b hb hheld => Multiset.disjoint_left.1 happart hheld hb⟩

/-- R110: the buffers of the records fetched join the held set. -/
theorem books_takeRecords (hs : s.Books) (p : Port) (n : Nat) : (s.takeRecords p n).Books := by
  obtain ⟨hnodup, hnew⟩ := hs.apart p
  have hsplit : (s.port p).queue.filterMap EventRecord.buffer =
      ((s.port p).queue.take n).filterMap EventRecord.buffer ++ ((s.port p).queue.drop n).filterMap EventRecord.buffer := by
    rw [← List.filterMap_append, List.take_append_drop]
  have htaken : (((s.port p).queue.take n).filterMap EventRecord.buffer).Nodup := by
    rw [hsplit] at hnodup
    exact (List.nodup_append.1 hnodup).1
  obtain ⟨hsame, hheld⟩ := holdAll _ s.pool p htaken fun b hb => hnew b (by
    rw [hsplit]
    exact List.mem_append_left _ hb)
  refine books_same hs hsame.freeList hsame.charge fun q => ?_
  have hqueue := setPort_loses (s := s) (p := p) (ps := { s.port p with queue := (s.port p).queue.drop n })
    (x := (((s.port p).queue.take n).filterMap EventRecord.buffer : List Handle)) (by
      unfold PortState.queued
      rw [hsplit, ← Multiset.coe_add, add_comm]) q
  have hset := hsame.hands (s := s.setPort p { s.port p with queue := (s.port p).queue.drop n }) (x := 0)
    (y := (((s.port p).queue.take n).filterMap EventRecord.buffer : List Handle)) (by
      rw [add_zero, Multiset.coe_eq_coe.2 hheld, ← Multiset.coe_add, add_comm]
      rfl) q
  rw [ite_self, add_zero, hqueue] at hset
  exact hset

/-- R81, R85: what an allocation takes from the pool. -/
theorem allocate_pool {b : Handle} {pool pool' : Pool} (ha : pool.allocate p = some (b, pool')) :
    pool.freeList = b :: pool'.freeList ∧
      ∀ q, pool'.account q =
        if p = q then { pool.account p with charge := (pool.account p).charge + 1 } else pool.account q := by
  obtain ⟨-, rest, hfree, rfl⟩ := allocate_eq ha
  exact ⟨hfree, fun q => look_put ..⟩

theorem allocate_held {b : Handle} {pool pool' : Pool} (ha : pool.allocate p = some (b, pool')) (q : Port) :
    (pool'.account q).held = (pool.account q).held := by
  rw [(allocate_pool ha).2]
  split
  · next hq =>
    subst hq
    rfl
  · rfl

/-- A buffer of the free list is given to a port, which gains it and nothing else. -/
theorem books_allocated {b : Handle} {pool : Pool} (hs : s.Books) (ha : s.pool.allocate p = some (b, pool))
    (hfree : t.pool.freeList = pool.freeList) (hcharge : ∀ q, (t.account q).charge = (pool.account q).charge)
    (hhands : ∀ q, t.hands q = s.hands q + if p = q then {b} else 0) : t.Books := by
  obtain ⟨htaken, haccount⟩ := allocate_pool ha
  refine books_granted (p := p) hs (hfree ▸ htaken) (fun q => ?_) ?_ fun q hq => ?_
  · rw [hcharge, haccount]
    split
    · next hq =>
      subst hq
      rfl
    · rfl
  · rw [hhands, if_pos rfl]
  · rw [hhands, if_neg hq, add_zero]

/-- R89: the head of the free list joins a held set. -/
theorem books_getBuffer {b : Handle} {pool : Pool} (hs : s.Books) (ha : s.pool.allocate p = some (b, pool)) :
    (s.withPool (pool.hold p b)).Books := by
  obtain ⟨hfree, -⟩ := allocate_pool ha
  have hnew : b ∉ (s.account p).held := fun hb =>
    hs.notFree (hfree ▸ List.mem_cons_self ..) p (Multiset.mem_of_le (held_le_hands s p) hb)
  have hheld : ∀ q, (pool.account q).held = (s.account q).held := allocate_held ha
  have hsame := modHeld_sameBut pool p (insertHandle b)
  refine books_allocated hs ha rfl hsame.charge fun q => ?_
  have hset := withPool_hands (s := s) (pool.hold p b) q
  split
  · next hq =>
    subst hq
    have hown : ((pool.hold p b).account p).held = insertHandle b (s.account p).held := by
      rw [Pool.hold, modAccount_account, if_pos rfl, hheld]
    rw [hown, Multiset.coe_eq_coe.2 (insertHandle_perm hnew), ← Multiset.cons_coe, ← Multiset.singleton_add,
      ← add_assoc] at hset
    exact add_right_cancel hset
  · next hq =>
    have hother : ((pool.hold p b).account q).held = (s.account q).held := (hsame.held q hq).trans (hheld q)
    rw [hother] at hset
    exact (add_right_cancel hset).trans (add_zero _).symm

/-- R90. -/
theorem books_putBuffer {b : Handle} (hs : s.Books) (hb : s.pool.holds p b = true) :
    ((s.withPool (s.pool.unhold p b)).release p b).Books := by
  have hhands := unhold_hands hs hb
  have hsame := modHeld_sameBut s.pool p fun l => l.filter (· ≠ b)
  refine books_releaseAll (t := s.withPool (s.pool.unhold p b)) (hs := [b]) hs hsame.freeList hsame.charge ?_ fun q hq => ?_
  · have := hhands p
    rwa [if_pos rfl] at this
  · have := hhands q
    rwa [if_neg hq, add_zero] at this

/-- R25: a held buffer becomes a message's. -/
theorem books_send {m : Msg} (hs : s.Books) (howner : (s.entry e).owner = some p)
    (hheld : s.pool.holds p m.handle = true) :
    ((s.withPool (s.pool.unhold p m.handle)).setEntry e ((s.entry e).enqueue m).settleTimer).Books := by
  have hsame := modHeld_sameBut s.pool p fun l => l.filter (· ≠ m.handle)
  have hbuffers : ((((s.entry e).enqueue m).settleTimer.buffers : List Handle) : Multiset Handle) =
      (s.entry e).buffers + {m.handle} := by
    rw [settleTimer_eq, inPort_buffers, inPort_buffers]
    show (((s.entry e).sendQueue ++ [m]).map (·.handle) : Multiset Handle) + _ + _ = _
    rw [List.map_append, ← Multiset.coe_add]
    show _ + ({m.handle} : Multiset Handle) + _ + _ = _
    abel
  have hentry : ((s.entry e).enqueue m).settleTimer.owner = (s.entry e).owner := by
    rw [settleTimer_eq]
    rfl
  refine books_same hs hsame.freeList hsame.charge fun q => ?_
  have hset := setEntry_gains (s := s.withPool (s.pool.unhold p m.handle)) howner hentry hbuffers q
  rw [hset]
  exact unhold_hands hs hheld q

/-! ### Port resets -/

/-- R182, step 3. -/
theorem books_resetQueue (hs : s.Books) (p : Port) : (s.resetQueue p).Books := by
  have hqueue := setPort_loses (s := s) (p := p) (ps := (s.port p).resetEvents) (x := (s.port p).queued)
    (zero_add _)
  refine books_releaseAll (t := s.modPort p PortState.resetEvents) hs rfl (fun _ => rfl) ?_ fun q hq => ?_
  · have := hqueue p
    rwa [if_pos rfl] at this
  · have := hqueue q
    rwa [if_neg hq, add_zero] at this

/-- R182, step 4. -/
theorem books_resetHeld (hs : s.Books) (p : Port) : (s.resetHeld p).Books := by
  have hsame := modHeld_sameBut s.pool p fun _ => []
  have hhands := hsame.hands (s := s) (x := ((s.account p).held : List Handle)) (y := 0) (by
    rw [modAccount_account, if_pos rfl]
    exact add_comm _ _)
  refine books_releaseAll (t := s.withPool (s.pool.modAccount p fun a => { a with held := [] })) hs hsame.freeList
    hsame.charge ?_ fun q hq => ?_
  · have := hhands p
    rwa [if_pos rfl, if_pos rfl, add_zero] at this
  · have := hhands q
    rwa [if_neg hq, if_neg hq, add_zero, add_zero] at this

/-- R13, R17: an entry that is not OPEN or DRAINING, without a message, holds its notices' buffers alone. -/
theorem buffers_quiet {c : ConnEntry} {o : Option Seq} (h : c.ok o) (hdead : c.live = false) (hempty : c.unacked = []) :
    c.buffers = noticeBuffers c.notices := by
  have hqueue : c.sendQueue = [] := by
    rcases ok_forms h with rfl | ⟨-, k⟩ | ⟨hlive, -⟩ | ⟨-, k⟩ | ⟨-, k⟩
    · rfl
    · exact k.queue
    · rw [hdead] at hlive
      cases hlive
    · exact k.emptied.1
    · exact k.emptied.1
  unfold ConnEntry.buffers
  rw [hqueue, hempty]
  rfl

theorem filter_split (l : List SentMsg) (o : Option Seq) :
    ((l.map (·.msg.handle) : List Handle) : Multiset Handle) =
      ((l.filter fun m => some m.sn = o).map (·.msg.handle) : List Handle) +
        ((l.filter fun m => some m.sn ≠ o).map (·.msg.handle) : List Handle) := by
  rw [Multiset.coe_add, ← List.map_append]
  refine Multiset.coe_eq_coe.2 (List.Perm.map _ ?_)
  have hperm := List.filter_append_perm (fun m : SentMsg => decide (some m.sn = o)) l
  simpa using hperm.symm

/-- R22: what an entry that a port reset does not free gives back and keeps. -/
theorem resetForm_buffers {c : ConnEntry} {o : Option Seq} (h : c.ok o) (hfrees : ¬ c.resetFrees) :
    (c.resetForm o).owner = c.owner ∧
      ((c.resetForm o).buffers : Multiset Handle) + (c.resetBuffers o : List Handle) = c.buffers := by
  unfold ConnEntry.resetFrees at hfrees
  rcases ok_forms h with rfl | ⟨hs, k⟩ | ⟨hlive, k, -⟩ | ⟨hs, k⟩ | ⟨hs, k⟩
  · exact ⟨rfl, rfl⟩
  · exact absurd (.inl hs) hfrees
  · have hback : c.resetBuffers o = (c.unacked.filter fun m => some m.sn ≠ o).map (·.msg.handle) ++
        c.sendQueue.map (·.handle) ++ c.notices.filterMap Notice.buffer := by
      unfold ConnEntry.resetBuffers
      rcases live_iff.1 hlive with hs | hs <;> rw [hs]
    rw [resetForm_live hlive, hback, inPort_buffers, inPort_buffers, filter_split c.unacked o]
    refine ⟨rfl, ?_⟩
    simp only [← Multiset.coe_add]
    show (0 : Multiset Handle) + _ + 0 + _ = _ + _ + ((c.notices.filterMap Notice.buffer : List Handle) : Multiset Handle)
    show 0 + (((c.unacked.filter fun m => some m.sn = o).map (·.msg.handle) : List Handle) : Multiset Handle) + 0 + _ = _
    abel
  · have hopen : ¬ c.closeFinished = true := fun hf => hfrees (.inr (.inl ⟨hs, hf⟩))
    have hback : c.resetBuffers o = c.notices.filterMap Notice.buffer := by simp [ConnEntry.resetBuffers, hs]
    rw [resetForm_closing hs hopen, hback, inPort_buffers, inPort_buffers]
    exact ⟨rfl, congrArg (· + _) (add_zero _)⟩
  · have hne : c.unacked ≠ [] := fun hnil => hfrees (.inr (.inr ⟨hs, hnil⟩))
    have hback : c.resetBuffers o = c.notices.filterMap Notice.buffer := by simp [ConnEntry.resetBuffers, hs]
    rw [resetForm_ended hs hne, hback, inPort_buffers, inPort_buffers]
    exact ⟨rfl, congrArg (· + _) (add_zero _)⟩

/-- R22: an entry that a port reset frees gives back all that it holds. -/
theorem resetFrees_buffers {c : ConnEntry} {o : Option Seq} (h : c.ok o) (hfrees : c.resetFrees) :
    c.buffers = c.resetBuffers o := by
  rcases hfrees with hs | ⟨hs, hf⟩ | ⟨hs, hempty⟩
  · have k := (ok_opening hs).1 h
    simp [ConnEntry.resetBuffers, hs, ConnEntry.buffers, k.queue, k.unacked, k.notices, noticeBuffers]
  · have hback : c.resetBuffers o = noticeBuffers c.notices := by simp [ConnEntry.resetBuffers, hs, noticeBuffers]
    rw [hback]
    exact buffers_quiet h (by simp [ConnEntry.live, hs]) (((ok_closing hs).1 h).finished hf).2.1
  · have hback : c.resetBuffers o = noticeBuffers c.notices := by simp [ConnEntry.resetBuffers, hs, noticeBuffers]
    rw [hback]
    exact buffers_quiet h (by simp [ConnEntry.live, hs]) hempty

/-- R22, R182: a port reset's effect on one entry. -/
theorem books_resetEntry (hs : s.Books) (h : ConnectionsOk s) (p : Port) (e : EntryIdx) : (s.resetEntry p e).Books := by
  rcases resetEntry_cases s p e with heq | ⟨⟨howner, -⟩, ⟨hfrees, d, heq⟩ | ⟨hfrees, heq⟩⟩ <;> rw [heq]
  · exact hs
  · have hback := resetFrees_buffers (h.entries e) hfrees
    have hhands : ∀ q,
        (((s.setEntry e d).releaseAll p ((s.entry e).resetBuffers (s.messageOnLine e))).freeEntry e).hands q +
          (s.entry e).inPort q = s.hands q := fun q => by
      have hfreed := freeEntry_hands ((s.setEntry e d).releaseAll p ((s.entry e).resetBuffers (s.messageOnLine e))) e q
      rw [releaseAll_hands, releaseAll_nudged, nudged_inPort, entry_setEntry_same] at hfreed
      refine add_right_cancel (b := d.inPort q) ?_
      rw [← setEntry_hands (s := s) (e := e) d q, ← hfreed]
      abel
    refine books_released (t := s.setEntry e d) hs (by rw [freeEntry_eq]) rfl (fun _ => rfl) ?_ fun q hq => ?_
    · have hown := hhands p
      rwa [inPort_own howner, hback] at hown
    · have hother := hhands q
      rwa [inPort_other howner hq, add_zero] at hother
  · obtain ⟨hsame, hback⟩ := resetForm_buffers (h.entries e) hfrees
    have hset := fun q => setEntry_hands (s := s) (e := e) ((s.entry e).resetForm (s.messageOnLine e)) q
    refine books_releaseAll (t := s.setEntry e ((s.entry e).resetForm (s.messageOnLine e))) hs rfl (fun _ => rfl) ?_
      fun q hq => ?_
    · have hown := hset p
      rw [inPort_own howner, inPort_own (hsame.trans howner), ← hback] at hown
      refine add_right_cancel (b := (((s.entry e).resetForm (s.messageOnLine e)).buffers : Multiset Handle)) ?_
      rw [← hown]
      abel
    · have hother := hset q
      rwa [inPort_other howner hq, inPort_other (hsame.trans howner) hq, add_zero, add_zero] at hother

end Sys2Proof.Machine
end

section
/-! Every effect keeps each buffer in one place: passages, transfer frames and the frame on the line; and the whole of
the statement. -/

namespace Sys2Proof.Machine

variable {s t : State} {p q : Port} {e : EntryIdx} {x : TxRecord}

/-! ### Nothing moves -/

theorem books_eq (hs : s.Books) (hpool : t.pool = s.pool) (hports : t.ports = s.ports) (hentries : t.entries = s.entries) :
    t.Books := by
  refine books_same hs (by rw [hpool]) (fun q => by rw [State.account, hpool]; rfl) fun q => hands_same ?_ ?_ fun k => ?_
  · rw [State.account, hpool]
    rfl
  · rw [State.port, hports]
    rfl
  · rw [State.entry, hentries]
    rfl

theorem books_modPort {f : PortState → PortState} (hs : s.Books) (h : (f (s.port p)).queued = (s.port p).queued) :
    (s.modPort p f).Books := books_setPort hs h

theorem books_lineEvent (hs : s.Books) (c : LineCode) : (s.lineEvent c).Books := by
  refine books_same hs rfl (fun _ => rfl) fun q => hands_same rfl ?_ fun _ => rfl
  rw [lineEvent_port, offer_queued _ rfl]

theorem books_entryEvent (hs : s.Books) {b : EventBody} (hb : b.isDroppable = true) : (s.entryEvent e b).Books := by
  rcases entryEvent_cases s e b with h | ⟨p, -, -, h⟩ <;> rw [h]
  · exact hs
  · exact books_setPort hs (offer_queued _ hb)

theorem books_closedEvent (hs : s.Books) (owner : Option Port) (e : EntryIdx) (timedOut : Bool) :
    (s.closedEvent owner e timedOut).Books := by
  unfold State.closedEvent
  split
  · exact books_setPort hs (offer_queued _ rfl)
  · exact hs

theorem books_startFrame (hs : s.Books) (o : Origin) (f : Frame) (sn : Option Seq) (d : Discharged) :
    (s.startFrame o f sn d).Books := by
  rw [startFrame_eq]
  exact books_eq hs rfl rfl rfl

/-- An entry changes, and its owner, its lists and its notices are the same. -/
theorem books_lists {c : ConnEntry} (hs : s.Books) (howner : c.owner = (s.entry e).owner)
    (hbuffers : (c.buffers : Multiset Handle) = (s.entry e).buffers) : (s.setEntry e c).Books :=
  books_setEntry hs (inPort_same howner hbuffers)

theorem settleTimer_buffers (c : ConnEntry) : c.settleTimer.buffers = c.buffers := by
  rw [settleTimer_eq]
  rfl

theorem settleTimer_owner (c : ConnEntry) : c.settleTimer.owner = c.owner := by
  rw [settleTimer_eq]

theorem drained_same (c : ConnEntry) : c.drained.owner = c.owner ∧ c.drained.buffers = c.buffers := by
  unfold ConnEntry.drained
  split <;> exact ⟨rfl, rfl⟩

/-! ### Messages that become notices -/

/-- An entry loses messages, and its owner is told of them. -/
theorem books_tells {c : ConnEntry} {ns : List Notice} (hs : s.Books) (howner : (s.entry e).owner = some p)
    (horphan : c.orphan = false) (hsame : c.owner = (s.entry e).owner)
    (hbuffers : (c.buffers : Multiset Handle) + (noticeBuffers ns : List Handle) = (s.entry e).buffers) :
    ((s.setEntry e c).makeNotices e ns).Books := by
  have hpool : ((s.setEntry e c).makeNotices e ns).pool = s.pool := makeNotices_pool ..
  refine books_same hs (by rw [hpool]) (fun q => by rw [State.account, hpool]; rfl) fun q => ?_
  rw [makeNotices_hands ns (by rw [entry_setEntry_same, hsame, howner]) (by rw [entry_setEntry_same]; exact horphan)]
  exact setEntry_loses howner hsame hbuffers q

theorem unsent_buffers (ms : List Msg) : noticeBuffers (ms.map Msg.unsent) = ms.map (·.handle) := by
  induction ms with
  | nil => rfl
  | cons m rest ih => exact congrArg (m.handle :: ·) ih

/-- R13, R15: the messages that stay and those that leave. -/
theorem keepOnly_buffers (c : ConnEntry) (o : Option Seq) :
    (((c.keepOnly o).buffers : List Handle) : Multiset Handle) + ((c.messagesBut o).map (·.handle) : List Handle) =
      c.buffers := by
  rw [inPort_buffers, inPort_buffers, filter_split c.unacked o, ConnEntry.messagesBut, List.map_append,
    ← Multiset.coe_add, List.map_map]
  show (0 : Multiset Handle) +
    (((c.unacked.filter fun m => some m.sn = o).map (·.msg.handle) : List Handle) : Multiset Handle) +
    (noticeBuffers c.notices : List Handle) +
    ((((c.unacked.filter fun m => some m.sn ≠ o).map (·.msg.handle) : List Handle) : Multiset Handle) +
      (c.sendQueue.map (·.handle) : List Handle)) = _
  abel

/-- R13. -/
theorem books_abort (hs : s.Books) (howner : (s.entry e).owner = some p) (horphan : (s.entry e).orphan = false) :
    (s.abortEntry e).Books := by
  rw [abortEntry_eq]
  refine books_tells hs howner horphan rfl ?_
  rw [unsent_buffers]
  exact keepOnly_buffers ..

/-- R15: an entry ends, with whatever index of its peer it has heard. -/
theorem books_endEntry (hs : s.Books) (howner : (s.entry e).owner = some p) (horphan : (s.entry e).orphan = false)
    (index : Option Byte) (r : EndReason) :
    ((s.setEntry e { s.entry e with remoteIndex := index }).endEntry e r).Books := by
  rw [endEntry_eq, entry_setEntry_same, setEntry_messageOnLine, setEntry_setEntry]
  refine books_tells hs howner horphan rfl ?_
  rw [ConnEntry.endNotices, noticeBuffers_append, unsent_buffers]
  have hlast : ∀ b : Bool, noticeBuffers (if b then [Notice.ended r] else []) = [] := fun b => by cases b <;> rfl
  rw [hlast, Multiset.coe_nil, add_zero]
  exact keepOnly_buffers (s.entry e) (s.messageOnLine e)

/-! ### Transfer frames -/

theorem offerSent_queued (e : EntryIdx) (ms : List SentMsg) (ps : PortState) : (ps.offerSent e ms).queued = ps.queued := by
  induction ms generalizing ps with
  | nil => rfl
  | cons m rest ih =>
    rw [offerSent_cons, ih]
    split
    · exact offer_queued _ rfl
    · rfl

theorem takeAck_buffers (c : ConnEntry) (en : Seq) (n : Nat) :
    (((c.takeAck en n).buffers : List Handle) : Multiset Handle) +
      ((c.unacked.take n).map (·.msg.handle) : List Handle) = c.buffers := by
  have hsplit : ((c.unacked.map (·.msg.handle) : List Handle) : Multiset Handle) =
      ((c.unacked.take n).map (·.msg.handle) : List Handle) + ((c.unacked.drop n).map (·.msg.handle) : List Handle) := by
    rw [Multiset.coe_add, ← List.map_append, List.take_append_drop]
  rw [inPort_buffers, inPort_buffers, hsplit]
  show ((c.sendQueue.map (·.handle) : List Handle) : Multiset Handle) +
    ((c.unacked.drop n).map (·.msg.handle) : List Handle) + (noticeBuffers c.notices : List Handle) + _ = _
  abel

theorem answeredBy_buffers (c : ConnEntry) (a : Bool) :
    (((c.answeredBy a).buffers : List Handle) : Multiset Handle) = c.buffers := by
  unfold ConnEntry.answeredBy
  split
  · rw [inPort_buffers, inPort_buffers]
    simp [Function.comp_def]
  · rfl

/-- R34, R35: the acknowledged messages give their buffers back. -/
theorem books_acked {f : Frame} (hs : s.Books) (howner : (s.entry e).owner = some p)
    (horphan : (s.entry e).orphan = false) : (s.acked e f).Books := by
  have hack : (s.acknowledge e (seqEN f.seq) (seqEN f.seq - (s.entry e).va).toNat).Books := by
    generalize (seqEN f.seq - (s.entry e).va).toNat = n
    have hset := setEntry_loses (s := s) (e := e) (c := (s.entry e).takeAck (seqEN f.seq) n)
      (x := (((s.entry e).unacked.take n).map (·.msg.handle) : List Handle)) howner rfl (takeAck_buffers ..)
    rw [acknowledge_eq howner horphan]
    refine books_modPort (books_releaseAll (p := p) hs rfl (fun _ => rfl) ?_ fun q hq => ?_) (offerSent_queued e _ _)
    · have := hset p
      rwa [if_pos rfl] at this
    · have := hset q
      rwa [if_neg hq, add_zero] at this
  unfold State.acked
  exact books_lists hack (answeredBy_fields _ _).2.1 (answeredBy_buffers _ _)

theorem outOfOrder_buffers (c : ConnEntry) : c.outOfOrder.owner = c.owner ∧ c.outOfOrder.buffers = c.buffers := by
  rw [outOfOrder_eq]
  exact ⟨rfl, rfl⟩

theorem announceBusy_same (c : ConnEntry) : c.announceBusy.owner = c.owner ∧ c.announceBusy.buffers = c.buffers := by
  unfold ConnEntry.announceBusy
  split <;> exact ⟨rfl, rfl⟩

/-- R40, R86: the buffer of the payload goes with its notice. -/
theorem books_storeData {payload : List Byte} {b : Handle} {pool : Pool} (hs : s.Books)
    (howner : (s.entry e).owner = some p) (horphan : (s.entry e).orphan = false)
    (ha : s.pool.allocate p = some (b, pool)) : (s.storeData e payload b pool).Books := by
  have hentry : ((s.withPool (pool.store b 0 payload)).modEntry e ConnEntry.acceptData).entry e =
      (s.entry e).acceptData := entry_setEntry_same ..
  have hnotice := fun q => makeNotices_hands (s := (s.withPool (pool.store b 0 payload)).modEntry e ConnEntry.acceptData)
    (e := e) (p := p) [.received b payload.length] (by rw [hentry]; exact howner) (by rw [hentry]; exact horphan) q
  have haccept : ∀ q, ((s.withPool (pool.store b 0 payload)).modEntry e ConnEntry.acceptData).hands q = s.hands q :=
    fun q => by
    have hstored := setEntry_hands_same (s := s.withPool (pool.store b 0 payload)) (e := e) (c := (s.entry e).acceptData)
      (fun _ => rfl) q
    have hpool := withPool_hands (s := s) (pool.store b 0 payload) q
    rw [show ((pool.store b 0 payload).account q).held = (s.account q).held from allocate_held ha q] at hpool
    exact hstored.trans (add_right_cancel hpool)
  obtain ⟨hbowner, hbbuffers⟩ := announceBusy_same
    ((((s.withPool (pool.store b 0 payload)).modEntry e ConnEntry.acceptData).makeNotice e
      (.received b payload.length)).entry e)
  refine books_lists (books_allocated hs ha ?_ ?_ fun q => ?_) hbowner (by rw [hbbuffers])
  · rw [makeNotice_pool]
    rfl
  · intro q
    rw [State.account, makeNotice_pool]
    rfl
  · exact (hnotice q).trans (by rw [haccept q]; rfl)

theorem books_takeData {sn : Seq} {payload : List Byte} (hs : s.Books)
    (howner : (s.entry e).owner = some p) (horphan : (s.entry e).orphan = false) :
    (s.takeData e sn payload).Books := by
  unfold State.takeData
  dsimp only
  split
  · exact books_lists hs (outOfOrder_buffers _).1 (by rw [(outOfOrder_buffers _).2])
  · split
    · exact books_lists hs rfl rfl
    · split
      · next b pool ha =>
        rw [howner] at ha
        exact books_storeData hs howner horphan ha
      · exact books_entryEvent (e := e) (b := .starved e) (books_lists (c := (s.entry e).starve) hs rfl rfl) rfl

/-- R33, step 3. -/
theorem books_takeKind {f : Frame} (hs : s.Books) (howner : (s.entry e).owner = some p)
    (horphan : (s.entry e).orphan = false) : (s.takeKind e f).Books := by
  have hstatus : ∀ waiting, (s.takeStatus e waiting).Books := fun waiting => by
    have hset : (s.setEntry e { s.entry e with flags := { (s.entry e).flags with peerWaiting := waiting } }).Books :=
      books_lists hs rfl rfl
    unfold State.takeStatus
    dsimp only
    split
    · exact hset
    · exact books_entryEvent hset (by cases waiting <;> rfl)
  unfold State.takeKind
  split
  · exact books_takeData hs howner horphan
  · exact hstatus false
  · exact hstatus true
  · refine books_lists hs rfl ?_
    rw [inPort_buffers, inPort_buffers]
    simp [ConnEntry.markAll, Function.comp_def]
  · exact hs

theorem frameDone_same (c : ConnEntry) (isWait progress q : Bool) :
    (c.frameDone isWait progress q).owner = c.owner ∧ (c.frameDone isWait progress q).buffers = c.buffers := by
  unfold ConnEntry.frameDone
  dsimp only
  split
  · exact ⟨rfl, rfl⟩
  · split
    · exact ⟨rfl, rfl⟩
    · split <;> exact ⟨rfl, rfl⟩

/-- R33. -/
theorem books_transfer {f : Frame} (hs : s.Books) (h : ConnectionsOk s) (hlive : (s.entry e).live = true) :
    (s.takeTransfer e f).Books := by
  obtain ⟨k, -⟩ := (ok_live hlive).1 (h.entries e)
  obtain ⟨p, howner⟩ := ok_owner k.params
  by_cases hn : (seqEN f.seq - (s.entry e).va).toNat ≤ (s.entry e).unacked.length
  · rw [takeTransfer_acked (live_iff.1 hlive) hn]
    have hkind := books_takeKind (f := f) (books_acked (f := f) hs howner k.orphan) (acked_owner howner k.orphan)
      (acked_orphan howner k.orphan)
    exact books_lists hkind (frameDone_same ..).1 (by rw [(frameDone_same ..).2])
  · rw [takeTransfer_badAck (Nat.lt_of_not_le hn)]
    have hend := books_endEntry hs howner k.orphan (s.entry e).remoteIndex .badAck
    rwa [show ({ s.entry e with remoteIndex := (s.entry e).remoteIndex } : ConnEntry) = s.entry e from rfl,
      setEntry_entry] at hend

/-! ### Entries that return to FREE -/

/-- R14. -/
theorem books_endExchange (hb : s.Books) (h : ConnectionsOk s) (timedOut : Bool) (hs : (s.entry e).state = .closing)
    (hopen : s.sched.tx = none ∨ (s.entry e).answerTimer ≠ none) : (s.endCloseExchange e timedOut).Books := by
  have hbuffers := buffers_quiet (h.entries e) (by simp [ConnEntry.live, hs]) (closing_unacked h hs hopen)
  cases horphan : (s.entry e).orphan with
  | true =>
    rw [endCloseExchange_orphan horphan]
    exact books_freeEntry hb (by rw [hbuffers, ((ok_closing hs).1 (h.entries e)).orphan horphan]; rfl)
  | false =>
    by_cases hnotices : (s.entry e).notices = []
    · rw [endCloseExchange_quiet horphan hnotices]
      exact books_closedEvent (books_freeEntry hb (by rw [hbuffers, hnotices]; rfl)) _ _ _
    · rw [endCloseExchange_waits horphan hnotices]
      exact books_lists hb rfl rfl

/-- R17, R19. -/
theorem books_free (hb : s.Books) (h : ConnectionsOk s)
    (hs : (s.entry e).state = .opening ∨
      ((s.entry e).state = .ended ∧ (s.entry e).notices = [] ∧ (s.entry e).unacked = [])) : (s.freeEntry e).Books := by
  refine books_freeEntry hb ?_
  rcases hs with hs | ⟨hs, hnotices, hempty⟩
  · have k := (ok_opening hs).1 (h.entries e)
    rw [buffers_quiet (h.entries e) (by simp [ConnEntry.live, hs]) k.unacked, k.notices]
    rfl
  · rw [buffers_quiet (h.entries e) (by simp [ConnEntry.live, hs]) hempty, hnotices]
    rfl

/-- R140: the CLOSING entries that go OFFLINE hold no buffer. -/
theorem books_goOffline (hb : s.Books) (h : ConnectionsOk s) (hquiet : s.sched.tx = none)
    (hunused : s.turn.engine = .stopping ∨ ∀ e, (s.entry e).inUse = false) : s.goOffline.Books := by
  have hclosing : ∀ e, (s.entry e).state = .closing → (s.entry e).buffers = [] := fun e hs => by
    have horphan : (s.entry e).orphan = true := by
      rcases hunused with hstopping | hno
      · rcases h.away (.inr hstopping) e with hf | hf | ⟨-, -, ho⟩
        · rw [hs] at hf
          cases hf
        · rw [hs] at hf
          cases hf
        · exact ho
      · have := hno e
        simp [ConnEntry.inUse, hs] at this
    rw [buffers_quiet (h.entries e) (by simp [ConnEntry.live, hs]) (closing_unacked h hs (.inl hquiet)),
      ((ok_closing hs).1 (h.entries e)).orphan horphan]
    rfl
  refine books_same hb (by rw [goOffline_eq]; rfl) (fun q => by rw [goOffline_eq]; rfl) fun q => hands_same ?_ ?_ fun k => ?_
  · rw [goOffline_eq]
    rfl
  · rw [goOffline_eq, lineEvent_port, offer_queued _ rfl]
    rfl
  · rw [goOffline_entry]
    split
    · next hs => rw [inPort_empty (hclosing k hs), inPort_empty (c := {}) rfl]
    · rfl

/-- R107, R108: the notice admitted takes its buffer to the queue. -/
theorem books_admission {n : Notice} {rest : List Notice} (hb : s.Books) (h : ConnectionsOk s)
    (howner : (s.entry e).owner = some p) (hnotices : (s.entry e).notices = n :: rest) :
    (((s.setEntry e { s.entry e with notices := rest }).modPort p fun ps =>
      { ps.takeIn (.held e n) with admission := e }).afterAdmission e (s.entry e) n).Books := by
  have hsplit : ((noticeBuffers (s.entry e).notices : List Handle) : Multiset Handle) =
      (noticeBuffers [n] : List Handle) + (noticeBuffers rest : List Handle) := by
    rw [hnotices]
    exact noticeBuffers_append [n] rest
  have hlost : ((({ s.entry e with notices := rest } : ConnEntry).buffers : List Handle) : Multiset Handle) +
      (noticeBuffers [n] : List Handle) = (s.entry e).buffers := by
    rw [inPort_buffers, inPort_buffers, hsplit]
    abel
  have hqueued : (({ (s.port p).takeIn (.held e n) with admission := e } : PortState)).queued =
      (s.port p).queued + (noticeBuffers [n] : List Handle) :=
    (queued_append (s.port p) [(s.port p).heldRecord e n]).trans (by rw [← heldRecord_buffers (s.port p) e [n]]; rfl)
  have hadmitted : ((s.setEntry e { s.entry e with notices := rest }).modPort p fun ps =>
      { ps.takeIn (.held e n) with admission := e }).Books := by
    refine books_same hb rfl (fun _ => rfl) fun q => ?_
    have hport := setPort_gains (s := s.setEntry e { s.entry e with notices := rest }) (p := p)
      (ps := { (s.port p).takeIn (.held e n) with admission := e }) hqueued q
    exact hport.trans (setEntry_loses (c := { s.entry e with notices := rest }) howner rfl hlost q)
  have hentry : ((s.setEntry e { s.entry e with notices := rest }).modPort p fun ps =>
      { ps.takeIn (.held e n) with admission := e }).entry e = { s.entry e with notices := rest } :=
    entry_setEntry_same ..
  by_cases hlast : (s.entry e).state = .closing ∧ (s.entry e).closeFinished = true ∧ rest = []
  · obtain ⟨hs, hfinished, hrest⟩ := hlast
    rw [afterAdmission_closing hs hfinished (by rw [hentry]; exact hrest) howner]
    refine books_modPort (books_freeEntry hadmitted ?_) (offer_queued _ rfl)
    have k := (ok_closing hs).1 (h.entries e)
    have hempty := (k.finished hfinished).2.1
    rw [hentry, hrest]
    unfold ConnEntry.buffers
    rw [k.emptied.1, hempty]
    rfl
  · by_cases hbusy : (n.isReceived && (s.entry e).live && (s.entry e).noticeFull) = true
    · simp only [Bool.and_eq_true] at hbusy
      obtain ⟨⟨hn, hlive⟩, hfull⟩ := hbusy
      rw [afterAdmission_busy (live_iff.1 hlive) hn hfull, endOfBusy_eq]
      exact books_lists hadmitted rfl rfl
    · rw [afterAdmission_quiet (Bool.eq_false_iff.2 hbusy)]
      · exact hadmitted
      · rw [hentry]
        simpa [List.isEmpty_iff, and_assoc] using hlast

/-! ### The frame on the line -/

/-- R30: a DATA frame moves a message within its entry. -/
theorem takeMessage_buffers {c d : ConnEntry} {m : Msg} {sn : Seq} (h : c.takeMessage = some (m, sn, d)) :
    d.owner = c.owner ∧ (d.buffers : Multiset Handle) = c.buffers := by
  unfold ConnEntry.takeMessage at h
  split at h
  · next m' list hlist =>
    cases h
    have hhandles := takeMarked_map (·.msg.handle) (fun _ => rfl) hlist
    refine ⟨rfl, ?_⟩
    rw [inPort_buffers, inPort_buffers, hhandles]
  · split at h
    · cases h
    · next m' rest hqueue =>
      cases h
      refine ⟨rfl, ?_⟩
      have hhead : ((c.sendQueue.map (·.handle) : List Handle) : Multiset Handle) =
          {m.handle} + (rest.map (·.handle) : List Handle) := by
        rw [hqueue]
        rfl
      rw [inPort_buffers, inPort_buffers, hhead, List.map_append, ← Multiset.coe_add]
      show _ + (_ + ({m.handle} : Multiset Handle)) + _ = _
      abel

theorem books_giveFrame {c : ConnEntry} {f : Frame} {sn : Option Seq} {d : Discharged} (hs : s.Books)
    (howner : c.owner = (s.entry e).owner) (hbuffers : (c.buffers : Multiset Handle) = (s.entry e).buffers) :
    (s.giveFrame e c f sn d).Books :=
  books_startFrame (books_lists hs howner hbuffers) _ _ _ _

theorem books_giveData (hs : s.Books) (e : EntryIdx) : (s.giveData e).Books := by
  unfold State.giveData
  split
  · exact hs
  · next m sn c htake =>
    obtain ⟨howner, hbuffers⟩ := takeMessage_buffers htake
    exact books_giveFrame hs howner hbuffers

theorem books_giveResponse (hs : s.Books) (e : EntryIdx) : (s.giveResponse e).Books := by
  unfold State.giveResponse
  dsimp only
  split
  · exact books_giveFrame hs rfl rfl
  · split
    · exact books_giveFrame hs rfl rfl
    · split
      · exact books_giveFrame hs rfl rfl
      · split
        · exact books_giveData hs e
        · exact books_giveFrame hs rfl rfl

theorem books_giveInitiative (hs : s.Books) (e : EntryIdx) : (s.giveInitiative e).Books := by
  unfold State.giveInitiative
  split
  · exact books_giveFrame hs rfl rfl
  · exact books_giveFrame hs rfl rfl
  · exact books_giveFrame hs rfl rfl
  · exact books_giveFrame hs rfl rfl
  all_goals exact hs

/-- R148 to R151. -/
theorem books_startChoice (hs : s.Books) (c : Choice) : (s.startChoice c).Books := by
  have hmove : (s.withSched (s.sched.moveTo c)).Books := books_eq hs rfl rfl rfl
  cases c with
  | stray r => exact books_startFrame hmove _ _ _ _
  | response e => exact books_giveResponse hmove e
  | initiative e => exact books_giveInitiative hmove e
  | data p e => exact books_giveData hmove e
  | passing e p k => exact books_giveData (books_lists (c := (s.entry e).settleAbort) hmove rfl rfl) k

theorem emptied_buffers {c : ConnEntry} {m : SentMsg} (hm : c.unacked = [m]) :
    ((({ c with unacked := [] } : ConnEntry).buffers : List Handle) : Multiset Handle) +
      ([m.msg.handle] : List Handle) = c.buffers := by
  rw [inPort_buffers, inPort_buffers, hm]
  show _ + (0 : Multiset Handle) + _ + _ = _ + (([m.msg.handle] : List Handle) : Multiset Handle) + _
  abel

theorem deferred_buffers (c : ConnEntry) (sn : Seq) (m : SentMsg) :
    noticeBuffers (c.deferredNotices sn m) = [m.msg.handle] := by
  unfold ConnEntry.deferredNotices
  split
  · split <;> rfl
  · rfl

/-- R18, R52: the buffer of the deferred message goes with its notice, or back from an orphan. -/
theorem books_deferred {sn : Seq} (hs : s.Books) (hok : (s.entry e).ok (some sn))
    (hstate : (s.entry e).state = .closing ∨ (s.entry e).state = .ended) : (s.finishDeferred e sn).Books := by
  rcases finishDeferred_cases hok hstate with ⟨-, heq⟩ | ⟨m, p, hm, howner, ⟨-, heq⟩ | ⟨horphan, heq⟩⟩ <;> rw [heq]
  · exact hs
  · have hlost := setEntry_loses (s := s) (c := { s.entry e with unacked := [] }) (x := ([m.msg.handle] : List Handle))
      howner rfl (emptied_buffers hm)
    refine books_releaseAll (t := s.setEntry e { s.entry e with unacked := [] }) (hs := [m.msg.handle]) hs rfl
      (fun _ => rfl) ?_ fun q hq => ?_
    · have := hlost p
      rwa [if_pos rfl] at this
    · have := hlost q
      rwa [if_neg hq, add_zero] at this
  · refine books_tells hs howner horphan rfl ?_
    rw [deferred_buffers]
    exact emptied_buffers hm

theorem books_frame {sn : Option Seq} (hs : s.Books) (hok : (s.entry e).ok sn)
    (hstate : (s.entry e).state = .closing ∨ (s.entry e).state = .ended) : (sn.elim s (s.finishDeferred e)).Books := by
  cases sn with
  | none => exact hs
  | some sn => exact books_deferred hs hok hstate

theorem sentLive_same (c : ConnEntry) (x : TxRecord) :
    (c.sentLive x).owner = c.owner ∧ (c.sentLive x).buffers = c.buffers := by
  have hstart : ∀ c : ConnEntry, c.startAfterSend.owner = c.owner ∧ c.startAfterSend.buffers = c.buffers := fun c => by
    rw [startAfterSend_fields]
    exact ⟨rfl, rfl⟩
  unfold ConnEntry.sentLive
  split
  · exact hstart c
  · split
    · exact hstart _
    · split <;> exact ⟨rfl, rfl⟩

/-- R153, step 1, at an entry. -/
theorem books_frameSent (hs : s.Books) (hok : (s.entry e).ok x.sn) : (s.frameSent e x).Books := by
  have hlive : (s.setEntry e ((s.entry e).sentLive x).settleTimer).Books := by
    obtain ⟨howner, hbuffers⟩ := sentLive_same (s.entry e) x
    exact books_lists hs ((settleTimer_owner _).trans howner) (by rw [settleTimer_buffers, hbuffers])
  cases hstate : (s.entry e).state with
  | free => rwa [frameSent_left (.inl hstate)]
  | opening =>
    by_cases hkind : x.frame.kind = .opening
    · rw [frameSent_opening hstate hkind]
      exact books_lists hs rfl rfl
    · rwa [frameSent_left (.inr ⟨hstate, hkind⟩)]
  | opened => rwa [frameSent_live (.inl hstate)]
  | draining => rwa [frameSent_live (.inr hstate)]
  | closing =>
    by_cases hkind : x.frame.kind = .close
    · rw [frameSent_closing hstate hkind]
      exact books_lists hs rfl rfl
    · rw [frameSent_deferred (.inr ⟨hstate, hkind⟩)]
      exact books_frame hs hok (.inl hstate)
  | ended =>
    rw [frameSent_deferred (.inl hstate)]
    exact books_frame hs hok (.inr hstate)

/-- R154, step 1, at an entry. -/
theorem books_frameFailed (hs : s.Books) (hok : (s.entry e).ok x.sn) : (s.frameFailed e x).Books := by
  have hremark : ((((({ s.entry e with flags := (s.entry e).flags.restore x.discharged } : ConnEntry).remark
      x.sn).buffers : List Handle)) : Multiset Handle) = (s.entry e).buffers := by
    have hhandles : (({ s.entry e with flags := (s.entry e).flags.restore x.discharged } : ConnEntry).remark
        x.sn).unacked.map (·.msg.handle) = (s.entry e).unacked.map (·.msg.handle) := by
      unfold ConnEntry.remark
      rw [List.map_map]
      refine List.map_congr_left fun m _ => ?_
      dsimp only [Function.comp_apply]
      split <;> rfl
    rw [inPort_buffers, inPort_buffers, hhandles]
    rfl
  cases hstate : (s.entry e).state with
  | free => rwa [frameFailed_before (.inl hstate)]
  | opening => rwa [frameFailed_before (.inr hstate)]
  | opened =>
    rw [frameFailed_live (.inl hstate)]
    exact books_lists hs rfl hremark
  | draining =>
    rw [frameFailed_live (.inr hstate)]
    exact books_lists hs rfl hremark
  | closing =>
    rw [frameFailed_deferred (.inl hstate)]
    exact books_frame hs hok (.inl hstate)
  | ended =>
    rw [frameFailed_deferred (.inr hstate)]
    exact books_frame hs hok (.inr hstate)

/-- R153, step 1. -/
theorem books_sent (hs : s.Books) (h : ConnectionsOk s) (hx : s.sched.tx = some x) : (s.originSent x).clearTx.Books := by
  refine books_eq (s := s.originSent x) ?_ rfl rfl rfl
  cases ho : x.origin with
  | stray =>
    rw [originSent_stray ho]
    exact books_eq hs rfl rfl rfl
  | turn a =>
    unfold State.originSent
    rwa [ho]
  | entry e =>
    cases hd : x.detached with
    | true => rwa [originSent_detached ho hd]
    | false =>
      rw [originSent_entry ho hd]
      exact books_frameSent hs (messageOnLine_here hx ho hd ▸ h.entries e)

/-- R154, step 1. -/
theorem books_failed (hs : s.Books) (h : ConnectionsOk s) (hx : s.sched.tx = some x) :
    (s.originFailed x).clearTx.Books := by
  refine books_eq (s := s.originFailed x) ?_ rfl rfl rfl
  cases ho : x.origin with
  | stray => rwa [originFailed_other fun e he => by rw [ho] at he; cases he]
  | turn a => rwa [originFailed_other fun e he => by rw [ho] at he; cases he]
  | entry e =>
    cases hd : x.detached with
    | true => rwa [originFailed_detached ho hd]
    | false =>
      rw [originFailed_entry ho hd]
      exact books_frameFailed hs (messageOnLine_here hx ho hd ▸ h.entries e)

/-! ### Every effect -/

/-- R2, R8, R9: an entry that may end has an owner to tell. -/
theorem told_owner (h : ConnectionsOk s) (hs : (s.entry e).state = .opening ∨ (s.entry e).live = true) :
    ∃ p, (s.entry e).owner = some p ∧ (s.entry e).orphan = false := by
  obtain ⟨hparams, horphan⟩ : (s.entry e).paramsOk ∧ (s.entry e).orphan = false := by
    rcases hs with hopening | hlive
    · have k := (ok_opening hopening).1 (h.entries e)
      exact ⟨k.params, k.orphan⟩
    · obtain ⟨k, -⟩ := (ok_live hlive).1 (h.entries e)
      exact ⟨k.params, k.orphan⟩
  obtain ⟨p, howner⟩ := ok_owner hparams
  exact ⟨p, howner, horphan⟩

/-- R117: WAITING leaves no frame on the line. -/
theorem State.LineOk.offlineQuiet (h : s.LineOk) (hquiet : s.sched.tx = none ∨ s.turn.engine = .waiting) :
    s.sched.tx = none := by
  refine hquiet.elim id fun hwaiting => ?_
  by_contra hsome
  have := h.transmits (Option.isSome_iff_ne_none.2 hsome)
  rw [hwaiting] at this
  simp at this

/-- R93: a quota moves no buffer. -/
theorem books_quota (hs : s.Books) (q : Port) (reserve limit : Nat) :
    (s.withPool (s.pool.withQuota q reserve limit)).Books := by
  have haccount : ∀ k, ((s.pool.withQuota q reserve limit).account k).charge = (s.account k).charge ∧
      ((s.pool.withQuota q reserve limit).account k).held = (s.account k).held := fun k => by
    rw [Pool.withQuota, modAccount_account]
    split
    · next hq =>
      subst hq
      exact ⟨rfl, rfl⟩
    · exact ⟨rfl, rfl⟩
  exact books_same hs rfl (fun k => (haccount k).1) fun k => hands_same (haccount k).2 rfl fun _ => rfl

/-- R9: the ARRIVED notice holds no buffer. -/
theorem books_arrives {station service : Byte} (hs : s.Books) (howner : (s.entry e).owner = some p)
    (horphan : (s.entry e).orphan = false) : (s.makeNotice e (.arrived station service)).Books := by
  have hpool := makeNotice_pool s e (.arrived station service)
  refine books_same hs (by rw [hpool]) (fun q => by rw [State.account, hpool]; rfl) fun q => ?_
  exact (makeNotices_hands [.arrived station service] howner horphan q).trans (by
    rw [show noticeBuffers [.arrived station service] = [] from rfl, Multiset.coe_nil, ite_self, add_zero])

/-- Every effect keeps the books. -/
theorem Effect.books (h : Effect s t) (hline : s.LineOk) (hs : s.Books) : t.Books := by
  have hc := hline.connections
  cases h with
  | transaction p ps hqueue _ _ => exact books_setPort hs (by rw [PortState.queued, hqueue]; rfl)
  | offer p b hb => exact books_setPort hs (offer_queued _ hb)
  | lineEvent c => exact books_lineEvent hs c
  | filter p k f _ => exact books_setPort hs rfl
  | fetch p n => exact books_takeRecords hs p n
  | admission p e n rest _ howner hnotices => exact books_admission hs hc howner hnotices
  | resetEntry p e => exact books_resetEntry hs hc p e
  | resetQueue p => exact books_resetQueue hs p
  | resetHeld p => exact books_resetHeld hs p
  | getBuffer p b pool ha => exact books_getBuffer hs ha
  | putBuffer p b hb => exact books_putBuffer hs hb
  | store b offset bytes _ => exact books_same hs rfl (fun _ => rfl) fun _ => hands_same rfl rfl fun _ => rfl
  | quota q reserve limit _ _ _ => exact books_quota hs q reserve limit
  | station a _ => exact books_eq hs rfl rfl rfl
  | aside t hentries hports hpool _ _ _ _ => exact books_eq hs hpool hports hentries
  | listen l _ => exact books_eq hs rfl rfl rfl
  | reset =>
    obtain ⟨hplace, hcharges⟩ := buffers_of_empty (s := s.deviceReset) deviceReset_entry
      (fun p => by rw [deviceReset_port]; rfl) rfl
    exact ⟨hplace, hcharges⟩
  | openEntry p e service station window pr limit time hfree _ _ _ _ =>
    refine books_setEntry hs fun q => ?_
    rw [(ok_free hfree).1 (hc.entries e), inPort_empty (c := {}) rfl, inPort_empty rfl]
  | send p e m howner _ _ hheld => exact books_send hs howner hheld
  | tune e d _ hd =>
    rw [hd.fields]
    exact books_lists hs rfl rfl
  | retry e d _ _ _ => exact books_lists hs rfl rfl
  | abort e b hlive =>
    obtain ⟨k, -⟩ := (ok_live hlive).1 (hc.entries e)
    obtain ⟨p, howner⟩ := ok_owner k.params
    exact books_abort (books_lists (c := { s.entry e with aborted := b }) hs rfl rfl)
      (by rw [entry_setEntry_same]; exact howner) (by rw [entry_setEntry_same]; exact k.orphan)
  | drain e _ =>
    obtain ⟨howner, hbuffers⟩ := drained_same (s.entry e).toDraining.settleTimer
    exact books_lists hs (howner.trans (settleTimer_owner _)) (by rw [hbuffers, settleTimer_buffers]; rfl)
  | free e hstate => exact books_free hs hc hstate
  | finish e r hstate =>
    obtain ⟨p, howner, horphan⟩ := told_owner hc hstate
    have hend := books_endEntry hs howner horphan (s.entry e).remoteIndex r
    rwa [show ({ s.entry e with remoteIndex := (s.entry e).remoteIndex } : ConnEntry) = s.entry e from rfl,
      setEntry_entry] at hend
  | badAccept e index hopening =>
    obtain ⟨p, howner, horphan⟩ := told_owner hc (.inl hopening)
    exact books_endEntry hs howner horphan (some index) .protocol
  | toOpen e station index window _ _ _ _ => exact books_lists hs rfl rfl
  | accept l e station index service window _ hfree _ _ _ =>
    have hset : (s.setEntry e (ConnEntry.accepted l station index service window)).Books :=
      books_setEntry hs fun q => by
        rw [(ok_free hfree).1 (hc.entries e), inPort_empty (c := {}) rfl, inPort_empty rfl]
    exact books_arrives hset (by rw [entry_setEntry_same]; rfl) (by rw [entry_setEntry_same]; rfl)
  | transfer e f hlive _ _ => exact books_transfer hs hc hlive
  | endExchange e timedOut hstate hopen => exact books_endExchange hs hc timedOut hstate (hopen.imp_left And.left)
  | sent x hx => exact books_sent hs hc hx
  | failed x hx => exact books_failed hs hc hx
  | start c _ _ _ => exact books_startChoice hs c
  | offerStray r => rcases offerStray_cases s r with h | ⟨-, -, h⟩ | h <;> rw [h] <;> exact books_eq hs rfl rfl rfl
  | retime tc _ _ _ => exact books_eq hs rfl rfl rfl
  | toWaiting tc _ _ _ _ => exact books_eq hs rfl rfl rfl
  | toHolding tc _ _ _ => exact books_eq hs rfl rfl rfl
  | toStopping tc _ _ _ _ _ => exact books_eq hs rfl rfl rfl
  | sendTurn tc a _ _ _ => exact books_startFrame (s := s.withTurn tc) (books_eq hs rfl rfl rfl) _ _ _ _
  | offline hquiet hunused => exact books_goOffline hs hc (hline.offlineQuiet hquiet) hunused
  | countDown =>
    refine books_same hs rfl (fun _ => rfl) fun q => hands_same rfl rfl fun k => ?_
    rw [countDown_entry, tick_fields]
    rfl

/-- Settles O59: each effect of a step keeps the books, given the other promises, which the effects keep too. -/
theorem everyStepKeepsEachBufferInOnePlace : Obligations.EveryStepKeepsEachBufferInOnePlace := by
  intro s t h hlisten htransmits hwaits hconnections hplace hcharges
  have hkept : t.LineOk ∧ t.Books :=
    (step_becomes h).keeps (P := fun u => u.LineOk ∧ u.Books) (fun _ _ k hu => ⟨k.lineOk hu.1, k.books hu.1 hu.2⟩)
      ⟨⟨hlisten, htransmits, hwaits, hconnections⟩, ⟨hplace, hcharges⟩⟩
  exact ⟨hkept.2.place, hkept.2.charges⟩

end Sys2Proof.Machine
end
